-- ==== Sys2Proof/Word.lean ====
section
/-!
DEFINITION. Words of the Oxhild model: the 64-bit register word, the byte, and register numbers.
Bit ranges follow R2 (bit 0 least significant); wider values are built little-endian elsewhere.
-/

namespace Sys2Proof

/-- A 64-bit register, instruction word or table word (R57, R140). -/
abbrev Word := BitVec 64

/-- One byte of memory (R2). -/
abbrev Byte := BitVec 8

/-- A 6-bit register field of an instruction word (R140). -/
abbrev Reg := BitVec 6

end Sys2Proof
end

