-- ==== Sys2Proof/Config.lean ====
section
/-!
DEFINITION. What the manual leaves open: opaque constants with no body. A claim holds whatever they are.
Each takes a plain counter or the operands it depends on; the log entry that declares it is named.
-/

namespace Sys2Proof

/-- Which of several steps that may happen next does (no order is given between agents; R121, R397).
The argument is the model's own counter of free choices. Log entry 3. -/
opaque Config.pick : Nat → Nat

/-- Whether an instruction that reads a register with a performed but not yet returned long-latency
write sees the new value: R35 allows the old or the new one. Log entry 4. -/
opaque Config.earlyRead : Nat → Nat → Bool

/-- Whether a fetch takes the stale word held by the instruction cache or the word now in memory:
R153 lets each 8-byte word be old or new. Log entry 5. -/
opaque Config.staleFetch : Nat → Nat → Bool

/-- Whether one byte of an overlapping copy sees the value its own command wrote (R204). Log entry 6. -/
opaque Config.copySeesOwn : Nat → Nat → Bool

/-- The RSA-3072 signature of an attestation report under the device identity key, whose value the
manual does not give (R306). Log entry 7. -/
opaque Config.identitySignature : List Byte → List Byte

/-- The stored symbols a home returns when an HBM codeword holds more than twelve bad symbols, for which
R344 promises neither correction nor detection: the byte of the sector at the index given. Log entry 8. -/
opaque Config.undetectedByte : Nat → Nat → Byte

/-- Whether such a codeword is still detected (R344 promises detection only up to twelve). Log entry 8. -/
opaque Config.detectsBeyond : Nat → Bool

/-- The correctly rounded code of a transcendental function whose rounding no interval evaluation of this model up to 160 · 2²³
bits decided: arguments are the function number, the format number, the rounding code, the
stochastic draw and the operand code.
R173 fixes the value; the model leaves it free there. Log entry 9. -/
opaque Config.undecidedRounding : Nat → Nat → Nat → Nat → Nat → Nat

/-- A free word: the value of a step's open result, applied to the model's counter. Log entry 10. -/
opaque Config.freeWord : Nat → Word

/-- The supply-loss detection and other delays are events of their own; this is the fabric address by which remote
packages name this one, which the manual gives no value (R301, R302). Log entry 11. -/
opaque Config.ownFabricAddress : Nat

/-- The fused digest of the vendor key and the fused minimum security version (R305). Log entry 12. -/
opaque Config.vendorKeyDigest : Nat

/-- The fused minimum security version of the firmware image (R305). Log entry 12. -/
opaque Config.minSecurityVersion : Nat

/-- The RSASSA-PSS check of a signature over a digest, by key (R305); the key itself is not given. Log entry 12. -/
opaque Config.signatureValid : List Byte → List Byte → List Byte → Bool

/-- Whether a translation cache still holds an entry it once filled: the caches are finite and R116 gives no replacement order.
The arguments are the model's counter, the cache's level and place, and the page. Log entry 13. -/
opaque Config.keepsTranslation : Nat → Nat → Nat → Nat → Bool

/-- Which of the entries of a full cache leaves it: the manual gives no replacement order for the translation caches, L1, L2, RDC and the
lease tables. The arguments are the model's counter and what comes in. Log entry 13. -/
opaque Config.victim : Nat → Nat → Nat

/-- The pseudo-channel that stores a 64 B sector of a stack (R345): the manual does not number them. Log entry 8. -/
opaque Config.pseudoChannel : Nat → Nat

/-- Whether every junction of a die that has tripped is below 100 °C when the host writes its step (R310): the manual gives no measure
of it. Log entry 14. -/
opaque Config.cooled : Nat → Bool

/-- Spare lanes of each UCIe module beyond its 64 (R17, R375), by link: the manual does not number them. Log entry 16. -/
opaque Config.spareLanes : Nat → Nat

/-- Whether a write to the MRAM die cannot be completed (R391): bank, image sequence number, chunk (4,096 for the directory area),
attempt. Log entry 17. -/
opaque Config.mramWriteFails : Nat → Nat → Nat → Nat → Bool

/-- How many chunks beyond the admission limit the bank still saves before its energy runs out (R378, R396). Log entry 15. -/
opaque Config.extraChunks : Nat → Nat

/-- Where Pelelo keeps a plot's entry of the plot table and its mapper list (R283): it lays out its own memory, and the manual gives no
address. Log entry 73. -/
opaque Config.plotEntry : Nat → Nat
opaque Config.mapList : Nat → Nat

/-- The HBM row that holds a 64 B sector (R375): the manual does not number them. Log entry 80. -/
opaque Config.hbmRow : Nat → Nat

/-- Whether a dirty line of a home slice cannot be written to HBM when its partition is reset (R374): the manual does not say when. The
arguments are the model's counter and the line. Log entry 47. -/
opaque Config.lineUnwritable : Nat → Nat → Bool

end Sys2Proof
end

