-- ==== Sys2Proof/Syntax.lean ====
section
/-!
DEFINITION. The abstract syntax: one constructor of Instr per row of the table of operations and events.
Rows 1 to 116 are Tlaris instructions (R150, R151) and carry the fields of their instruction word (R140 to R147);
the other rows are the part's other indivisible steps and carry what the outside world or another agent supplies.
-/

namespace Sys2Proof

/-- The fifteen element types of the TYPE field (R143). -/
inductive Ty where
  | b64 | s64 | n64 | s32 | n32 | s16 | n16 | s8 | n8 | f64 | f32 | f16 | bf16 | f8e4 | f8e5
  deriving DecidableEq, Repr

/-- Rounding modes (R92). -/
inductive Rnd where
  | rne | rz | ru | rd | rs
  deriving DecidableEq, Repr

/-- The guard fields GN and GP of an instruction word (R140, R141). -/
structure Guard where
  neg : Bool
  p : BitVec 3
  deriving DecidableEq, Repr

/-- Format R (R142). -/
structure FR where
  g : Guard
  sub : BitVec 3
  d : Reg
  a : Reg
  b : Reg
  c : Reg
  swz : BitVec 6
  ty : Ty
  rnd : Rnd
  sat : Bool
  reuse : Bool
  ext : BitVec 9
  deriving DecidableEq, Repr

/-- Format I (R145). -/
structure FI where
  g : Guard
  sub : BitVec 3
  d : Reg
  a : Reg
  imm : BitVec 36
  deriving DecidableEq, Repr

/-- Format M (R146). For fence.x the masks, and for cpy the two space bits, lie in the low bits; see `FM.dstSpace`. -/
structure FM where
  g : Guard
  f : Bool
  sub : BitVec 3
  d : Reg
  a : Reg
  b : Reg
  scope : BitVec 3
  lh : BitVec 2
  ub : Bool
  sp : Bool
  cnt : BitVec 3
  off : BitVec 20
  deriving DecidableEq, Repr

/-- Format X (R147). -/
structure FX where
  g : Guard
  f : Bool
  sub : BitVec 3
  d : Reg
  a : Reg
  b : Reg
  c : Reg
  sla : BitVec 3
  slb : BitVec 3
  msel : BitVec 4
  men : Bool
  byp : Bool
  reuse : Bool
  sp : Bool
  deriving DecidableEq, Repr

/-- Format H (R147). -/
structure FH where
  g : Guard
  f : Bool
  sub : BitVec 3
  d : Reg
  a : Reg
  b : Reg
  c : Reg
  mc : BitVec 2
  tb : BitVec 3
  sp : Bool
  kn : BitVec 4
  rot : BitVec 13
  deriving DecidableEq, Repr

/-- Format S (R147). -/
structure FS where
  g : Guard
  d : Reg
  a : Reg
  code : BitVec 16
  deriving DecidableEq, Repr

/-- A team: its root launch, whether it was spawned, and its number (R28, R50). -/
structure TeamKey where
  lid : Nat
  spawned : Bool
  num : Nat
  deriving DecidableEq, Repr

/-- A thread: its team and its TID (R29). -/
structure ThrKey where
  team : TeamKey
  tid : Nat
  deriving DecidableEq, Repr

/-- The engine paths that serve commands chunk by chunk (R260). -/
inductive EngineUnit where
  | copy | tile | hyper
  deriving DecidableEq, Repr

/-- One record of a migration image (R293), as it is received, with the 64 B pieces of its payload that came in PCI Express completions
that carry poison (R348). -/
structure MigRecord where
  kind : Nat
  gpa : Nat
  poison : Bool
  payload : List Byte
  crc : Nat
  spoilt : List Nat := []
  deriving DecidableEq, Repr

/-- What an inbound Furrow access does (R302). -/
inductive RemoteOp where
  | load (len : Nat)
  | store (data : List Byte)
  | atomic (op aty : Nat) (b b2 : Nat) (returns : Bool)
  deriving DecidableEq, Repr

/-- An inbound Furrow access: origin package and device, the local device it names, and the guest-physical address (R302). -/
structure RemoteReq where
  srcPkg : Nat
  srcVd : Nat
  vd : Nat
  gpa : Nat
  op : RemoteOp
  deriving DecidableEq, Repr

/-- A write of a queue's kick register: the word, and whether a core made it and not the host (R248, R249). -/
structure KickWrite where
  word : Word
  core : Bool
  deriving DecidableEq, Repr

/-- The reading of a plot's container: the plot, how many of its reads, in their order, meet an error of the link (R352), and the 64 B pieces
of the container that a successful PCI Express completion has brought poisoned (R348). -/
structure ContainerRead where
  plot : Nat
  bad : Nat
  spoilt : List Nat := []
  deriving DecidableEq, Repr

/-- What Pelelo asks of a plot (R285), or does with a lost one: the leaves of a mapper remapped to a new frame (R352). -/
inductive PlotAsk where
  | evict | promote | remap (vd frame : Nat)
  deriving DecidableEq, Repr

/-- The look at a device's unanswered pulls, and whether their PCI Express route is down (R354). -/
structure PullCheck where
  vd : Nat
  routeDown : Bool
  deriving DecidableEq, Repr

/-- How an outbound request is answered: with success or not, and whether the data are poisoned (R298, R348). -/
structure OutReply where
  ok : Bool
  poison : Bool
  deriving DecidableEq, Repr

/-- The on-die array content an SRAM error strikes (R364). -/
inductive SramSite where
  | cleanCopy (index : Nat)
  | translation (index : Nat)
  | fetchedWord (index : Nat)
  | cleanLine (k : ThrKey) (line : Nat)
  | dirtyLine (k : ThrKey) (line : Nat)
  | teamState (t : TeamKey) (unit : Nat)
  | scratchRow (t : TeamKey) (row : Nat)
  | windowEntry (cluster sector : Nat)
  | combining (id : Nat)
  | reservation (cluster : Nat) (t : TeamKey)
  | engineCommand (id : Nat)
  | shared (part : Nat)
  deriving DecidableEq, Repr

/-- A die that keeps global time (R351). -/
inductive TimeDie where
  | compute (d : Nat)
  | memory (d : Nat)
  deriving DecidableEq, Repr

/-- What the boot chain finds: the firmware image and its signature, the later stages it measures, the clusters that fail
at boot, the port modes and capacities, the host ranges granted to the second tier, and the bank measurement (R294, R299, R305, R375, R378). -/
structure BootImage where
  bytes : List Byte
  signature : List Byte
  key : List Byte
  version : Nat
  stages : List (List Byte)
  failedClusters : List Nat
  cxlPorts : List (Nat × Nat)
  hostRanges : List (Nat × Nat)
  ecap : Nat
  badBanks : List Nat
  deriving DecidableEq, Repr

/-- Which register space a host write names: BAR0 of the management function or of a virtual function (R292, R295), the SR-IOV
capability of function 0, or the MSI-X capability of a function of port 0 (R318). -/
inductive RegSpace where
  | mgmt
  | vf (vd : Nat)
  | sriov
  | msixCap (fn : Nat)
  deriving DecidableEq, Repr

/-- The steps of the part, one constructor per row of the table. -/
inductive Instr where
  /-- Adds the packed sub-elements of va and vb (or an immediate) with wrap-around or saturation into vd. (R164) -/
  | add (f : FR)
  /-- Subtracts vb (or an immediate) from va per sub-element with wrap-around or saturation. (R164) -/
  | sub (f : FR)
  /-- Multiplies va and vb per sub-element, keeping the low bits or clamping. (R164) -/
  | mul (f : FR)
  /-- Computes va times vb plus vc per sub-element with wrap-around or saturation. (R164) -/
  | mad (f : FR)
  /-- Writes the high half of the exact product of va and vb per sub-element. (R164) -/
  | mulhi (f : FR)
  /-- Adds to vc the dot product of four byte pairs of va and vb for each 32-bit sub-element. (R164) -/
  | dot4 (f : FR)
  /-- Adds the absolute difference of va and vb to vc per sub-element. (R164) -/
  | sad (f : FR)
  /-- Writes the smaller of va and vb per sub-element. (R164) -/
  | min_ (f : FR)
  /-- Writes the larger of va and vb per sub-element. (R164) -/
  | max_ (f : FR)
  /-- Writes the absolute value of va per signed sub-element, wrapped or clamped. (R164) -/
  | abs_ (f : FR)
  /-- Writes the negation of va per signed sub-element, wrapped or clamped. (R164) -/
  | neg (f : FR)
  /-- Computes a 64-bit address from va plus a scaled, optionally extended index from vb. (R165) -/
  | lea (f : FR)
  /-- Selects va or vb per sub-element according to a predicate. (R165) -/
  | sel (f : FR)
  /-- Copies vb or a replicated immediate into vd per enabled sub-element. (R165) -/
  | mov (f : FR)
  /-- Loads vd with the sign-extended 36-bit immediate. (R166) -/
  | movi (f : FI)
  /-- Writes the 32-bit immediate into the high half of vd, keeping the low half. (R166) -/
  | moviHi (f : FI)
  /-- Bitwise AND of va and vb or an immediate. (R167) -/
  | and_ (f : FR)
  /-- Bitwise OR of va and vb or an immediate. (R167) -/
  | or_ (f : FR)
  /-- Bitwise XOR of va and vb or an immediate. (R167) -/
  | xor_ (f : FR)
  /-- Bitwise AND of va with the complement of vb. (R167) -/
  | andn (f : FR)
  /-- Bitwise complement of va. (R167) -/
  | not_ (f : FR)
  /-- Shifts each sub-element of va left, giving zero for amounts of w or more. (R167) -/
  | shl (f : FR)
  /-- Shifts each sub-element of va right logically. (R167) -/
  | shr (f : FR)
  /-- Shifts each sub-element of va right arithmetically with sign fill. (R167) -/
  | sar (f : FR)
  /-- Rotates each sub-element of va left by the amount modulo w. (R167) -/
  | rot (f : FR)
  /-- Counts leading zero bits of each sub-element. (R167) -/
  | clz (f : FR)
  /-- Counts one bits of each sub-element. (R167) -/
  | popc (f : FR)
  /-- Reverses the bit order of each sub-element. (R167) -/
  | bitrev (f : FR)
  /-- Extracts a bit field described by vb from va, sign- or zero-extended. (R168) -/
  | bfe (f : FR)
  /-- Inserts the low bits of va into vc at the field described by vb. (R168) -/
  | bfi (f : FR)
  /-- Compares integer sub-elements and writes the result into predicate bits. (R169) -/
  | cmp (f : FR)
  /-- Compares floating-point sub-elements under an ordered or unordered condition into predicate bits. (R169) -/
  | fcmp (f : FR)
  /-- Writes predicate bits from a mask bit chosen by the floating-point class of each sub-element. (R170) -/
  | fclass (f : FR)
  /-- ANDs two predicates bit by bit under the guard. (R171) -/
  | pand (f : FR)
  /-- ORs two predicates bit by bit under the guard. (R171) -/
  | por (f : FR)
  /-- XORs two predicates bit by bit under the guard. (R171) -/
  | pxor (f : FR)
  /-- Complements a predicate bit by bit under the guard. (R171) -/
  | pnot (f : FR)
  /-- Copies the low eight bits of a vector register into a predicate. (R171) -/
  | pmovFromVector (f : FR)
  /-- Writes a predicate, zero-extended, into a vector register. (R171) -/
  | pmovToVector (f : FR)
  /-- ORs each predicate bit over the contributing lanes of the aligned set. (R185) -/
  | voteAny (f : FR)
  /-- ANDs each predicate bit over the contributing lanes of the aligned set. (R185) -/
  | voteAll (f : FR)
  /-- Gathers one predicate bit from every contributing lane into a 64-bit mask. (R185) -/
  | voteBallot (f : FR)
  /-- Fetches for each sub-element the sub-element of another lane named by an index. (R183) -/
  | shfl (f : FR)
  /-- Sends each sub-element to an indexed destination, the highest sender winning collisions. (R184) -/
  | bperm (f : FR)
  /-- Adds floating-point sub-elements with one rounding. (R173) -/
  | fadd (f : FR)
  /-- Subtracts floating-point sub-elements with one rounding. (R173) -/
  | fsub (f : FR)
  /-- Multiplies floating-point sub-elements with one rounding. (R173) -/
  | fmul (f : FR)
  /-- Computes va times vb plus vc with a single rounding. (R173) -/
  | fma (f : FR)
  /-- Returns the smaller operand bit for bit, ignoring a single NaN. (R174) -/
  | fmin (f : FR)
  /-- Returns the larger operand bit for bit, ignoring a single NaN. (R174) -/
  | fmax (f : FR)
  /-- Clears the sign bit, canonicalising NaN. (R174) -/
  | fabs (f : FR)
  /-- Inverts the sign bit, canonicalising NaN. (R174) -/
  | fneg (f : FR)
  /-- Rounds each sub-element to an integral value in its own format. (R175) -/
  | frnd (f : FR)
  /-- Computes the correctly rounded reciprocal. (R173) -/
  | frcp (f : FR)
  /-- Computes the correctly rounded reciprocal square root. (R173) -/
  | frsq (f : FR)
  /-- Computes the correctly rounded square root. (R173) -/
  | fsqrt (f : FR)
  /-- Computes the correctly rounded power of two. (R173) -/
  | fexp2 (f : FR)
  /-- Computes the correctly rounded base-2 logarithm. (R173) -/
  | flog2 (f : FR)
  /-- Computes the correctly rounded sine. (R173) -/
  | fsin (f : FR)
  /-- Computes the correctly rounded cosine. (R173) -/
  | fcos (f : FR)
  /-- Computes the correctly rounded hyperbolic tangent. (R173) -/
  | ftanh (f : FR)
  /-- Converts sub-elements between types, selecting a part when widths differ. (R176) -/
  | cvt (f : FR)
  /-- Quantises a run of registers through a format slot into a packed register, per thread or per quarter block. (R178) -/
  | qnt (f : FR)
  /-- Dequantises a packed register through a format slot into a run of registers. (R180) -/
  | dqnt (f : FR)
  /-- Packs 4-bit or ternary codes from a run of registers into one register. (R181) -/
  | pack (f : FR)
  /-- Unpacks 4-bit or ternary codes from one register into a run of registers. (R181) -/
  | unpack (f : FR)
  /-- Branches to a clause header relative to the current header. (R186) -/
  | bra (f : FI)
  /-- Writes the following clause address to a link register and branches. (R186) -/
  | call (f : FI)
  /-- Branches to the sum of two registers. (R186) -/
  | brx (f : FR)
  /-- Branches to the address held in a register. (R186) -/
  | ret (f : FR)
  /-- Makes the member Exited, leaving outstanding operations to complete and updating barriers and aligned sets. (R187) -/
  | exit (f : FS)
  /-- Makes the member not ready for n die cycles after its clause. (R188) -/
  | yield (f : FS)
  /-- Loads the REP fields so that the next instruction issues repeatedly with stepped register fields. (R149) -/
  | rep (f : FI)
  /-- Holds the member until guest time reaches a deadline. (R213) -/
  | waitt (f : FS)
  /-- Completes and raises the software trap with a code. (R216) -/
  | trap (f : FS)
  /-- Halts the member when breakpoints are armed, otherwise acts as a breakpoint trap. (R217) -/
  | brk (f : FS)
  /-- Returns from the trap handler to TRPC at TCPOS and clears TACT. (R218) -/
  | eret (f : FS)
  /-- Reads a special register into a vector register. (R214) -/
  | movs (f : FS)
  /-- Sets the virtual device's CYC or NCYC offset on the issuing die. (R215) -/
  | movt (f : FS)
  /-- Issues a load of one or more registers from global memory or scratchpad. (R194) -/
  | ld (f : FM)
  /-- Issues a store of one or more registers to global memory, scratchpad or an aperture. (R195) -/
  | st (f : FM)
  /-- Issues one load per group into team uniform registers. (R196) -/
  | ldu (f : FM)
  /-- Issues an integer atomic read-modify-write that returns the old value. (R197) -/
  | atom (f : FM)
  /-- Issues a floating-point atomic add that returns the old value. (R197) -/
  | atomFadd (f : FM)
  /-- Issues a reduction at the home that returns no value. (R198) -/
  | red (f : FM)
  /-- Holds later memory instructions of the member until its scope condition holds, recording it as pending. (R200) -/
  | fence (f : FM)
  /-- Holds later accesses of destination paths until source-path operations complete. (R201) -/
  | fenceX (f : FM)
  /-- Requests a line into L1 and L2 or RDC under lease, never faulting. (R202) -/
  | pref (f : FM)
  /-- Checks and starts a 1D, 2D, gather or scatter copy-engine command. (R203) -/
  | cpy (f : FM)
  /-- Records the member's arrival on a barrier phase. (R207) -/
  | barArr (f : FR)
  /-- Holds the member in Barrier wait until the phase bit differs from its parity. (R207) -/
  | barWait (f : FR)
  /-- Arrives and waits on a barrier, reducing a register over participants at completion. (R208) -/
  | barRed (f : FR)
  /-- Arrives and waits on a barrier, computing a prefix scan over participants at completion. (R208) -/
  | barScan (f : FR)
  /-- Places a seed of entry address and four arguments into a seed bin. (R210) -/
  | spawn (f : FR)
  /-- Moves the thread to the die that homes an address, waiting for its operations to complete. (R211) -/
  | migr (f : FM)
  /-- Submits a must-save descriptor list for admission and receives a status. (R212) -/
  | musts (f : FM)
  /-- Starts a load of consecutive tiles through a format slot, incrementing their generations. (R228) -/
  | tld (f : FX)
  /-- Starts a store of consecutive tiles to memory in the layout tld reads. (R229) -/
  | tst (f : FX)
  /-- Clears the accumulator rows of participating lanes and sets the accumulator kind. (R230) -/
  | acl (f : FX)
  /-- Enters one quarter matrix product per taking-part quarter into the reservation table. (R231) -/
  | mma (f : FX)
  /-- Drains accumulator rows through tensor scales into lane registers. (R235) -/
  | adrn (f : FX)
  /-- Drains accumulator rows into a tile in A layout for bypass. (R236) -/
  | abyp (f : FX)
  /-- Stores drained accumulator elements to memory under the masks. (R237) -/
  | ast (f : FX)
  /-- Loads a hypervector from 1,024 B of memory. (R240) -/
  | hld (f : FH)
  /-- Stores a hypervector to 1,024 B of memory. (R240) -/
  | hst (f : FH)
  /-- Clears a hypervector, or a counter set and its MSAT bit. (R240) -/
  | hclr (f : FH)
  /-- XORs two hypervectors. (R241) -/
  | hbind (f : FH)
  /-- Rotates a hypervector by ROT bits. (R241) -/
  | hperm (f : FH)
  /-- Adds a hypervector's bits as plus or minus one into saturating majority counters. (R241) -/
  | hbun (f : FH)
  /-- Forms a hypervector from counter signs, ties from a tie-break hypervector. (R241) -/
  | hmaj (f : FH)
  /-- Returns the Hamming distance of two hypervectors. (R242) -/
  | hdist (f : FH)
  /-- Returns the population count of a hypervector. (R242) -/
  | hpop (f : FH)
  /-- Writes a hypervector into a match-store entry. (R242) -/
  | hams (f : FH)
  /-- Returns the nearest match-store entry to a hypervector. (R242) -/
  | hnear (f : FH)
  /-- Returns the k nearest match-store entries to a hypervector. (R242) -/
  | hnearK (f : FH)
  /-- Starts a nearest-k search of a hypervector table in memory on the copy engine. (R243) -/
  | hscan (f : FH)
  /-- Raises a due copy-fault, engine-fault or poisoned-data trap at the member's next clause boundary or stop. (R330) -/
  | deferredTrap (k : ThrKey)
  /-- When a core's issue slot is free, chooses a program-counter bucket and forms its group. (R259) -/
  | bucketSelection (core : Nat)
  /-- Suspends a group between repeats after 64 issue cycles when an aged thread waits. (R36) -/
  | groupSuspend (core : Nat)
  /-- Marks a thread aged after 256 ready die cycles without issue. (R54) -/
  | threadAged (k : ThrKey)
  /-- Raises team-stall on every waiting thread of a permanently stalled team. (R41) -/
  | teamStallDetect (t : TeamKey)
  /-- Activates a non-resident Runnable thread by fetching its control line. (R56) -/
  | threadActivation (core : Nat)
  /-- Installs a fetched context line, checks a control line, and readies the thread when all lines are in. (R73) -/
  | contextLineFetchComplete (k : ThrKey) (line : Nat)
  /-- Completes the write-back of a dirty victim line so its entry can be reused. (R75) -/
  | victimWritebackComplete (id : Nat)
  /-- Makes a waiting thread Runnable at its slot of the barrier-release window. (R262) -/
  | barrierRelease (k : ThrKey)
  /-- Makes a yielding member ready again after its n die cycles. (R188) -/
  | yieldExpire (k : ThrKey)
  /-- Completes a waitt when guest time reaches its deadline. (R213) -/
  | waittDeadline (k : ThrKey)
  /-- Completes a pending fence or fence.x and clears PFEN. (R200) -/
  | fenceComplete (k : ThrKey)
  /-- Writes returned load data into registers and decrements the flag. (R194) -/
  | loadReturn (id : Nat)
  /-- Receives a store or reduction acknowledgement, raising TWOWED and decrementing the flag. (R195) -/
  | storeAck (id : Nat)
  /-- Writes an atomic's old value into the register and decrements the flag. (R197) -/
  | atomReturn (id : Nat)
  /-- Serves a read at the home slice, decoding the line and granting a lease expiry. (R123) -/
  | homeReadRequest (id : Nat)
  /-- Answers a renewal as unchanged with a new expiry or with the current version. (R123) -/
  | leaseRenewal (id : Nat)
  /-- Assigns a write time to a store reaching its home and returns the acknowledgement. (R122) -/
  | homeStoreArrival (id : Nat)
  /-- Executes an atomic or reduction at the home atomic unit as a new version. (R126) -/
  | homeAtomic (id : Nat)
  /-- Applies a sequencer multicast at the replica home and acknowledges. (R133) -/
  | replicaUpdate (id : Nat)
  /-- Sends an L2 or RDC combining entry home after 64 die cycles or on a fence. (R119) -/
  | combiningFlush (id : Nat)
  /-- Retires a cluster write-window entry 4 ns after its write time. (R125) -/
  | windowRetire (cluster sector : Nat)
  /-- Decrements a line's heat after 4,096 ns with no store. (R123) -/
  | heatDecay (line : Nat)
  /-- Reads and corrects lines of a stack so each is scrubbed at least daily. (R345) -/
  | scrub (sector : Nat)
  /-- Repairs an erroneous lease-table entry by setting Lmax to t plus 4,096. (R350) -/
  | leaseEntryError (line : Nat)
  /-- Starts a stage-1 invalidation of a page or of the whole device, or sets OVF when busy. (R271) -/
  | tinv (vd : Nat) (x : Word)
  /-- Clears BUSY once covered entries, walks and accesses are finished. (R271) -/
  | tinvComplete (vd : Nat)
  /-- Releases fault-queue records, retrying or aborting each held fault by its ABT bit. (R333) -/
  | fqtail (vd : Nat) (x : Word)
  /-- Pelelo retries a held stage-2 fault or declares the address unmappable. (R334) -/
  | stage2FaultRelease (id : Nat) (retry : Bool)
  /-- Returns the selected counter if its group is allowed, else 0 and sets CNTDEN. (R280) -/
  | cntvalRead (vd : Nat)
  /-- Requests eviction of a plot of the device into the second tier. (R285) -/
  | tierreqEvict (vd : Nat) (x : Word)
  /-- Requests promotion of a held plot back into HBM. (R285) -/
  | tierreqPromote (vd : Nat) (x : Word)
  /-- Rewrites mapper leaves to tier-held and invalidates them when an eviction reaches the engine. (R285) -/
  | evictionStart (h : Nat)
  /-- Writes and seals the container once leases and stores have passed, freeing the frame. (R285) -/
  | containerSealed (h : Nat) (writeFails : Bool)
  /-- Decodes and checks the container, writes the frame and restores mapper leaves. (R285) -/
  | promotionComplete (h : ContainerRead)
  /-- Handles a write of a record address to a queue's kick register. (R249) -/
  | kick (vd j : Nat) (x : KickWrite)
  /-- Checks the read launch record and appends it to the queue or rejects it. (R250) -/
  | kickRecordRead (vd j : Nat)
  /-- Reports a watched counter value and satisfies a dependence when large enough. (R252) -/
  | dependenceReport (vd j pair : Nat)
  /-- Starts a head record whose dependences and start time are satisfied. (R253) -/
  | launchStart (vd j : Nat)
  /-- Places a team on the able cluster of least load, restoring a waiting team's block. (R256) -/
  | teamPlacement (vd : Nat)
  /-- Frees a team's cluster resources once its threads have exited and operations completed. (R48) -/
  | teamComplete (t : TeamKey)
  /-- Completes a launch at its queue after its write times pass, counting it in QDONEA. (R265) -/
  | launchComplete (lid : Nat)
  /-- Advances QSEQ and posts the completion interrupt once the counter increment is acknowledged. (R265) -/
  | qdoneAck (lid : Nat)
  /-- Releases a seed bin as a spawned team when its timer reaches zero. (R50) -/
  | seedBinTimer (cluster bin : Nat)
  /-- Releases a held bin once its spawned-team frame becomes free. (R62) -/
  | spawnedTeamRelease (cluster bin : Nat)
  /-- Grants a migrating thread a landing slot on the target die. (R52) -/
  | landingSlotGrant (die : Nat)
  /-- Serves one chunk of an engine command in rotation and records its cursor. (R260) -/
  | engineChunk (cluster : Nat) (unit : EngineUnit)
  /-- Completes an engine command, decrementing its flag or raising a deferred fault. (R127) -/
  | engineCommandComplete (id : Nat)
  /-- Chooses a reservation entry each engine cycle and runs a fused pass or other matrix operation. (R234) -/
  | matrixArbitration (cluster : Nat)
  /-- Opens a 64 ns window granting up to NENG starts to refused engines, oldest first. (R261) -/
  | limiterWindow (die : Nat)
  /-- Creates a virtual device from a table-entry image. (R269) -/
  | create (vd : Nat) (img : List Word)
  /-- Lets a created device contend for clusters. (R269) -/
  | start (vd : Nat)
  /-- Pre-empts every cluster of a running device and suspends it. (R269) -/
  | suspend (vd : Nat)
  /-- Resumes a suspended device, setting its time offsets. (R281) -/
  | resume (vd : Nat)
  /-- Begins live migration at the source, enabling dirty tracking and copying plots. (R288) -/
  | migout (vd : Nat) (transport : Word)
  /-- Stops a migrating device by pre-empting every cluster. (R288) -/
  | migstop (vd : Nat)
  /-- Ends migration: kills the source or runs the destination. (R288) -/
  | migdone (vd pauseNs : Nat)
  /-- Abandons a migration, restoring the source or freeing the destination. (R269) -/
  | migabort (vd : Nat)
  /-- Creates a migration destination from an incoming image. (R293) -/
  | migin (vd : Nat) (transport : Word) (img : List Word)
  /-- Starts kill-and-drain of a virtual device. (R279) -/
  | kill (vd : Nat)
  /-- Frees a created or killed device, releasing quotas and queues. (R269) -/
  | destroy (vd : Nat)
  /-- Applies selected words of an image to a device's table entry under checks. (R268) -/
  | setf (vd : Nat) (img : List Word) (mask : Word)
  /-- Invalidates stage-2 translations of a guest-physical range. (R271) -/
  | s2inv (vd : Nat) (base len : Word)
  /-- Reads and atomically clears the dirty bitmap into a host buffer. (R287) -/
  | dbswap (vd : Nat)
  /-- Writes a signed measurement report after a host nonce. (R306) -/
  | attest (vd : Nat) (nonce : List Byte)
  /-- Reports a bank header and the state of every saved item. (R393) -/
  | huquery (bank : Nat)
  /-- Writes a saved item's good bytes into a target device's memory. (R394) -/
  | hurestore (bank item vd : Nat)
  /-- Unseals an image bank by zeroing its seal fields. (R393) -/
  | huclear (bank : Nat)
  /-- Completes a management command of undefined OPC with status 4. (R291) -/
  | mgmtUndefinedOpc (opc vd : Nat)
  /-- Grants clusters of each partition to contenders by minimums and stride passes. (R276) -/
  | sliceBoundary
  /-- Drops the device's clean entries and frees the cluster once write-back is done. (R277) -/
  | preemptionComplete (cluster vd : Nat)
  /-- Marks a draining device killed and increments GEN when no request remains. (R279) -/
  | drainComplete (vd : Nat)
  /-- Escalates a drain not complete after 100 µs to a partition reset. (R372) -/
  | drainTimeout (vd : Nat)
  /-- Receives a migration image record, checking its CRC and requesting it again on failure. (R293) -/
  | migrationRecord (vd : Nat) (r : MigRecord)
  /-- Promotes a post-copy plot from a pulled plot record. (R289) -/
  | pullResponse (h : Nat) (r : MigRecord)
  /-- Fails a post-copy pull that has gone unanswered or whose route is down, suspending the device and marking unpulled plots
  unrecoverable. (R354) -/
  | pullTimeout (vd : PullCheck)
  /-- Performs a host posted write at the home of its line with a write time. (R296) -/
  | hostBar2Write (vd off : Nat) (data : List Byte) (poison : Bool)
  /-- Performs a host read at the home after earlier posted writes have passed. (R296) -/
  | hostBar2Read (vd off len : Nat)
  /-- Accepts or refuses an inbound Furrow access against the endpoint map and stage 2. (R302) -/
  | remoteAccess (q : RemoteReq)
  /-- Completes an outbound aperture request from its completion or acknowledgement. (R298) -/
  | apertureCompletion (id : Nat) (ok : OutReply) (data : List Byte)
  /-- Raises system-access when an outbound request gets no completion in time. (R298) -/
  | apertureTimeout (id : Nat)
  /-- Renews a flow's bandwidth reservation window before it expires. (R300) -/
  | furrowReservationRenew (vd e expiry : Nat)
  /-- Checks a read must-save list and admits or refuses it with a status. (R384) -/
  | mustsAdmission (id : Nat)
  /-- Sets the slice length through Pelelo, ignoring out-of-range values. (R275) -/
  | schctlWrite (x : Word)
  /-- Sets scheduled partition widths, refusing writes that break the minimum sums. (R275) -/
  | pwidthWrite (x : Word)
  /-- Sets headroom steering, barrier-release window and NENG of a die. (R263) -/
  | dsctlWrite (die : Nat) (x : Word)
  /-- Requests a DVFS step, starting a change or holding the write while busy. (R308) -/
  | fstepWrite (die : Nat) (x : Word)
  /-- Switches a die's frequency after the relock stop and recomputes INC. (R308) -/
  | dvfsSwitch (die : Nat)
  /-- Drops a die to step 0 when a junction reaches 110 °C. (R310) -/
  | thermalTrip (die : Nat)
  /-- Refreshes each die's measured power every microsecond. (R304) -/
  | powerMeasure (die milliwatts : Nat)
  /-- Halts every thread of a selected team. (R341) -/
  | debugHaltTeam (vd team : Nat)
  /-- Halts every thread of the target launch. (R341) -/
  | debugHaltLaunch (vd : Nat)
  /-- Makes every Halted thread of a selected team Runnable. (R341) -/
  | debugResumeTeam (vd team : Nat)
  /-- Makes every Halted thread of the target launch Runnable. (R341) -/
  | debugResumeLaunch (vd : Nat)
  /-- Writes back a thread's dirty lines, makes it non-resident and Halted, and posts a record. (R341) -/
  | threadHaltEntry (k : ThrKey)
  /-- Requests a partition reset by writing RST. (R373) -/
  | partitionResetRequest (k : Nat) (x : Word)
  /-- Isolates, flushes and resets a hardware partition, killing devices that hold its clusters. (R374) -/
  | partitionReset (k : Nat)
  /-- Ends a partition's self-test, recording failed clusters and returning it to service. (R374) -/
  | selfTestComplete (k : Nat) (failed : List Nat)
  /-- Corrects or handles an on-die SRAM error by the content of the array. (R364) -/
  | sramEccError (die : Nat) (site : SramSite) (double : Bool)
  /-- Writes back a team, restores its logged units and places it again from the checkpoint. (R370) -/
  | rollback (t : TeamKey)
  /-- Compares a die's global time with the reference each microsecond and enters time fault. (R351) -/
  | timeCheck (die : TimeDie) (offNs : Option Nat)
  /-- Returns a die from time fault without stepping its time back. (R351) -/
  | timeRelock (die : TimeDie)
  /-- Resets the partition of a memory-side die in time fault for 100 µs. (R351) -/
  | timeFaultTimeout (md : Nat)
  /-- Remaps a failing UCIe lane to a spare or disables its module. (R375) -/
  | ucieLaneRepair (link modl lane : Nat)
  /-- Reroutes the flows of a Furrow port that goes down. (R375) -/
  | furrowPortDown (port : Nat)
  /-- Verifies and measures firmware, trains links, frees every device and sets READY. (R305) -/
  | boot (image : BootImage)
  /-- Measures the capacitor bank hourly and updates ECAP and MAXSAVE. (R378) -/
  | bankMeasure (millijoules : Nat)
  /-- Detects the input falling below 40 V, records TDET and starts the hold-up sequence. (R377) -/
  | supplyLoss
  /-- At Tc freezes every home, powers off the compute dies and starts the save. (R379) -/
  | holdupFreeze
  /-- Seals the saved image and removes power once the save ends. (R389) -/
  | holdupSeal
  /-- Performs a cold reset after a supply return once the seal completes. (R382) -/
  | supplyReturn (millijoules : Nat)
  /-- Writes a register that has no behaviour of its own, ignoring reserved fields. (R6) -/
  | registerWrite (space : RegSpace) (off : Nat) (x : Word)
  /-- Ends a host BAR2 access that has waited 1 ms on a plot promotion with Completer Abort. (R296) -/
  | bar2PromotionTimeout (id : Nat)
  /-- On loss of the IOD's global time reference, stops every die's issue and resets the package. (R351) -/
  | iodReferenceLoss
  /-- Pelelo requests the eviction or promotion of a plot, for example to free frames under frame pressure. (R285) -/
  | peleloPlotRequest (h : Nat) (ask : PlotAsk)
  deriving DecidableEq, Repr

end Sys2Proof
end

