-- ==== Sys2Proof/Machine/State.lean ====
section
/-!
DEFINITION. The state of an OXH-A1 package as plain data: every piece of state the manual gives the machine, the state
after package cold reset, and the reasons a step can stop. Sparse tables are lists keyed by number.
-/

namespace Sys2Proof.Machine

/-- Memory: (address, byte) pairs, addresses strictly rising, no listed byte equal to the 0 an unlisted address reads as. -/
abbrev Mem := List Host.Cell

/-- The states of a thread (R30). -/
inductive ThreadState where
  | unstarted | runnable | alignedWait | barrierWait | parked | migrating | halted | exited
  deriving DecidableEq, Repr

/-- What a trap record reports (R332), before it is packed into words; `rp`, `rc` are the resume point of R328. -/
structure TrapInfo where
  cause : Nat
  detail : Nat
  addr : Nat
  wr : Bool
  src : Nat
  rp : Word
  rc : Nat
  repa : Bool
  repc : Nat
  deriving DecidableEq, Repr

/-- A register-cache line of a thread: never formed (R258), not held, being fetched, clean, or dirty (R71 to R75). -/
inductive LineState where
  | unformed | absent | fetching | clean | dirty
  deriving DecidableEq, Repr

/-- A thread in Barrier wait (R45, R208): the barrier, whether it carries a payload and under which instruction fields,
whether its arrival is the pending second arrival of R45, and its clause's instruction count. -/
structure BarWait where
  bar : Nat
  payload : Bool
  d : Reg
  a : Reg
  guardBits : Byte
  second : Bool
  count : Nat
  deriving DecidableEq, Repr

/-- A thread: its control line (R64), its vector registers (R57), and where it stands in the core (R30, R54, R73, R341). -/
structure Thread where
  key : ThrKey
  vd : Nat
  consumer : Bool
  budget : Nat
  detached : Bool
  clus : Nat
  st : ThreadState
  pc : Word
  cpos : Nat
  repa : Bool
  repn : Nat
  repc : Nat
  repsd : BitVec 2
  repsa : BitVec 2
  repsb : BitVec 2
  repsc : BitVec 2
  arrv : BitVec 16
  bpar : BitVec 16
  aph : BitVec 16
  pred : Vector Byte 7
  flags : Vector Nat 12
  twowed : Nat
  pfen : Bool
  pfsc : Nat
  pfsrc : BitVec 4
  pfdst : BitVec 4
  /-- The number of the pending fence in issue order, and whether it is a fence.x (the model's own). -/
  pfid : Nat
  pfx : Bool
  tcpos : Nat
  tact : Bool
  tcause : Nat
  trpc : Word
  v : Vector Word 64
  created : Bool
  lines : Vector LineState 9
  used : Vector Nat 9
  /-- Its pinned lines (R39, R54, R74). -/
  pins : Vector Bool 9
  /-- Device generation its lines carry (R71, R77). -/
  gen : Nat
  /-- When it last began to wait for activation, in die cycles (R56; log entry 69). -/
  idleSince : Option Nat
  /-- Its control line's fetch has faulted: it stands at the head of the activation order (R76). -/
  atHead : Bool
  /-- The release of a barrier phase has changed its control line while the line was not on chip: the slot is yet to follow (R45). -/
  owed : Bool
  landing : Option Nat
  since : Option Nat
  aged : Option Nat
  barrier : Option BarWait
  releaseAt : Option Nat
  yieldUntil : Option Nat
  yieldHint : Bool
  /-- A waitt's deadline, with its clause's instruction count (R213). -/
  waitUntil : Option (Nat × Nat)
  /-- Its position comes from an eret whose target is yet to be checked (R218). -/
  ereted : Bool
  migTo : Option Nat
  migSince : Nat
  haltReq : Bool
  brkCode : Option Nat
  due : List TrapInfo
  /-- Traps raised that wait for their lines and record registers, in order (R328, R330). -/
  undelivered : List TrapInfo
  faultPending : Bool
  /-- Its next access is the retry of a held one (R348). -/
  retrying : Bool
  deriving DecidableEq, Repr

/-- A barrier record (R67): arrival count, phase bit and payload tag. -/
structure Barrier where
  count : Nat
  phase : Bool
  tag : BitVec 16
  deriving DecidableEq, Repr

/-- One seed: entry address and four arguments (R49). -/
structure Seed where
  entry : Word
  args : Vector Word 4
  deriving DecidableEq, Repr

/-- The rollback log of a logging team (R366 to R368): the header of its snapshot frame, the units logged, and the lines of its threads,
TID and line, that were not formed yet at the checkpoint (R258). -/
structure SnapLog where
  nlog : Nat
  inel : Bool
  rbn : Nat
  icnt : Nat
  logged : List Nat
  unformed : List (Nat × Nat)
  deriving DecidableEq, Repr

/-- A team: header fields (R68), uniform registers, barriers (R67), and the bulk state of its block as sparse bytes:
tiles, accumulators, hypervectors, majority counters, match store and scratchpad (R66, R67). -/
structure Team where
  key : TeamKey
  vd : Nat
  /-- Device generation its cluster storage carries (R77). -/
  gen : Nat
  cluster : Option Nat
  tcnt : Nat
  pcnt : Nat
  frame : Nat
  s : Vector Word 32
  bars : Vector Barrier 16
  /-- Barriers whose phase has met the test of R45 and has yet to complete (R208, R366). -/
  met : BitVec 16
  msat : BitVec 4
  accs : BitVec 16
  acck : BitVec 16
  tgen : Vector (BitVec 16) 32
  tiles : Mem
  acc : Mem
  hv : Mem
  mc : Mem
  ms : Mem
  scr : Mem
  seeds : List Seed
  placed : Nat
  firstPlacement : Bool
  snap : Option SnapLog
  integrity : Bool
  /-- First scratchpad row of its allocation (R255). -/
  row : Nat
  /-- Rolled back and waiting ahead of the other waiting teams of its launch (R370). -/
  ahead : Bool
  /-- The die cycle and the core of its latest engine instruction (R220). -/
  lastEng : Option (Nat × Nat)
  deriving DecidableEq, Repr

/-- The group in a core's issue slot (R33, R34): the clause words as fetched (R153), header first, and the position. -/
structure Group where
  team : TeamKey
  members : List Nat
  h : Word
  words : List Word
  pos : Nat
  cycles : Nat
  deriving DecidableEq, Repr

/-- What the threads of a bucket share on a core (R33): team, PC, position, REPA, and REPC where REPA is 1. -/
structure BucketId where
  team : TeamKey
  pc : Word
  cpos : Nat
  rep : Bool
  repc : Nat
  deriving DecidableEq, Repr

/-- A core: its issue slot, the last chosen bucket, and whether that bucket's clause carried YLD (R136, R259). -/
structure Core where
  slot : Option Group
  last : Option BucketId
  yld : Bool
  deriving DecidableEq, Repr

/-- A seed bin (R49, R50): its key, its seeds, the die-cycle count at which its timer reaches zero, and whether it is held
with its release condition met (R62). -/
structure Bin where
  vd : Nat
  lid : Nat
  entry : Word
  seeds : List Seed
  dueCyc : Nat
  held : Bool
  deriving DecidableEq, Repr

/-- A member that found no seed bin and waits at its spawn (R49 step 4): its seed as captured, its clause's instruction count, and the
place it stands at: PC, CPOS and TACT. -/
structure Spawner where
  thr : ThrKey
  vd : Nat
  seed : Seed
  count : Nat
  pc : Word
  cpos : Nat
  tact : Bool
  deriving DecidableEq, Repr

/-- A cluster: granted device, device being pre-empted, seed bins, landing slots, and its engine's limiter state (R261). -/
structure Cluster where
  holder : Option Nat
  preempting : Option Nat
  bins : List (Nat × Bin)
  spawners : List Spawner
  landing : List (Nat × ThrKey)
  lastPass : Nat
  refusedAt : Option Nat
  /-- Its pre-emption has reached the write-backs of R277 step 3. -/
  saving : Bool
  deriving DecidableEq, Repr

/-- Where an access goes (R110, R111). -/
inductive Space where
  | scratch | hbm | aperture
  deriving DecidableEq, Repr

/-- How far a core request has come: issued, read or executed at its home or array, or acknowledged (R127). -/
inductive ReqPhase where
  | issued | performed | acked
  deriving DecidableEq, Repr

/-- One outstanding core memory access (R190 to R199): the instruction as stepped, its captured operands, where it goes,
and the data it stores or has read. -/
structure Req where
  id : Nat
  thr : ThrKey
  owners : List Nat
  vd : Nat
  cluster : Nat
  core : Nat
  i : Instr
  flag : Option Nat
  space : Space
  gva : Nat
  gpa : Nat
  dpa : Nat
  len : Nat
  lcls : Nat
  repl : Bool
  data : List Byte
  opB : Nat
  opB2 : Nat
  phase : ReqPhase
  tw : Nat
  poisoned : Bool
  failed : Bool
  retried : Bool
  watch : Bool
  pc : Word
  cpos : Nat
  repa : Bool
  repc : Nat
  order : Nat
  deriving DecidableEq, Repr

/-- A version of some bytes whose write time has not passed (R121): the bytes, the write time, the clusters whose windows hold
them, the writing thread where they came by no window (R125, R126, R133), and the sectors one write covers whole (R347). -/
structure Version where
  tw : Nat
  cells : List Host.Cell
  clusters : List Nat
  writer : Option ThrKey
  clears : List Nat
  deriving DecidableEq, Repr

/-- What a home keeps of a 256 B line (R122, R123): latest lease expiry, last write time, heat, and time of the last store. -/
structure HomeLine where
  lmax : Nat
  tlast : Nat
  heat : Nat
  lastStore : Nat
  deriving DecidableEq, Repr

/-- A leased copy above the home (R123): level 1 is an L1 (place = core), level 2 an L2 or RDC (place = die). -/
structure LeasedCopy where
  vd : Nat
  gen : Nat
  level : Nat
  place : Nat
  line : Nat
  expiry : Nat
  tw : Nat
  deriving DecidableEq, Repr

/-- An entry of a cluster write window (R125): the sector's pending bytes, each byte's address with its store and that store's Tw, 0
before its home has given one, how many stores await their Tw, the latest Tw. -/
structure WinEntry where
  vd : Nat
  gen : Nat
  cluster : Nat
  sector : Nat
  cells : List Host.Cell
  owns : List (Nat × Nat × Nat)
  unacked : Nat
  tw : Nat
  deriving DecidableEq, Repr

/-- Where a store is on its way home (R119, R133): combining since a die-cycle count, on the way, or multicast to a replica. -/
inductive StoreStage where
  | combining (sinceCyc : Nat) | toHome | replica (tw : Nat)
  deriving DecidableEq, Repr

/-- A store on its way to its home, with the requests it answers (R119, R122). -/
structure StoreMsg where
  id : Nat
  die : Nat
  vd : Nat
  line : Nat
  cells : List Host.Cell
  reqs : List Nat
  repl : Bool
  stage : StoreStage
  poisoned : Bool
  deriving DecidableEq, Repr

/-- How far an engine operation has come: queued, held by a replayable fault, done and awaiting completion at `tw`, or ended by
a fault at an address, of a write or not (R332). -/
inductive OpPhase where
  | queued | held | done (tw : Nat) | failed (detail : Nat) (addr : Nat) (wr : Bool)
  deriving DecidableEq, Repr

/-- One operation of a cluster engine (R70, R220, R234, R238): instruction, acting lanes, team issue order, the team
resources it reads and writes, captured operands and progress. -/
structure EngOp where
  id : Nat
  i : Instr
  word : Word
  team : TeamKey
  tid : Nat
  lanes : List Nat
  quarter : Nat
  owners : List Nat
  flag : Option Nat
  cluster : Nat
  ord : Nat
  rd : List Nat
  wr : List Nat
  vals : List Nat
  prog : Nat
  best : List (Nat × Nat)
  enterCyc : Nat
  lastTw : Nat
  phase : OpPhase
  pc : Word
  cpos : Nat
  repa : Bool
  repc : Nat
  recorded : Bool
  /-- Aperture data that has come back for the current chunk: address and bytes. -/
  apt : List (Nat × List Byte)
  deriving DecidableEq, Repr

/-- What a replayable fault holds (R334). -/
inductive HeldWhat where
  | member (k : ThrKey)
  | members (ks : List ThrKey)
  | fetch (ks : List ThrKey)
  | vectorLine (k : ThrKey) (line : Nat)
  | controlLine (k : ThrKey)
  | command (op : Nat)
  | kickRead (vd j : Nat)
  | dependence (vd j pair : Nat)
  | completion (lid : Nat)
  | musts (k : ThrKey)
  | mustOfLaunch (lid : Nat)
  | writeBack (id : Nat)
  | blockRead (t : TeamKey)
  | binRead (lid n : Nat)
  | fqWrite (vd : Nat)
  | outside (id : Nat)
  deriving DecidableEq, Repr

/-- A held replayable fault with its record (R332 to R334); `index` is its count in the fault queue once written there. -/
structure Held where
  id : Nat
  vd : Nat
  what : HeldWhat
  info : TrapInfo
  tid : Nat
  team : Nat
  index : Option Nat
  deriving DecidableEq, Repr

/-- A write-back in progress (R75, R277, R336): line 0 to 8 of a slot or 9 its zeroed rest, 14 the header of a snapshot frame and
15 an entry of its log (R368), 16 + i page i of a team block, or 2^20 + n the record of bin n of the seed area. -/
structure WriteBack where
  id : Nat
  vd : Nat
  cluster : Nat
  thr : ThrKey
  line : Nat
  bytes : List Byte
  gva : Nat
  /-- Its write time once stored, 0 before (R75). -/
  tw : Nat
  deriving DecidableEq, Repr

/-- A record of four words (R332) posted to a stream. -/
structure Rec where
  w0 : Word
  w1 : Word
  w2 : Word
  w3 : Word
  deriving DecidableEq, Repr

/-- A record waiting for room in a device's fault queue, and the held fault it reports, if any (R272). -/
structure FqWait where
  post : Rec
  held : Option Nat
  deriving DecidableEq, Repr

/-- A kick that has reached the IOD: the record's address, whether a core's store brought it, and the cycle of its arrival (R248). -/
structure Kick where
  addr : Word
  core : Bool
  cycle : Nat
  deriving DecidableEq, Repr

/-- A hardware queue's kick page (R247), the kicks not yet read in arrival order, and its pending launches. -/
structure Queue where
  cause : Nat
  err : Bool
  qdonea : Word
  ivec : BitVec 8
  irqr : Bool
  irqc : Bool
  qrej : Word
  completed : BitVec 32
  accepted : BitVec 32
  kicks : List Kick
  pend : List Nat
  deriving DecidableEq, Repr

/-- One admitted must-save range (R383, R384) with the DPA recorded for each of its pages, none where unsaveable (R386). -/
structure MustItem where
  base : Nat
  bytes : Nat
  order : Nat
  didx : Nat
  pages : List (Option Nat)
  gpages : List Nat
  deriving DecidableEq, Repr

/-- An admitted must-save set (R384, R385): its root launch, its device and the order of admission. -/
structure MustSet where
  lid : Nat
  vd : Nat
  admitted : Nat
  items : List MustItem
  deriving DecidableEq, Repr

/-- How far a launch has come (R252, R253, R265). -/
inductive LaunchPhase where
  | pending | started | counting | complete
  deriving DecidableEq, Repr

/-- A launch: the copy of its record (R245, R246), satisfied dependences, and how much of its grid is placed and complete. -/
structure Launch where
  lid : Nat
  vd : Nat
  j : Nat
  addr : Word
  words : Vector Word 32
  phase : LaunchPhase
  startedAt : Nat
  deps : Vector Bool 4
  /-- When its last dependence was satisfied (R276). -/
  depsAt : Nat
  nextTeam : Nat
  doneTeams : Nat
  spawnNext : Nat
  spawnLive : Nat
  mustOk : Bool
  maxTw : Nat
  /-- QDONEA as its completion found it at step 2 of R265. -/
  qdone : Option Nat
  /-- Numbers of the seed-area bin records written at a pre-emption and not yet restored (R49, R61). -/
  savedBins : List Nat
  deriving DecidableEq, Repr

/-- A virtual device: its table entry words 0 to 17 (R267), guest control page (R270), debug block (R340), watchpoints
(R355), counters (R303), queues, and what a stop in progress must remember (R269, R281). -/
structure VDev where
  w : Vector Word 18
  tinvBusy : Bool
  tinvOvf : Bool
  /-- What the invalidation in progress covers, none for everything, and the model's request number at its start (R271). -/
  tinvPage : Option Nat
  tinvMark : Nat
  tinvGone : List Nat
  fqcfg : Word
  fqhead : BitVec 32
  fqtail : BitVec 32
  /-- A write of FQTAIL whose records' homes have yet to serve their reads (R333, R351). -/
  fqtailDue : Option (BitVec 32)
  cntsel : BitVec 10
  cntval : Word
  cntden : Bool
  tierst : BitVec 2
  tierreq : Option (Nat × Bool)
  fqWait : List FqWait
  dbg : Vector Word 8
  wp : Vector Word 8
  counts : List (Nat × Nat)
  queues : List (Nat × Queue)
  stopTo : Option Nat
  stopAt : Nat
  stopView : Vector Nat 5
  drainFrom : Nat
  /-- Memory-side dies in time fault that held requests of the device when its drain began (R279). -/
  drainOn : List Nat
  /-- When it last came to run (R276). -/
  runFrom : Nat
  pullFrom : Option Word
  /-- What an incoming image's launch numbers are raised by, and its must-save lists that wait for MIGDONE (R293, R385). -/
  lidBase : Nat
  imported : List (Nat × List (Nat × Nat))
  /-- The transport of its migration (R293). -/
  transport : Word
  /-- The latest write time given to a write of its function through BAR2 (R296). -/
  bar2Tw : Nat
  /-- How often each record that has not come well has been requested again, by type and address (R293). -/
  retries : List ((Nat × Nat) × Nat)
  /-- The cycle and the core of the latest movt that wrote each of its counter offsets, by the word that holds it (R215). -/
  lastMovt : List (Nat × (Nat × Nat))
  deriving DecidableEq, Repr

/-- A compute die: clock and DVFS (R307 to R309), power registers (R304), distributor controls (R263), integrity
counters (R365), limiter window (R261), time fault (R351). -/
structure Die where
  fcur : Nat
  fstep : Nat
  busy : Bool
  target : Nat
  heldStep : Option Nat
  stopped : Bool
  /-- A junction has reached 110 °C and the die has not left step 0 since (R310). -/
  hot : Bool
  cyc : Nat
  ncyc : Nat
  rem : Nat
  plim : Nat
  pmeas : Nat
  hstr : Bool
  brw : Nat
  neng : Nat
  winStart : Nat
  winStarts : Nat
  shcnt : Nat
  ckcnt : Nat
  srue : Nat
  srce : Nat
  rbcnt : Nat
  escnt : Nat
  timeFault : Bool
  deriving DecidableEq, Repr

/-- A memory-side die: error registers (R346), failed pin groups by pseudo-channel and recent corrections by pseudo-channel and group
(R345), lease floor of its home slice (R350), time fault (R351). -/
structure MemDie where
  cecnt : Nat
  uecnt : Nat
  pgf : BitVec 20
  laddr : Nat
  failed : List (Nat × Nat)
  corrections : List ((Nat × Nat) × Nat)
  /-- Corrections of the last hour by row, with their times, and rows marked for repair, with the time of their next scrub (R375). -/
  rowErrs : List (Nat × Nat)
  badRows : List (Nat × Nat)
  floor : Nat
  timeFaultSince : Option Nat
  deriving DecidableEq, Repr

/-- A hardware partition (R373): state, resets, and the clusters held out of service. -/
structure Part where
  st : Nat
  rcnt : Nat
  failm : BitVec 48
  deriving DecidableEq, Repr

/-- A cached translation (R116), at level 1 in a core's TLB, at 2 in a cluster's, at 3 in a die's cache: the whole walk's
result for a 4 KiB page of a device at one generation, and whether its stage-1 and its stage-2 leaf belong to a 64 KiB group (R114). -/
structure TlbEntry where
  level : Nat
  place : Nat
  vd : Nat
  gen : Nat
  vpage : Nat
  gpage : Nat
  dpage : Nat
  perm1 : BitVec 3
  perm2 : BitVec 3
  lcls : Nat
  repl : Bool
  cont1 : Bool
  cont2 : Bool
  deriving DecidableEq, Repr

/-- A word held by a core's instruction cache (R153). -/
structure CodeWord where
  core : Nat
  vd : Nat
  gen : Nat
  addr : Nat
  word : Word
  deriving DecidableEq, Repr

/-- A plot (R283): its table entry words, its mappers with their leaves' DPA, the earliest time its re-queued eviction may reach the engine,
the held accesses that wait on its promotion, those released by one that withdrew an eviction and yet to perform (R285), and whether its
promotion has been given its frame. -/
structure Plot where
  w : Vector Word 4
  mappers : List (Nat × Nat)
  /-- The guest-physical address at which each mapper maps it, as Pelelo knows it (log entry 73). -/
  gpas : List (Nat × Nat)
  /-- A promotion has withdrawn its active eviction, and its leaves' homes have yet to take the leaves (R285, R351). -/
  withdrawn : Bool
  notBefore : Nat
  requesters : List Nat
  waiters : List (HeldWhat × Nat)
  alloc : Bool
  pulled : Bool
  attempts : Nat
  /-- When its pull was last requested (R354). -/
  askedAt : Nat
  /-- What a pull has brought that cannot be written to a frame yet: the bytes, and the sectors that are poisoned (R289, R349). -/
  arrived : Option (List Byte × List Nat)
  deriving DecidableEq, Repr

/-- An outbound aperture request (R297, R298): what waits on it, the members it is made for beside its thread, whether posted, when sent,
and whether abandoned. -/
structure OutReq where
  id : Nat
  req : Option Nat
  op : Option Nat
  fenceOf : Option ThrKey
  /-- The launch whose completion counter it increments (R199, R265). -/
  launch : Option Nat
  owners : List Nat
  thr : ThrKey
  vd : Nat
  gva : Nat
  gpa : Nat
  dpa : Nat
  data : List Byte
  posted : Bool
  sentAt : Nat
  abandoned : Bool
  deriving DecidableEq, Repr

/-- What waits: a posted write of the host, a read of the host, or an access of another package. -/
inductive WaitKind where
  | write (data : List Byte) (poison : Bool)
  | read
  | remote (q : RemoteReq)
  deriving DecidableEq, Repr

/-- An access from outside that waits: for a promotion, for its home, or for earlier posted writes of its function (R296, R302, R351). -/
structure Bar2Wait where
  id : Nat
  vd : Nat
  off : Nat
  len : Nat
  what : WaitKind
  since : Nat
  /-- The plot whose promotion it waits for. -/
  plot : Option Nat
  deriving DecidableEq, Repr

/-- How a host or remote access ended (R296, R302). -/
inductive HostStatus where
  | success | unsupported | aborted | poisoned | refused
  deriving DecidableEq, Repr

/-- A completed host-side access or command report, as the outside sees it. -/
structure HostReply where
  vd : Nat
  status : HostStatus
  bytes : List Byte
  deriving DecidableEq, Repr

/-- A management command completed (R291): its code, its device and its STATUS. -/
structure MgmtDone where
  opc : Nat
  vd : Nat
  status : Nat
  deriving DecidableEq, Repr

/-- A chunk table entry of an image bank (R388). -/
structure Chunk where
  wrt : Bool
  poison : Bool
  unsave : Bool
  wfail : Bool
  ccrc : Nat
  deriving DecidableEq, Repr

/-- An item entry of an image bank (R388). -/
structure BankItem where
  done : Bool
  strt : Bool
  vd : Nat
  order : Nat
  bytes : Nat
  base : Nat
  lrec : Nat
  doff : Nat
  crc : Nat
  didx : Nat
  deriving DecidableEq, Repr

/-- An image bank with its directory area (R387 to R391). -/
structure Bank where
  ver : Nat
  nitem : Nat
  seq : Nat
  tc : Nat
  tdet : Nat
  sealseq : Nat
  sealcrc : Nat
  items : List BankItem
  chunks : List (Nat × Chunk)
  data : Mem
  bad : Bool
  deriving DecidableEq, Repr

/-- The supply and the hold-up sequence (R377 to R382): running, stopped since TDET, saving since Tc, or without power. -/
inductive Power where
  | on | stopping (tdet : Nat) | saving (tdet tc : Nat) | off
  deriving DecidableEq, Repr

/-- A physical upset the outside may strike an arithmetic unit with, consumed by the next result it touches: bits of a floating-point
result of a member's sub-element inverted in the main unit or in the shadow unit (R360), or an error of n × 2^e in a matrix pass over an
accumulator row 0 to 63 (R362): in what the pass adds to the element of a column, or in the sum V of its extra column. -/
inductive Upset where
  | shadow (core tid elem mask : Nat) (main : Bool)
  | pass (cluster row col : Nat) (n e : Int) (extra : Bool)
  deriving DecidableEq, Repr

/-- Whether an upset stands against the passes of a cluster's matrix engine. -/
def Upset.strikes (u : Upset) (c : Nat) : Bool := match u with
  | .shadow _ _ _ _ _ => false
  | .pass k _ _ _ _ _ => decide (k = c)

/-- What happens next, as plain data: a step of the table, an instruction of one core's issue slot, or the passing of time. -/
inductive Sched where
  | event (i : Instr)
  | core (c : Nat)
  | wait (ns : Nat)
  deriving DecidableEq, Repr

/-- The memory system above and at the homes (Memory Hierarchy and the Lease Consistency Model; When Memory Goes Wrong). -/
structure MemSys where
  mem : Mem
  versions : List Version
  homes : List (Nat × HomeLine)
  copies : List LeasedCopy
  window : List WinEntry
  stores : List StoreMsg
  reqs : List Req
  poison : List Nat
  /-- Symbols in error of stored codewords: sector, and place and error of each (R344). -/
  badSymbols : List (Nat × List (Nat × Byte))
  tlb : List TlbEntry
  code : List CodeWord
  wbs : List WriteBack
  held : List Held
  outs : List OutReq
  deriving DecidableEq, Repr

/-- The management function, the scheduler registers, boot state and what the package has posted to the outside (R263, R275,
R291, R292, R305, R378). -/
structure Mgmt where
  ready : Bool
  booterr : Bool
  bootstep : Nat
  mcqbase : Word
  mcqsz : Nat
  mcqtail : Nat
  mcqhead : Nat
  mcqvec : Nat
  /-- Commands taken that wait behind one of their device in execution (R269, R291), and whether the one now executed was among them. -/
  cmds : List Instr
  taken : Bool
  /-- The next slice boundary (R275). -/
  boundary : Nat
  slice : Nat
  sliceNext : Nat
  widths : Vector Nat 8
  widthsNext : Vector Nat 8
  contenders : List Nat
  dupmap : Word
  measures : Vector (List Byte) 8
  ecap : Nat
  done : List MgmtDone
  msix : List (Nat × Nat)
  /-- MSI-X tables as bytes: 0 the management function's, v + 1 that of device v (R292, R295). -/
  msixTab : List (Nat × Mem)
  /-- Messages marked pending, function and vector (R318). -/
  msixPend : List (Nat × Nat)
  /-- MSI-X control of a function: bit 0 enable, bit 1 function mask (R318). -/
  msixCtl : List (Nat × Nat)
  /-- VF Enable and NumVFs of the SR-IOV capability (R318). -/
  vfEnable : Bool
  numVfs : Nat
  stream : List (Nat × Rec)
  ring : List (Nat × Rec)
  /-- Watch records that wait for the write they announce to become visible (R357): write time, device, record. -/
  ringDue : List (Nat × Nat × Rec)
  /-- Interrupt-remapping entries to be signalled once a write time has passed (R274): write time, device, source (0 the fault queue,
  j + 1 queue j), entry. -/
  signalDue : List (Nat × Nat × Nat × Nat)
  replies : List HostReply
  /-- Migration records received that wait for homes in time fault (R351): device, record. -/
  inbox : List (Nat × MigRecord)
  /-- Migration records sent, each with the transport it took (R293). -/
  sent : List (Word × MigRecord)
  bar2 : List Bar2Wait
  /-- S2INV commands that wait for accesses made before them (R271): device, base, length, the first access made after, and the
  guest-physical pages of the entries dropped. -/
  s2invs : List (Nat × Word × Word × Nat × List Nat)
  /-- The second-tier pool: ranges of system-aperture addresses, each with its bytes (R299). -/
  pool : List (Nat × Nat)
  tier : Mem
  plots : List (Nat × Plot)
  evictions : List Nat
  freeFrames : List Nat
  flows : List ((Nat × Nat) × Nat)
  cxl : List (Nat × Nat)
  lanes : List (Nat × Nat × Nat)
  modulesOff : List (Nat × Nat)
  portsDown : List Nat
  deriving DecidableEq, Repr

/-- The package. -/
structure State where
  /-- The model's own counter of free choices (not the manual's; log entry 3). -/
  free : Nat
  /-- Identifiers for requests, operations and launches (the model's own). -/
  nextId : Nat
  agenda : List Sched
  cur : Nat
  /-- Device global time in ticks of 1 ns (R4, R120). -/
  now : Nat
  power : Power
  /-- Whether some must-save set was admitted when the supply was lost (R379 step 1), and the supply's return during the sequence, with the
  energy measured then, which takes effect once the sequence has ended (R382). -/
  armed : Bool
  supplyBack : Option Nat
  dies : Vector Die 2
  mds : Vector MemDie 8
  parts : Vector Part 8
  ms : MemSys
  vds : List (Nat × VDev)
  launches : List Launch
  teams : List Team
  threads : List Thread
  cores : List (Nat × Core)
  clusters : List (Nat × Cluster)
  ops : List EngOp
  mg : Mgmt
  musts : List MustSet
  banks : Vector Bank 2
  upsets : List Upset
  deriving DecidableEq, Repr

/-- Reasons a step stops with a fault. -/
inductive Fault where
  /-- Raised by `step` while the package has no power after the hold-up sequence (R379 step 5): nothing happens until the
  supply returns. Safe: the machine stops where the hardware sleeps. -/
  | poweredOff
  deriving DecidableEq, Repr

/-- Reasons a step is refused. -/
inductive Refusal where
  /-- Raised by an arm of `exec` whose instruction has no meaning yet. Safe. -/
  | notModelled (mnemonic : String)
  deriving DecidableEq, Repr

/-- A memory-side die after cold reset: error registers zero (R346). -/
def MemDie.reset : MemDie :=
  { cecnt := 0, uecnt := 0, pgf := 0, laddr := 0, failed := [], corrections := [], rowErrs := [], badRows := [], floor := 0,
    timeFaultSince := none }

/-- A compute die after cold reset: DVFS step 10 (R307), PLIM 3,000 (R304), BRW 16, NENG 12 (R263), counters zero. -/
def Die.reset : Die :=
  { fcur := 10, fstep := 10, busy := false, target := 10, heldStep := none, stopped := false, hot := false, cyc := 0, ncyc := 0, rem := 0,
    plim := 3000, pmeas := 0, hstr := false, brw := 16, neng := 12, winStart := 0, winStarts := 0,
    shcnt := 0, ckcnt := 0, srue := 0, srce := 0, rbcnt := 0, escnt := 0, timeFault := false }

/-- An image bank that holds nothing (R387): the manual gives an unwritten MRAM no contents. -/
def Bank.empty : Bank :=
  { ver := 0, nitem := 0, seq := 0, tc := 0, tdet := 0, sealseq := 0, sealcrc := 0, items := [], chunks := [], data := [],
    bad := false }

/-- A memory system with nothing listed, no copy and no request. -/
def MemSys.reset : MemSys :=
  { mem := [], versions := [], homes := [], copies := [], window := [], stores := [], reqs := [], poison := [],
    badSymbols := [], tlb := [], code := [], wbs := [], held := [], outs := [] }

/-- The management registers at their reset values (R275, R292); no device exists and READY is 0 until boot (R305). -/
def Mgmt.reset : Mgmt :=
  { ready := false, booterr := false, bootstep := 0, mcqbase := 0, mcqsz := 4, mcqtail := 0, mcqhead := 0, mcqvec := 0, cmds := [], taken := false,
    boundary := 250000, slice := 250, sliceNext := 250, widths := Vector.replicate 8 48, widthsNext := Vector.replicate 8 48, contenders := [],
    dupmap := 0, measures := Vector.replicate 8 (List.replicate 32 0), ecap := 0, done := [], msix := [], msixTab := [], msixPend := [], msixCtl := [], vfEnable := false, numVfs := 0,
    stream := [], ring := [], ringDue := [], signalDue := [],
    replies := [], inbox := [], sent := [], bar2 := [], s2invs := [], pool := [], tier := [], plots := [], evictions := [], freeFrames := [], flows := [], cxl := [], lanes := [],
    modulesOff := [], portsDown := [] }

/-- The package right after cold reset: global time zero (R120), every device free (R267), nothing placed and no memory
listed. Boot (R305) comes next. -/
def State.reset : State :=
  { free := 0, nextId := 0, agenda := [], cur := 0, now := 0, power := .on, armed := false, supplyBack := none, dies := Vector.replicate 2 Die.reset,
    mds := Vector.replicate 8 MemDie.reset, parts := Vector.replicate 8 { st := 0, rcnt := 0, failm := 0 }, ms := MemSys.reset,
    vds := [], launches := [], teams := [], threads := [], cores := [], clusters := [], ops := [], mg := Mgmt.reset, musts := [],
    banks := Vector.replicate 2 Bank.empty, upsets := [] }

end Sys2Proof.Machine
end

