-- ==== Sys2Proof/Machine/Basic.lean ====
section
/-!
DEFINITION. The plain operations over the state: tables, sparse memory, threads and their registers, teams, launches and virtual devices,
the words of records, and which errors of a stored codeword a home's decoder corrects.
-/

namespace Sys2Proof.Machine

/-! Tables and vectors. -/

/-- Element i of a vector, `d` outside it. -/
def vget {α : Type} {n : Nat} (v : Vector α n) (i : Nat) (d : α) : α := if h : i < n then v[i] else d

/-- A vector with element i replaced; unchanged when i lies outside it. -/
def vset {α : Type} {n : Nat} (v : Vector α n) (i : Nat) (x : α) : Vector α n := if h : i < n then v.set i x h else v

/-- The value under a number in a table. -/
def look {α : Type} (k : Nat) : List (Nat × α) → Option α
  | [] => none
  | (j, a) :: rest => if j = k then some a else look k rest

/-- A table with the value under a number set; numbers stay in ascending order. -/
def put {α : Type} (k : Nat) (v : α) : List (Nat × α) → List (Nat × α)
  | [] => [(k, v)]
  | (j, a) :: rest => if k < j then (k, v) :: (j, a) :: rest else if j = k then (k, v) :: rest else (j, a) :: put k v rest

/-- A table without a number. -/
def drop {α : Type} (k : Nat) (l : List (Nat × α)) : List (Nat × α) := l.filter (fun p => p.1 != k)

/-- Bits [hi:lo] of a word as a number (R2). -/
def bits (w : Word) (hi lo : Nat) : Nat := w.toNat / 2 ^ lo % 2 ^ (hi - lo + 1)

/-- Bit i of a word. -/
def bit (w : Word) (i : Nat) : Bool := w.getLsbD i

/-- A word with bits [hi:lo] replaced. -/
def setBits (w : Word) (hi lo x : Nat) : Word :=
  let n := 2 ^ (hi - lo + 1)
  let v := w.toNat
  BitVec.ofNat 64 (v / 2 ^ (hi + 1) * 2 ^ (hi + 1) + x % n * 2 ^ lo + v % 2 ^ lo)

/-- Little-endian bytes of a number (R2). -/
def leBytes : Nat → Nat → List Byte
  | 0, _ => []
  | n + 1, x => BitVec.ofNat 8 x :: leBytes n (x / 256)

/-- The number little-endian bytes spell (R2). -/
def leNat : List Byte → Nat
  | [] => 0
  | b :: rest => b.toNat + 256 * leNat rest

/-! Sparse memory: an unlisted address reads as 0. -/

/-- The byte at an address. -/
def memRead (m : Mem) (a : Nat) : Byte :=
  match m with
  | [] => 0
  | (k, b) :: rest => if k = a then b else if a < k then 0 else memRead rest a

/-- Memory with one byte written; a zero byte is not listed. -/
def memWrite (m : Mem) (a : Nat) (b : Byte) : Mem :=
  match m with
  | [] => if b = 0 then [] else [(a, b)]
  | (k, c) :: rest =>
    if a < k then (if b = 0 then (k, c) :: rest else (a, b) :: (k, c) :: rest)
    else if k = a then (if b = 0 then rest else (a, b) :: rest)
    else (k, c) :: memWrite rest a b

/-- The canonical form: addresses strictly rising, no listed zero. -/
def Memory.wfFrom : Nat → Mem → Bool
  | _, [] => true
  | lo, (a, b) :: rest => decide (lo ≤ a) && b != 0 && Memory.wfFrom (a + 1) rest

/-- The canonical form of a memory. -/
def Memory.wf (m : Mem) : Bool := Memory.wfFrom 0 m

/-- n bytes from an address. -/
def memReadN (m : Mem) (a : Nat) : Nat → List Byte
  | 0 => []
  | n + 1 => memRead m a :: memReadN m (a + 1) n

/-- Memory with a list of cells written. -/
def memWriteCells (m : Mem) (cells : List Host.Cell) : Mem := cells.foldl (fun m c => memWrite m c.1 c.2) m

/-- The cells of bytes at consecutive addresses. -/
def cellsAt (a : Nat) : List Byte → List Host.Cell
  | [] => []
  | b :: rest => (a, b) :: cellsAt (a + 1) rest

/-- Memory with bytes written at consecutive addresses. -/
def memWriteN (m : Mem) (a : Nat) (bs : List Byte) : Mem := memWriteCells m (cellsAt a bs)

/-- A 64-bit word of memory. -/
def memWord (m : Mem) (a : Nat) : Word := BitVec.ofNat 64 (leNat (memReadN m a 8))

/-! Numbering (R7, R16): four cores to a cluster, 192 clusters to a compute die, 48 clusters to a partition. -/

def clusterOfCore (c : Nat) : Nat := c / 4
def dieOfCluster (c : Nat) : Nat := c / 192
def partOfCluster (c : Nat) : Nat := c / 48

/-! Threads, teams, launches, devices, cores and clusters. -/

/-- A thread by its key. -/
def State.thr? (s : State) (k : ThrKey) : Option Thread := s.threads.find? (fun t => t.key == k)

/-- The state with every thread of a key changed. -/
def State.modThr (s : State) (k : ThrKey) (f : Thread → Thread) : State :=
  { s with threads := s.threads.map (fun t => if t.key == k then f t else t) }

/-- The state with a thread put back. -/
def State.putThr (s : State) (t : Thread) : State := s.modThr t.key (fun _ => t)

/-- A team by its key. -/
def State.team? (s : State) (k : TeamKey) : Option Team := s.teams.find? (fun t => t.key == k)

/-- The state with a team changed. -/
def State.modTeam (s : State) (k : TeamKey) (f : Team → Team) : State :=
  { s with teams := s.teams.map (fun t => if t.key == k then f t else t) }

/-- A launch by its number. -/
def State.launch? (s : State) (lid : Nat) : Option Launch := s.launches.find? (fun l => l.lid == lid)

/-- The state with a launch changed. -/
def State.modLaunch (s : State) (lid : Nat) (f : Launch → Launch) : State :=
  { s with launches := s.launches.map (fun l => if l.lid == lid then f l else l) }

/-- A queue with the reset values of R247. -/
def Queue.empty : Queue :=
  { cause := 0, err := false, qdonea := 0, ivec := 0, irqr := false, irqc := false, qrej := 0, completed := 0, accepted := 0,
    kicks := [], pend := [] }

/-- The four watchpoints at reset: LEN 3, everything else 0 (R355). -/
def watchReset : Vector Word 8 := #v[0, 0x30, 0, 0x30, 0, 0x30, 0, 0x30]

/-- A free virtual device: STATE 0, GEN 0, guest page and debug block at their reset values (R267, R270, R340). -/
def VDev.empty : VDev :=
  { w := Vector.replicate 18 0, tinvBusy := false, tinvOvf := false, tinvPage := none, tinvMark := 0, tinvGone := [], fqcfg := 0, fqhead := 0, fqtail := 0, cntsel := 0,
    cntval := 0, cntden := false, tierst := 0, tierreq := none, fqWait := [], fqtailDue := none, dbg := Vector.replicate 8 0,
    wp := watchReset, counts := [], queues := [], stopTo := none, stopAt := 0, stopView := Vector.replicate 5 0,
    drainFrom := 0, drainOn := [], runFrom := 0, pullFrom := none, lidBase := 0, imported := [], transport := 0, bar2Tw := 0, retries := [], lastMovt := [] }

/-- A virtual device; an index the table does not list is free. -/
def State.vd (s : State) (v : Nat) : VDev := (look v s.vds).getD VDev.empty

/-- The state with a virtual device changed. -/
def State.modVd (s : State) (v : Nat) (f : VDev → VDev) : State := { s with vds := put v (f (s.vd v)) s.vds }

/-- A table-entry word of a device. -/
def VDev.word (d : VDev) (i : Nat) : Word := vget d.w i 0

/-- A device with bits of a table-entry word set. -/
def VDev.setField (d : VDev) (i hi lo x : Nat) : VDev := { d with w := vset d.w i (setBits (d.word i) hi lo x) }

/-- Fields of the table entry (R267). -/
def VDev.state (d : VDev) : Nat := bits (d.word 0) 2 0
/-- Whether a device places teams and issues: running, or in pre-copy after it was running, and no stop begun (R269, R288). -/
def VDev.runs (d : VDev) : Bool :=
  d.stopTo.isNone && (bits (d.word 0) 2 0 = 2 || (bits (d.word 0) 2 0 = 6 && bits (d.word 0) 12 11 = 1 && bit (d.word 0) 3))
def VDev.mph (d : VDev) : Nat := bits (d.word 0) 12 11
def VDev.prun (d : VDev) : Bool := bit (d.word 0) 3
def VDev.gen (d : VDev) : Nat := bits (d.word 0) 63 32
def VDev.qbase (d : VDev) : Nat := bits (d.word 0) 31 20
def VDev.qcnt (d : VDev) : Nat := bits (d.word 0) 19 13
def VDev.s2root (d : VDev) : Nat := bits (d.word 1) 51 12 * 4096
def VDev.s1root (d : VDev) : Nat := bits (d.word 2) 51 12 * 4096
def VDev.weight (d : VDev) : Nat := bits (d.word 3) 63 56
def VDev.pset (d : VDev) : Nat := bits (d.word 3) 55 48
def VDev.maxc (d : VDev) : Nat := bits (d.word 3) 13 8
def VDev.minc (d : VDev) : Nat := bits (d.word 3) 5 0
def VDev.pass (d : VDev) : Nat := (d.word 4).toNat
def VDev.gtoff (d : VDev) : Nat := (d.word 8).toNat
def VDev.irtbase (d : VDev) : Nat := bits (d.word 14) 51 12 * 4096
def VDev.fepbase (d : VDev) : Nat := bits (d.word 15) 51 12 * 4096
def VDev.dbbase (d : VDev) : Nat := bits (d.word 16) 51 16 * 65536
def VDev.dben (d : VDev) : Bool := bit (d.word 16) 0

/-- A core; one that is not listed has a free issue slot. -/
def State.core (s : State) (c : Nat) : Core := (look c s.cores).getD { slot := none, last := none, yld := false }
def State.putCore (s : State) (c : Nat) (x : Core) : State := { s with cores := put c x s.cores }

/-- A cluster; one that is not listed is idle. -/
def Cluster.idle : Cluster := { holder := none, preempting := none, bins := [], spawners := [], landing := [], lastPass := 0, refusedAt := none, saving := false }
def State.cluster (s : State) (c : Nat) : Cluster := (look c s.clusters).getD Cluster.idle
def State.modCluster (s : State) (c : Nat) (f : Cluster → Cluster) : State :=
  { s with clusters := put c (f (s.cluster c)) s.clusters }

/-- A compute die. -/
def State.die (s : State) (d : Nat) : Die := vget s.dies d Die.reset
def State.modDie (s : State) (d : Nat) (f : Die → Die) : State := { s with dies := vset s.dies d (f (s.die d)) }

/-- A memory-side die. -/
def State.md (s : State) (d : Nat) : MemDie := vget s.mds d MemDie.reset
def State.modMd (s : State) (d : Nat) (f : MemDie → MemDie) : State := { s with mds := vset s.mds d (f (s.md d)) }

/-- A queue of a device. -/
def VDev.queue (d : VDev) (j : Nat) : Queue := (look j d.queues).getD Queue.empty
def State.modQueue (s : State) (v j : Nat) (f : Queue → Queue) : State :=
  s.modVd v (fun d => { d with queues := put j (f (d.queue j)) d.queues })

/-- Guest time: device time plus GTOFF (R281). -/
def State.gtime (s : State) (v : Nat) : Nat := (s.now + (s.vd v).gtoff) % 2 ^ 64

/-- Fields of a launch record (R245, R246). -/
def Launch.word (l : Launch) (i : Nat) : Word := vget l.words i 0
def Launch.entry (l : Launch) : Nat := bits (l.word 0) 47 3 * 8
def Launch.handler (l : Launch) : Nat := bits (l.word 1) 47 3 * 8
def Launch.ctx (l : Launch) : Nat := bits (l.word 2) 47 16 * 65536
def Launch.must (l : Launch) : Nat := bits (l.word 3) 47 3 * 8
def Launch.prio (l : Launch) : Nat := bits (l.word 4) 56 54
def Launch.clines (l : Launch) : Nat := bits (l.word 4) 53 51 + 1
def Launch.plines (l : Launch) : Nat := bits (l.word 4) 50 48 + 1
def Launch.pcnt (l : Launch) : Nat := bits (l.word 4) 47 42 * 32
def Launch.threads (l : Launch) : Nat := bits (l.word 4) 41 32 + 1
def Launch.grid (l : Launch) : Nat := bits (l.word 4) 31 0 + 1
def Launch.dcnt (l : Launch) : Nat := bits (l.word 5) 54 52
def Launch.rpri (l : Launch) : Bool := bit (l.word 5) 51
def Launch.mstr (l : Launch) : Bool := bit (l.word 5) 50
def Launch.rbk (l : Launch) : Bool := bit (l.word 5) 49
def Launch.migr (l : Launch) : Bool := bit (l.word 5) 48
def Launch.frames (l : Launch) : Nat := bits (l.word 5) 47 32 + 1
def Launch.stimer (l : Launch) : Nat := let n := bits (l.word 5) 28 16; if n = 0 then 256 else n
def Launch.stimerRaw (l : Launch) : Nat := bits (l.word 5) 28 16
def Launch.srows (l : Launch) : Nat := bits (l.word 5) 14 0
def Launch.start (l : Launch) : Nat := (l.word 6).toNat

/-- A format slot as its two words (R97). -/
structure Slot where
  w0 : Word
  w1 : Word
  deriving DecidableEq, Repr

/-- Slot n of a launch: bytes 128 + 16 n of its record (R246). -/
def Launch.slot (l : Launch) (n : Nat) : Slot := { w0 := l.word (16 + 2 * (n % 8)), w1 := l.word (17 + 2 * (n % 8)) }

/-- What a team owns (R51): a spawned team only its uniform registers; a migratable team no scratchpad and no barriers (R53). -/
def ownsTeamState (k : TeamKey) : Bool := !k.spawned
def ownsBarriers (k : TeamKey) (l : Launch) : Bool := !k.spawned && !l.migr
def scratchBytes (k : TeamKey) (l : Launch) : Nat := if k.spawned then 0 else 64 * l.srows

/-! Plots (R283). -/

/-- Fields of a plot entry (R283). -/
def Plot.state (p : Plot) : Nat := bits (vget p.w 0 0) 63 61
def Plot.shared (p : Plot) : Bool := bit (vget p.w 0 0) 60
def Plot.remote (p : Plot) : Bool := bit (vget p.w 0 0) 59
def Plot.evq (p : Plot) : Bool := bit (vget p.w 0 0) 58
def Plot.frame (p : Plot) : Nat := bits (vget p.w 0 0) 35 0
def Plot.taddr (p : Plot) : Nat := (vget p.w 1 0).toNat
def Plot.clen (p : Plot) : Nat := bits (vget p.w 2 0) 16 0
def Plot.mapl (p : Plot) : Nat := (vget p.w 3 0).toNat
def Plot.set (p : Plot) (i hi lo x : Nat) : Plot := { p with w := vset p.w i (setBits (vget p.w i 0) hi lo x) }

/-- The plot at a handle, and whether it is lost: poisoned or unrecoverable (R352, R354). -/
def State.plot? (s : State) (h : Nat) : Option Plot := look h s.mg.plots
def plotGone (s : State) (h : Nat) : Bool := (s.plot? h).any (fun p => p.state = 5 || p.state = 6)

/-- Where a device maps a plot. -/
def Plot.gpaIn (p : Plot) (v : Nat) : Nat := (look v p.gpas).getD 0

/-! Registers of a thread. -/

/-- p0 to p6, and p7 which reads 0xFF (R58). -/
def Thread.readP (t : Thread) (i : Nat) : Byte := vget t.pred i 0xFF

/-- Writes a predicate; p7 ignores writes (R58). -/
def Thread.writeP (t : Thread) (i : Nat) (b : Byte) : Thread := { t with pred := vset t.pred i b }

/-- The register as its line in the register cache holds it. -/
def Thread.heldV (t : Thread) (i : Nat) : Word := vget t.v i 0

/-- Writes a vector register: its line becomes dirty (R75). -/
def Thread.writeV (t : Thread) (i : Nat) (x : Word) : Thread :=
  { t with v := vset t.v i x, lines := vset t.lines (i / 8 + 1) .dirty }

/-- Registers written by a run of words from register i. -/
def Thread.writeRun (t : Thread) (i : Nat) : List Word → Thread
  | [] => t
  | x :: rest => (t.writeV i x).writeRun (i + 1) rest

/-- Lines of a thread whose control line has changed: it is dirty where it is held (R75). -/
def touched (ls : Vector LineState 9) : Vector LineState 9 :=
  match vget ls 0 .absent with
  | .clean => vset ls 0 .dirty
  | _ => ls

/-- A completion flag's count (R139). -/
def Thread.flag (t : Thread) (f : Nat) : Nat := vget t.flags f 0

/-- A member counts or completes one operation on a flag; no flag, no change (R139). -/
def Thread.flagUp (t : Thread) : Option Nat → Thread
  | some f => { t with flags := vset t.flags f (t.flag f + 1) }
  | none => t
def Thread.flagDown (t : Thread) : Option Nat → Thread
  | some f => { t with flags := vset t.flags f (t.flag f - 1), lines := touched t.lines }
  | none => t

/-- The state code of R30. -/
def ThreadState.code : ThreadState → Nat
  | .unstarted => 0 | .runnable => 1 | .alignedWait => 2 | .barrierWait => 3
  | .parked => 4 | .migrating => 5 | .halted => 6 | .exited => 7

/-- The state of a code of R30. -/
def ThreadState.ofCode : Nat → ThreadState
  | 0 => .unstarted | 1 => .runnable | 2 => .alignedWait | 3 => .barrierWait
  | 4 => .parked | 5 => .migrating | 6 => .halted | _ => .exited

/-- Whether REP governs the member's next instruction: under TACT the REP fields describe the trapped one (R329). -/
def Thread.repActive (t : Thread) : Bool := t.repa && !t.tact

/-- A REP step code's amount (R149). -/
def stepOf (c : BitVec 2) : Nat :=
  match c.toNat with
  | 0 => 0 | 1 => 1 | 2 => 2 | _ => 8

/-! Records (R332) and events. -/

/-- The four words of a trap record (R332); TID and TEAM are 0 for SRC 6 and 7. -/
def mkRec (i : TrapInfo) (rpl : Bool) (tidOf teamOf : Nat) : Rec :=
  let tid := if 6 ≤ i.src then 0 else tidOf
  let team := if 6 ≤ i.src then 0 else teamOf
  { w0 := BitVec.ofNat 64 (i.detail % 2 ^ 16 * 2 ^ 48 + tid % 1024 * 2 ^ 32 + (if i.wr then 2 ^ 23 else 0) + i.src % 8 * 2 ^ 20 +
      (if rpl then 2 ^ 19 else 0) + (if i.repa then 2 ^ 18 else 0) + i.repc % 64 * 2 ^ 12 + i.rc % 16 * 2 ^ 8 + i.cause % 256),
    w1 := BitVec.ofNat 64 (i.rp.toNat % 2 ^ 48 / 8 * 8),
    w2 := BitVec.ofNat 64 i.addr,
    w3 := BitVec.ofNat 64 (team % 2 ^ 32) }

/-- Posts a record to Pelelo's event stream for a device (R274). -/
def State.toStream (s : State) (v : Nat) (r : Rec) : State :=
  { s with mg := { s.mg with stream := s.mg.stream ++ [(v, r)] } }

/-- An event of the model's own numbering that the manual names without a record layout: its cause word is the kind, and its
words carry what the manual says it names (drop, queue-failure, quota, frame-pressure and the like; log entry 24). -/
def State.event (s : State) (v kind a b : Nat) : State :=
  s.toStream v { w0 := BitVec.ofNat 64 (2 ^ 40 + kind), w1 := 0, w2 := BitVec.ofNat 64 a, w3 := BitVec.ofNat 64 b }

/-- Whether a DPA is HBM, reserved, or a system aperture (R111). -/
def hbmDpa (a : Nat) : Bool := a < 0x6000000000
def apertureDpa (a : Nat) : Bool := 0x8000000000000 ≤ a && a < 0x10000000000000

/-- Whether an aperture address lies in a PCI Express window, and in a Furrow window (R297). -/
def pcieDpa (dpa : Nat) : Bool := 0x8000000000000 ≤ dpa && dpa < 0xC000000000000
def furrowDpa (dpa : Nat) : Bool := 0xE000000000000 ≤ dpa && dpa < 0xF000000000000

/-- A word of device memory at its home, now (R121). -/
def State.dpaWord (s : State) (a : Nat) : Word := memWord s.ms.mem a

/-- The sectors an access touches. -/
def sectorsOf (a len : Nat) : List Nat := (List.range ((a + len - 1) / 64 + 1 - a / 64)).map (fun i => a / 64 + i)

/-- Merges a write into memory at once, for writers whose moment is not a store's (host image loads, plot frames, zeroed frames). -/
def State.pokeBytes (s : State) (a : Nat) (bs : List Byte) : State :=
  { s with ms := { s.ms with mem := memWriteN s.ms.mem a bs } }

/-- A 16-bit counter that saturates (R365). -/
def satInc (n : Nat) : Nat := min 0xFFFF (n + 1)

/-- Whether the 64 B sector that holds an address is poisoned. -/
def State.poisoned (s : State) (a : Nat) : Bool := s.ms.poison.contains (a / 64)

/-! Codewords of HBM (R344, R345): which errors the home's decoder corrects and which it finds. -/

/-- The memory-side die that is a line's home (R112). -/
def mdOfDpa (a : Nat) : Nat :=
  let m := Nat.xor (Nat.xor (a / 2 ^ 8 % 4) (a / 2 ^ 12 % 4)) (a / 2 ^ 20 % 4)
  4 * (if a < 0x3000000000 then 0 else 1) + m

/-- Whether a memory-side die holds every request back: it is in time fault (R351), or its partition's reset has begun and requests wait at
the links (R374). -/
def mdHolds (s : State) (m : Nat) : Bool := (s.md m).timeFaultSince.isSome || (vget s.parts m { st := 0, rcnt := 0, failm := 0 }).st = 1

/-- Whether an address's home does; whether any home does. -/
def homeHolds (s : State) (a : Nat) : Bool := mdHolds s (mdOfDpa a)
def anyHolds (s : State) : Bool := (List.range 8).any (mdHolds s)

/-- Pin groups of a sector's pseudo-channel that its home decodes as erasures (R345). -/
def failedGroups (s : State) (sector : Nat) : List Nat :=
  ((s.md (mdOfDpa (64 * sector))).failed.filter (fun f => f.1 = Config.pseudoChannel sector)).map (·.2)

/-- Symbols of a sector in error outside those groups. -/
def strayErrors (s : State) (sector : Nat) (bad : List (Nat × Byte)) : Nat :=
  (bad.filter (fun e => e.2 != 0 && !(failedGroups s sector).contains (e.1 / 4))).length

/-- Errors corrected, and errors at least detected, beside e erased symbols: four and twelve with none erased; the minimum distance
of 17 gives the rest (R344, R345). -/
def corrects (e : Nat) : Nat := min 4 ((16 - e) / 2)
def detects (e : Nat) : Nat := 16 - e - corrects e

/-- Whether a sector's stored word is known to be uncorrectable before it is next decoded (R344). -/
def uncorrectable (s : State) (sector : Nat) : Bool :=
  match look sector s.ms.badSymbols with
  | none => false
  | some bad =>
    let e := 4 * (failedGroups s sector).length
    let n := strayErrors s sector bad
    decide (corrects e < n) && (decide (n ≤ detects e) || Config.detectsBeyond sector)

end Sys2Proof.Machine
end

