-- ==== Sys2Proof/Machine/Ecc.lean ====
section
/-!
DEFINITION. The codewords of HBM and what a home's decoder makes of them (R344 to R347): the Reed–Solomon code, corrections and their
booking, and the detection that poisons a sector.
-/

namespace Sys2Proof.Machine

/-! GF(2⁸) with x⁸ + x⁴ + x³ + x² + 1, and RS(80, 64) over it (R344). -/

/-- A symbol times α = x. -/
def gfDouble (a : Nat) : Nat := if a < 128 then 2 * a else Nat.xor (2 * a) 0x11D

/-- The product of two symbols, over the low n bits of the second. -/
def gfMulN (a b : Nat) : Nat → Nat
  | 0 => 0
  | n + 1 => Nat.xor (gfDouble (gfMulN a (b / 2) n)) (if b % 2 = 1 then a else 0)
def gfMul (a b : Nat) : Nat := gfMulN a b 8

/-- αⁱ. -/
def gfPow : Nat → Nat
  | 0 => 1
  | i + 1 => gfDouble (gfPow i)

/-- A polynomial, highest coefficient first, times x + r. -/
def timesRoot (p : List Nat) (r : Nat) : List Nat := (p ++ [0]).zipWith Nat.xor (0 :: p.map (gfMul r))

/-- The generator: the roots α⁰ to α¹⁵. -/
def rsGenerator : List Nat := (List.range 16).foldl (fun p i => timesRoot p (gfPow i)) [1]

/-- One data symbol into the sixteen check symbols of those before it. -/
def rsStep (reg : List Nat) (d : Nat) : List Nat :=
  let f := Nat.xor (reg.headD 0) d
  (reg.drop 1 ++ [0]).zipWith Nat.xor ((rsGenerator.drop 1).map (gfMul f))

/-- The codeword of 64 data symbols: symbol 0 is the coefficient of x⁷⁹ (log entry 8), symbols 64 to 79 are the check symbols. -/
def rsEncode (data : List Nat) : List Nat := data ++ data.foldl rsStep (List.replicate 16 0)

/-- A word's value at αʲ: all sixteen are zero for a codeword, and only then. -/
def rsSyndrome (w : List Nat) (j : Nat) : Nat := w.foldl (fun acc x => Nat.xor (gfMul acc (gfPow j)) x) 0
def rsCodeword (w : List Nat) : Bool := (List.range 16).all (fun j => rsSyndrome w j = 0)

/-- The word HBM now holds for a sector: its codeword with the symbols in error. -/
def storedWord (s : State) (sector : Nat) (bad : List (Nat × Byte)) : List Nat :=
  bad.foldl (fun w e => w.mapIdx (fun i x => if i = e.1 then Nat.xor x e.2.toNat else x))
    (rsEncode ((memReadN s.ms.mem (64 * sector) 64).map (·.toNat)))

/-! Corrections (R345, R346). -/

/-- One corrected line is counted. -/
def countCorrected (s : State) (d : Nat) : State := s.modMd d (fun m => { m with cecnt := satInc m.cecnt })

/-- A correction booked to a pin group of a pseudo-channel: 64 of them within one second fail the group, and Pelelo receives an event. -/
def bookGroup (s : State) (d pc g : Nat) : State :=
  let m := s.md d
  let recent := (m.corrections.filter (fun c => s.now < c.2 + 10 ^ 9)) ++ [((pc, g), s.now)]
  let n := (recent.filter (fun c => c.1 == (pc, g))).length
  let fails := decide (64 ≤ n) && !m.failed.contains (pc, g)
  let s := s.modMd d (fun m => { m with corrections := recent, failed := if fails then m.failed ++ [(pc, g)] else m.failed,
                                        pgf := if fails then m.pgf ||| BitVec.ofNat 20 (2 ^ g) else m.pgf })
  if fails then s.event 0 5 d g else s

/-- A correction booked to its row: the sixteenth within one hour marks the row for repair at the next package reset, and it is scrubbed every
ten minutes until then (R375). -/
def bookRow (s : State) (d row : Nat) : State :=
  s.modMd d (fun m =>
    let recent := (m.rowErrs.filter (fun c => s.now < c.2 + 3600 * 10 ^ 9)) ++ [(row, s.now)]
    let bad := 16 ≤ (recent.filter (fun c => c.1 = row)).length && !(m.badRows.any (fun b => b.1 = row))
    { m with rowErrs := recent, badRows := if bad then m.badRows ++ [(row, s.now + 600 * 10 ^ 9)] else m.badRows })

/-- The corrections of one line, booked to every group with a symbol in error and to its row. -/
def bookCorrection (s : State) (sector : Nat) (bad : List (Nat × Byte)) : State :=
  let d := mdOfDpa (64 * sector)
  ((bad.filter (fun e => e.2 != 0)).map (fun e => e.1 / 4)).eraseDups.foldl (fun s g => bookGroup s d (Config.pseudoChannel sector) g)
    (bookRow (countCorrected s d) d (Config.hbmRow sector))

/-! Poison (R347). -/

/-- Whether a leased copy holds any of some sectors. -/
def LeasedCopy.holdsAny (c : LeasedCopy) (sectors : List Nat) : Bool :=
  sectors.any (fun x => if c.level = 1 then c.line = x else c.line = x / 4)

/-- No cache level holds a poisoned sector above the home (R347, R358): a copy leased before the mark is dropped with it (the model's choice;
log entry 84). -/
def dropCopies (s : State) (sectors : List Nat) : State :=
  { s with ms := { s.ms with copies := s.ms.copies.filter (fun c => !c.holdsAny sectors) } }

/-- A detected uncorrectable sector: counted and located on its first detection, and poisoned (R346, R347). -/
def poisonSector (s : State) (sector : Nat) : State :=
  if s.ms.poison.contains sector then s
  else
    let d := mdOfDpa (64 * sector)
    dropCopies { (s.modMd d (fun m => { m with uecnt := satInc m.uecnt, laddr := 64 * sector })) with
      ms := { s.ms with poison := s.ms.poison ++ [sector], badSymbols := drop sector s.ms.badSymbols } } [sector]

/-- Sectors written as poison are marked (R348). -/
def markPoison (s : State) (sectors : List Nat) : State :=
  dropCopies { s with ms := { s.ms with poison := s.ms.poison.filter (fun x => !sectors.contains x) ++ sectors } } sectors

/-- The home reads a sector through its decoder (R344, R345): symbols in error are corrected and the codeword written back, or found, or
beyond the code's promise whatever comes (log entry 8). -/
def decodeSector (s : State) (sector : Nat) : State :=
  match look sector s.ms.badSymbols with
  | none => s
  | some bad =>
    let e := 4 * (failedGroups s sector).length
    let fixed := { s with ms := { s.ms with badSymbols := drop sector s.ms.badSymbols } }
    if strayErrors s sector bad ≤ corrects e then
      (if bad.all (fun x => x.2 == 0) then fixed else bookCorrection fixed sector bad)
    else if uncorrectable s sector then poisonSector s sector
    else
      let w := storedWord s sector bad
      fixed.pokeBytes (64 * sector) ((List.range 64).map (fun i =>
        if rsCodeword w then BitVec.ofNat 8 (w.getD i 0) else Config.undetectedByte sector i))

/-- Rows marked for repair are scrubbed as their time comes (R375): every ten minutes each. -/
def scrubRows (s : State) (d : Nat) : State :=
  let due := ((s.md d).badRows.filter (fun b => b.2 ≤ s.now)).map (·.1)
  if due.isEmpty then s
  else
    let at_ := (s.ms.badSymbols.map (·.1)).filter (fun x => mdOfDpa (64 * x) = d && due.contains (Config.hbmRow x))
    (at_.foldl decodeSector s).modMd d (fun m => { m with badRows := m.badRows.map (fun b =>
      if due.contains b.1 then (b.1, s.now + 600 * 10 ^ 9) else b) })

def decodeRange (s : State) (a len : Nat) : State := (sectorsOf a len).foldl decodeSector s

/-- Sectors written whole are clean again (R347). -/
def clearSectors (s : State) (sectors : List Nat) : State :=
  { s with ms := { s.ms with poison := s.ms.poison.filter (fun x => !sectors.contains x),
                             badSymbols := s.ms.badSymbols.filter (fun b => !sectors.contains b.1) } }

/-- Listed sectors with bad symbols in a range are decoded (R345). -/
def decodeListed (s : State) (a len : Nat) : State :=
  (s.ms.badSymbols.filter (fun b => a / 64 ≤ b.1 && b.1 < (a + len + 63) / 64)).foldl (fun s b => decodeSector s b.1) s

/-- Whether a poisoned sector lies in a range. -/
def poisonIn (s : State) (a len : Nat) : Bool := s.ms.poison.any (fun x => a / 64 ≤ x && x < (a + len + 63) / 64)

/-- Whether any sector of a range is poisoned. -/
def anyPoison (s : State) (a len : Nat) : Bool := (sectorsOf a len).any s.ms.poison.contains

end Sys2Proof.Machine
end

