-- ==== Sys2Proof/Machine/Ops.lean ====
section
/-!
DEFINITION. The named operations over the state: posting records and signalling interrupts, translation, versions and homes, the fault
queue, and taking and returning from a trap (R328, R218).
-/

namespace Sys2Proof.Machine

/-- Whether a function may send a vector's message now: MSI-X enabled, and neither the function nor the vector masked (R318). -/
def Mgmt.vectorOpen (m : Mgmt) (fn vec : Nat) : Bool :=
  (look fn m.msixCtl).getD 0 % 4 == 1 && (memRead ((look fn m.msixTab).getD []) (16 * vec + 12)).toNat % 2 == 0

/-- Posts the MSI-X message of a function's vector, or marks it pending (R273, R318). -/
def Mgmt.post (m : Mgmt) (fn vec : Nat) : Mgmt :=
  if m.vectorOpen fn vec then { m with msix := m.msix ++ [(fn, vec)] }
  else if m.msixPend.contains (fn, vec) then m
  else { m with msixPend := m.msixPend ++ [(fn, vec)] }

/-- Posts the pending messages that may now be sent. -/
def Mgmt.postPending (m : Mgmt) : Mgmt :=
  { m with msix := m.msix ++ m.msixPend.filter (fun p => m.vectorOpen p.1 p.2), msixPend := m.msixPend.filter (fun p => !m.vectorOpen p.1 p.2) }

/-- Whether a function number of an interrupt-remapping entry names no enabled function of port 0 (R318). -/
def State.functionOff (s : State) (f : Nat) : Bool :=
  f != 0 && (decide (513 ≤ f) || !s.mg.vfEnable || decide (s.mg.numVfs < f) || (s.vd (f - 1)).state == 0)

/-- Signals entry j of a device's interrupt-remapping table, read through its home's decoder (R273, R318); one in a poisoned sector, of which
no value is returned (R348), signals nothing and is reported as one with V = 0 (the model's choice; log entry 63). -/
def State.signal (s : State) (v j : Nat) : State :=
  let a := (s.vd v).irtbase + 16 * j
  let s := decodeSector s (a / 64)
  let e := s.dpaWord a
  if bit e 63 && !s.poisoned a && !s.functionOff (bits e 26 16) then { s with mg := s.mg.post (bits e 26 16) (bits e 10 0) }
  else s.event v 1 j 0

/-! Stage-2 and stage-1 translation (R113 to R115, R270). -/

/-- Why a translation fails; `at` is the address the failing stage was asked for. -/
inductive XErr where
  | s1Trans (gva : Nat)
  | s1Perm (gva : Nat)
  | s2Trans (gpa : Nat)
  | s2Perm (gpa : Nat)
  | reservedDpa (gpa : Nat)
  | tier (gpa handle : Nat)
  /-- A descriptor's home is in time fault and holds the read (R351). -/
  | homeHolds (dpa : Nat)
  /-- A descriptor lies in a poisoned sector, of which no value is returned (R348; log entry 63). -/
  | poison (dpa : Nat)
  deriving DecidableEq, Repr

/-- What an access needs of a page (R115); `any` needs only a valid leaf (R211). -/
inductive Need where
  | read | write | fetch | any
  deriving DecidableEq, Repr

/-- A finished walk of one stage: the address, X W RD as bits 2 1 0, lease class and REPL. -/
structure Leaf where
  addr : Nat
  perm : BitVec 3
  lcls : Nat
  repl : Bool
  cont : Bool
  deriving DecidableEq, Repr

/-- What one descriptor at a level says (R114). -/
inductive Desc where
  | bad | table (a : Nat) | leaf (l : Leaf) | held (handle : Nat)
  deriving DecidableEq, Repr

/-- Reads a descriptor (R114): reserved are [63:60], [55:52], [11:7], [3:2] and REPL outside a stage-2 leaf. A descriptor of KIND 0b11 is no
leaf here, so that REPL left set in it when a plot is evicted (R285 step 1 keeps the other bits) makes it malformed, and its access raises the
stage-2 translation fault and not the tier fault (the model's choice; log entry 86). The low frame bits of a
1 GiB or 2 MiB leaf, which its page size leaves no use for, are dropped (the model's choice; log entry 59). -/
def readDesc (stage2 : Bool) (level : Nat) (w : Word) (va : Nat) : Desc :=
  let addr := bits w 51 12 * 4096
  let size := 2 ^ (39 - 9 * level)
  let resv := bits w 63 60 != 0 || bits w 55 52 != 0 || bits w 11 7 != 0 || bits w 3 2 != 0
  if resv || (bit w 57 && (!stage2 || bits w 1 0 != 2)) then .bad
  else match bits w 1 0 with
    | 1 => if level < 3 then .table addr else .bad
    | 2 => if level = 0 then .bad
        else .leaf { addr := addr / size * size + va % size, perm := BitVec.ofNat 3 (bits w 6 4), lcls := bits w 59 58,
                     repl := bit w 57, cont := level = 3 && bit w 56 }
    | 3 => if stage2 && level = 3 then .held (bits w 51 12) else .bad
    | _ => .bad

/-- Whether a CONT group agrees: sixteen level-3 leaves all CONT, consecutive frames, or one plot's handle in all, equal attributes
(R113, R114). `ws` are the group's descriptors. -/
def contOk (ws : List Word) : Bool :=
  match ws with
  | [] => false
  | w :: _ =>
    let attr := fun (x : Word) => (bits x 63 52, bits x 11 0)
    let held := bits w 1 0 == 3
    ws.all (fun x => attr x == attr w) && bit w 56 &&
      (List.range ws.length).all (fun i => bits (ws.getD i 0) 51 12 == bits w 51 12 + if held then 0 else i)

/-- A descriptor as its home returns it: held in time fault (R351), and no value of a poisoned sector (R348). -/
def descWord (s : State) (a : Nat) : Except XErr Word :=
  if homeHolds s a then .error (.homeHolds a)
  else if s.ms.poison.contains (a / 64) || uncorrectable s (a / 64) then .error (.poison a)
  else .ok (s.dpaWord a)

/-- The sixteen descriptors of a group, read in order. -/
def descGroup (rd : Nat → Except XErr Word) (table : Nat) : Nat → Nat → Except XErr (List Word)
  | 0, _ => .ok []
  | n + 1, i =>
    match rd (table + 8 * i), descGroup rd table n (i + 1) with
    | .ok w, .ok ws => .ok (w :: ws)
    | .error e, _ => .error e
    | _, .error e => .error e

/-- The stage-2 walk of a guest-physical address; descriptors are read at their homes (R116). -/
def walk2 (s : State) : Nat → Nat → Nat → Nat → Except XErr Leaf
  | 0, _, _, gpa => .error (.s2Trans gpa)
  | fuel + 1, level, table, gpa =>
    let idx := gpa / 2 ^ (39 - 9 * level) % 512
    match descWord s (table + 8 * idx) with
    | .error e => .error e
    | .ok w =>
      match (if level = 3 && bit w 56 then descGroup (descWord s) table 16 (idx / 16 * 16) else .ok []) with
      | .error e => .error e
      | .ok ws =>
        if level = 3 && bit w 56 && !contOk ws then .error (.s2Trans gpa)
        else match readDesc true level w gpa with
          | .bad => .error (.s2Trans gpa)
          | .table a => walk2 s fuel (level + 1) a gpa
          | .leaf l => .ok l
          | .held h => .error (.tier gpa h)

/-- Stage 2 of a guest-physical address for a need, permissions checked, reserved ranges refused (R111, R115). Bits [51:48] that a
stage-1 ADDR can hold are dropped, and a denied access to a reserved range raises the permission fault (the model's choices; log entries
60 and 61). -/
def stage2 (s : State) (v gpa : Nat) (need : Need) : Except XErr Leaf :=
  match walk2 s 4 0 (s.vd v).s2root (gpa % 2 ^ 48) with
  | .error e => .error e
  | .ok l =>
    let ok := match need with
      | .read => l.perm.getLsbD 0 | .write => l.perm.getLsbD 1 | .fetch => l.perm.getLsbD 2 | .any => true
    if !ok then .error (.s2Perm gpa)
    else if !hbmDpa l.addr && !apertureDpa l.addr then .error (.reservedDpa gpa)
    else .ok l

/-- Reads a stage-1 descriptor at a guest-physical address, through stage 2 as a load (R270). -/
def readS1 (s : State) (v gpa : Nat) : Except XErr Word :=
  match stage2 s v gpa .read with
  | .error e => .error e
  | .ok l => descWord s l.addr

/-- The stage-1 walk of a guest-virtual address (R113, R270). -/
def walk1 (s : State) (v : Nat) : Nat → Nat → Nat → Nat → Except XErr Leaf
  | 0, _, _, gva => .error (.s1Trans gva)
  | fuel + 1, level, table, gva =>
    let idx := gva / 2 ^ (39 - 9 * level) % 512
    match readS1 s v (table + 8 * idx) with
    | .error e => .error e
    | .ok w =>
      match (if level = 3 && bit w 56 then descGroup (readS1 s v) table 16 (idx / 16 * 16) else .ok []) with
      | .error e => .error e
      | .ok ws =>
        if level = 3 && bit w 56 && !contOk ws then .error (.s1Trans gva)
        else match readDesc false level w gva with
          | .bad => .error (.s1Trans gva)
          | .held _ => .error (.s1Trans gva)
          | .table a => walk1 s v fuel (level + 1) a gva
          | .leaf l => .ok l

/-- The shorter of two lease classes, in the order 3 < 1 < 0 < 2 (R115). -/
def shorter (a b : Nat) : Nat :=
  let rank := fun (x : Nat) => match x with
    | 3 => 0 | 1 => 1 | 0 => 2 | _ => 3
  if rank a ≤ rank b then a else b

/-- A whole translation. -/
structure Xlat where
  gpa : Nat
  dpa : Nat
  lcls : Nat
  repl : Bool
  perm1 : BitVec 3
  perm2 : BitVec 3
  cont1 : Bool
  cont2 : Bool
  deriving DecidableEq, Repr

/-- Whether permissions X W RD allow a need. -/
def allows (p : BitVec 3) : Need → Bool
  | .read => p.getLsbD 0
  | .write => p.getLsbD 1
  | .fetch => p.getLsbD 2
  | .any => true

/-- Both stages by walks, in the order of R115. -/
def walkBoth (s : State) (v gva : Nat) (need : Need) : Except XErr Xlat :=
  let first := if (s.vd v).s1root = 0 then .ok { addr := gva % 2 ^ 48, perm := 7, lcls := 0, repl := false, cont := false }
    else walk1 s v 4 0 (s.vd v).s1root gva
  match first with
  | .error e => .error e
  | .ok l1 =>
    if !allows l1.perm need then .error (.s1Perm gva)
    else match stage2 s v l1.addr need with
      | .error e => .error e
      | .ok l2 =>
        .ok { gpa := l1.addr, dpa := l2.addr, perm1 := l1.perm, perm2 := l2.perm, repl := l2.repl, cont1 := l1.cont, cont2 := l2.cont,
              lcls := if apertureDpa l2.addr then 3
                else shorter (if (s.vd v).s1root = 0 then 0 else l1.lcls) l2.lcls }

/-! What an access reads on its way: descriptors, and the entry of a Furrow window. -/

/-- The descriptor read at an address, and where a level-3 one says CONT its group's. -/
def descReads (level a : Nat) (w : Word) : List Nat :=
  if level = 3 && bit w 56 then a :: (List.range 16).map (fun i => a / 128 * 128 + 8 * i) else [a]

/-- The descriptors a stage-2 walk reads. -/
def reads2 (s : State) : Nat → Nat → Nat → Nat → List Nat
  | 0, _, _, _ => []
  | fuel + 1, level, table, gpa =>
    let a := table + 8 * (gpa / 2 ^ (39 - 9 * level) % 512)
    match descWord s a with
    | .error _ => [a]
    | .ok w => descReads level a w ++ (match readDesc true level w gpa with
        | .table t => reads2 s fuel (level + 1) t gpa
        | _ => [])

/-- The descriptors a stage-1 walk reads, with those of stage 2 on the way to each. -/
def reads1 (s : State) (v : Nat) : Nat → Nat → Nat → Nat → List Nat
  | 0, _, _, _ => []
  | fuel + 1, level, table, gva =>
    let g := table + 8 * (gva / 2 ^ (39 - 9 * level) % 512)
    reads2 s 4 0 (s.vd v).s2root (g % 2 ^ 48) ++ (match stage2 s v g .read with
      | .error _ => []
      | .ok l => (match descWord s l.addr with
          | .error _ => [l.addr]
          | .ok w => descReads level l.addr w ++ (match readDesc false level w gva with
              | .table t => reads1 s v fuel (level + 1) t gva
              | _ => [])))

/-- The homes' reads of some words (R116), each through its decoder: corrections are written back and booked, and a sector found
uncorrectable is marked (R344 to R347). -/
def readThrough (s : State) (as : List Nat) : State := ((as.map (· / 64)).eraseDups).foldl decodeSector s

/-- What the stage-2 walk of a guest-physical address leaves. -/
def State.walkedGpa (s : State) (v gpa : Nat) : State :=
  if s.ms.badSymbols.isEmpty then s else readThrough s (reads2 s 4 0 (s.vd v).s2root (gpa % 2 ^ 48))

/-- The virtual Furrow endpoint whose window holds an aperture address (R297): its number and the offset. -/
def endpointOf (dpa : Nat) : Nat × Nat := ((dpa - 0xE000000000000) / 0x10000000000, dpa % 0x10000000000)

/-- Where entry e of a device's virtual endpoint map lies, and its two words (R301); one in a poisoned sector, of which no value is returned
(R348), allows nothing (the model's choice; log entry 63). -/
def endpointAddr (s : State) (v e : Nat) : Nat := (s.vd v).fepbase + 32 * e
def endpointWords (s : State) (v e : Nat) : Word × Word :=
  let a := endpointAddr s v e
  if s.poisoned a || uncorrectable s (a / 64) then (0, 0) else (s.dpaWord a, s.dpaWord (a + 8))

/-- Who asks for a translation: a core, a cluster's engines, or the I/O die, which no translation cache serves (R116). -/
inductive Asker where
  | core (c : Nat) | cluster (n : Nat) | iod
  deriving DecidableEq, Repr

/-- The translation caches that serve it, nearest first: level, place and entries (R116). -/
def Asker.caches : Asker → List (Nat × Nat × Nat)
  | .core c => [(1, c, 64), (2, clusterOfCore c, 2048), (3, dieOfCluster (clusterOfCore c), 65536)]
  | .cluster n => [(2, n, 2048), (3, dieOfCluster n, 65536)]
  | .iod => []

/-- The compute die an asker reads from: the I/O die is served as CD0 is. -/
def Asker.die : Asker → Nat
  | .core c => dieOfCluster (clusterOfCore c)
  | .cluster n => dieOfCluster n
  | .iod => 0

/-- The entry of a page that one translation cache still holds. -/
def cachedAt (s : State) (v gva level place : Nat) : Option TlbEntry :=
  s.ms.tlb.find? (fun e => e.level == level && e.place == place && e.vd == v && e.gen == (s.vd v).gen && e.vpage == gva / 4096 &&
    Config.keepsTranslation s.free level place e.vpage)

/-- The cached translation of a page, from the nearest cache that still holds one (R116). -/
def cached? (s : State) (a : Asker) (v gva : Nat) : Option TlbEntry := a.caches.findSome? (fun c => cachedAt s v gva c.1 c.2.1)

/-- The translation of an access: a held cached one, else a walk (R115, R116). -/
def translate (s : State) (a : Asker) (v gva : Nat) (need : Need) : Except XErr Xlat :=
  match cached? s a v gva with
  | some e =>
    if !allows e.perm1 need then .error (.s1Perm gva)
    else if !allows e.perm2 need then .error (.s2Perm (e.gpage * 4096 + gva % 4096))
    else .ok { gpa := e.gpage * 4096 + gva % 4096, dpa := e.dpage * 4096 + gva % 4096, lcls := e.lcls, repl := e.repl,
               perm1 := e.perm1, perm2 := e.perm2, cont1 := e.cont1, cont2 := e.cont2 }
  | none => walkBoth s v gva need

/-- What an access of a guest-virtual address reads before it is made: the descriptors of its walk, and of an address in a Furrow window
the entry of its endpoint. -/
def wayReads (s : State) (a : Asker) (v gva : Nat) : List Nat :=
  let first := if (s.vd v).s1root = 0 then .ok { addr := gva % 2 ^ 48, perm := 7, lcls := 0, repl := false, cont := false }
    else walk1 s v 4 0 (s.vd v).s1root gva
  let walks := if (cached? s a v gva).isSome then []
    else (if (s.vd v).s1root = 0 then [] else reads1 s v 4 0 (s.vd v).s1root gva) ++ (match first with
      | .ok l => reads2 s 4 0 (s.vd v).s2root (l.addr % 2 ^ 48)
      | .error _ => [])
  walks ++ (match translate s a v gva .any with
    | .ok x => if furrowDpa x.dpa then [endpointAddr s v (endpointOf x.dpa).1] else []
    | .error _ => [])

/-- What those reads leave (R344 to R347). -/
def State.walked (s : State) (a : Asker) (v gva : Nat) : State :=
  if s.ms.badSymbols.isEmpty then s else readThrough s (wayReads s a v gva)

/-- Whether the entry of the endpoint an aperture address belongs to is held by its home (R351). -/
def endpointHeld (s : State) (v dpa : Nat) : Bool := furrowDpa dpa && homeHolds s (endpointAddr s v (endpointOf dpa).1)

/-- A list with one more entry: of those that share its place, at most n in all, a victim of no given order leaves where they are full. -/
def bounded {α : Type} (pick n : Nat) (mine : α → Bool) (l : List α) (x : α) : List α :=
  let here := l.filter mine
  if here.length < n then l ++ [x]
  else
    let gone := pick % here.length
    l.filter (fun y => !mine y) ++ here.eraseIdx gone ++ [x]

/-- One translation cache with the entry of a page put in place of the one it held. -/
def fillTlb (s : State) (v gva : Nat) (x : Xlat) (tlb : List TlbEntry) (c : Nat × Nat × Nat) : List TlbEntry :=
  let e : TlbEntry := { level := c.1, place := c.2.1, vd := v, gen := (s.vd v).gen, vpage := gva / 4096, gpage := x.gpa / 4096,
                        dpage := x.dpa / 4096, perm1 := x.perm1, perm2 := x.perm2, lcls := x.lcls, repl := x.repl, cont1 := x.cont1,
                        cont2 := x.cont2 }
  let same := fun (y : TlbEntry) => y.level == e.level && y.place == e.place && y.vd == v && y.vpage == e.vpage
  bounded (Config.victim s.free e.vpage) c.2.2 (fun y => y.level == e.level && y.place == e.place) (tlb.filter (fun y => !same y)) e

/-- The state with a translation held by the caches on its way (R116). -/
def State.cacheXlat (s : State) (a : Asker) (v gva : Nat) (x : Xlat) : State :=
  { s with ms := { s.ms with tlb := a.caches.foldl (fillTlb s v gva x) s.ms.tlb } }

/-! Versions and homes (R121 to R126, R133, R287). -/

/-- The offset of the replica of a replicated page (R133). -/
def replicaOffset : Nat := 0x3000000000

/-- What a home keeps of a line; a line it does not list has no lease and no store, above the slice's floor (R350). -/
def State.home (s : State) (line : Nat) : HomeLine :=
  (look line s.ms.homes).getD { lmax := (s.md (mdOfDpa (line * 256))).floor, tlast := 0, heat := 0, lastStore := 0 }

/-- An entry leaves the lease table of its home slice, whose floor takes its lease where that is live (R350). -/
def dropHome (s : State) (line : Nat) : State :=
  match look line s.ms.homes with
  | none => s
  | some h => ({ s with ms := { s.ms with homes := drop line s.ms.homes } } : State).modMd (mdOfDpa (line * 256))
      (fun m => { m with floor := if s.now < h.lmax then max m.floor h.lmax else m.floor })

/-- The entries of a full lease table that may leave it: no store of the line is pending. -/
def homeVictims (s : State) (md : Nat) : List Nat :=
  (s.ms.homes.filter (fun p => mdOfDpa (p.1 * 256) = md && p.2.tlast ≤ s.now)).map (·.1)

/-- A home slice keeps an entry for each of the 262,144 lines of its 64 MiB (R11, R24; log entry 62): a further one drives one out. -/
def State.putHome (s : State) (line : Nat) (h : HomeLine) : State :=
  let md := mdOfDpa (line * 256)
  let full := (look line s.ms.homes).isNone && decide (262144 ≤ (s.ms.homes.filter (fun p => mdOfDpa (p.1 * 256) = md)).length)
  let vs := homeVictims s md
  let s := if full && !vs.isEmpty then dropHome s (vs.getD (Config.victim s.free line % vs.length) 0) else s
  { s with ms := { s.ms with homes := put line h s.ms.homes } }

/-- The global time a memory-side die reads: in time fault it may run ahead (R351). -/
def homeTime (s : State) : Nat := s.now

/-- The write time a store reaching its home now is given (R122), and the home after it (R123: heat rises when a granted lease
is still unexpired at t + 4). -/
def assignTw (s : State) (line : Nat) : Nat × State :=
  let h := s.home line
  let t := homeTime s
  let tw := max h.lmax (max (h.tlast + 1) (t + 4))
  (tw, s.putHome line { h with tlast := tw, heat := if t + 4 < h.lmax then min 4 (h.heat + 1) else h.heat, lastStore := t })

/-- The write time at the sequencer of a replicated line (R133), and its home after it (R123). -/
def assignTwRepl (s : State) (line : Nat) : Nat × State :=
  let h := s.home line
  let t := homeTime s
  let tw := max (h.tlast + 1) (t + 1032)
  (tw, s.putHome line { h with tlast := tw, heat := if t + 4 < h.lmax then min 4 (h.heat + 1) else h.heat, lastStore := t })

/-- The dirty-bitmap bit of a written address, set by its home before the acknowledgement while DBEN is 1 (R287); the home's own
write is not recorded. -/
def State.markDirty (s : State) (v a : Nat) : State :=
  let d := s.vd v
  if d.dben then
    let b := d.dbbase + a / 2 ^ 19
    let s := decodeSector s (b / 64)
    { s with ms := { s.ms with mem := memWrite s.ms.mem b (memRead s.ms.mem b ||| BitVec.ofNat 8 (2 ^ (a / 2 ^ 16 % 8))) } }
  else s

/-- Whether a write of a device to an address must wait for a home in time fault (R351): its own, or one that would have to set the dirty
bit before the acknowledgement (R287). -/
def dirtyHeld (s : State) (v a : Nat) : Bool := (s.vd v).dben && homeHolds s ((s.vd v).dbbase + a / 2 ^ 19)
def writeHolds (s : State) (v a : Nat) (repl : Bool) : Bool :=
  homeHolds s a || dirtyHeld s v a || (repl && dirtyHeld s v (a + replicaOffset))

/-- A new version of some bytes (R121): they become the current ones when `tw` has passed. -/
def State.addVersion (s : State) (tw : Nat) (cells : List Host.Cell) (clusters : List Nat) (writer : Option ThrKey)
    (clears : List Nat) : State :=
  { s with ms := { s.ms with versions := s.ms.versions ++ [{ tw := tw, cells := cells, clusters := clusters, writer := writer,
                                                             clears := clears }] } }

/-- The cells of a write, and on a replicated page those of its replica (R133). -/
def bothCopies (repl : Bool) (cells : List Host.Cell) : List Host.Cell :=
  if repl then cells ++ cells.map (fun c => (c.1 + replicaOffset, c.2)) else cells

/-- The newest version of a byte, performed or pending: what an atomic reads (R126). -/
def newestByte (s : State) (a : Nat) : Byte :=
  let upd := fun (best : Nat × Option Byte) (v : Version) =>
    match v.cells.find? (fun c => c.1 == a) with
    | some c => if best.1 ≤ v.tw then (v.tw, some c.2) else best
    | none => best
  match (s.ms.versions.foldl upd (0, none)).2 with
  | some b => b
  | none => memRead s.ms.mem a

/-- The byte an entry of a cluster's window holds at an address; an entry of an old generation holds none (R77, R125). -/
def windowByte (s : State) (cluster a : Nat) (e : WinEntry) : Option Byte :=
  if e.cluster = cluster ∧ e.sector = a / 64 ∧ e.gen = (s.vd e.vd).gen then (e.cells.find? (fun c => c.1 == a)).map (·.2) else none

/-- A byte as a core load from a cluster sees it: the window's, else the version of R121 (R125). -/
def coreByte (s : State) (cluster a : Nat) : Byte :=
  ((s.ms.window.findSome? (windowByte s cluster a)).getD (memRead s.ms.mem a))

/-- The sectors a run of bytes covers whole (R347). -/
def wholeSectors (a len : Nat) : List Nat :=
  (List.range ((a + len) / 64 - a / 64 + 1)).filterMap (fun i =>
    let x := a / 64 + i
    if a ≤ 64 * x && 64 * x + 64 ≤ a + len then some x else none)

/-- The sectors of a write, and on a replicated page those of its replica (R133). -/
def bothSectors (repl : Bool) (l : List Nat) : List Nat := if repl then l ++ l.map (· + replicaOffset / 64) else l

/-- The home reads each sector that a write covers only in part; Pelelo receives an event for each that is poisoned (R347). -/
def partialPoison (s : State) (v : Nat) (sectors whole : List Nat) : State :=
  let part := sectors.filter (fun x => !whole.contains x)
  let s := part.foldl decodeSector s
  (part.filter s.ms.poison.contains).foldl (fun s x => s.event v 6 (64 * x) 0) s

/-- A home write by an engine, the hold-up controller or the IOD: a version at its own write time, which is answered (R122, R204). -/
def homeWrite (s : State) (v : Nat) (repl : Bool) (a : Nat) (bs : List Byte) : Nat × State :=
  let (tw, s) := if repl then assignTwRepl s (a / 256) else assignTw s (a / 256)
  let s := s.markDirty v a
  let s := if repl then s.markDirty v (a + replicaOffset) else s
  let whole := bothSectors repl (wholeSectors a bs.length)
  let s := partialPoison s v (bothSectors repl (sectorsOf a bs.length)) whole
  (tw, s.addVersion tw (bothCopies repl (cellsAt a bs)) [] none whole)

/-! The fault queue (R272, R333). -/

/-- Records the queue may hold; 0 where it has no storage. -/
def VDev.fqSize (d : VDev) : Nat := if d.fqcfg.toNat = 0 then 0 else 16 * 2 ^ bits d.fqcfg 3 0

/-- Whether an event of a source of a device may be posted now, as far as its table's home (R351) and the earlier events of its source
(R274) go. -/
def mayAnnounce (s : State) (v src j : Nat) : Bool :=
  !homeHolds s ((s.vd v).irtbase + 16 * j) && !(s.mg.signalDue.any (fun x => x.2.1 = v && x.2.2.1 = src))

/-- An event of a source of a device signals entry j once a write time has passed (R274), 0 where it announces no write. -/
def State.announce (s : State) (v src j tw : Nat) : State :=
  if tw = 0 && mayAnnounce s v src j then s.signal v j
  else { s with mg := { s.mg with signalDue := s.mg.signalDue ++ [(tw, v, src, j)] } }

/-- Where the next record of a device's fault queue is written. -/
def VDev.fqAddr (d : VDev) : Nat := bits d.fqcfg 47 12 * 4096 + 32 * (d.fqhead.toNat % d.fqSize)

/-- A record that cannot be written at its queue goes to Pelelo, with a queue-failure event (R272). -/
def fqFails (s : State) (v : Nat) (r : Rec) : State := (s.toStream v r).event v 2 (s.vd v).fqAddr 0

/-- A record waits first in line for its queue's page: its plot is to be promoted (R114, R272) or its home to serve it (R351). -/
def fqWaits (s : State) (v : Nat) (r : Rec) (held : Option Nat) : State :=
  s.modVd v (fun d => { d with fqWait := { post := r, held := held } :: d.fqWait })

/-- Writes a record at FQHEAD, to signal entry 0 once its write time has passed (R274); where the write fails the record goes to
Pelelo (R272). A page in a lost plot fails it, since no promotion can serve it (R352, R354), and so does one that maps to a system aperture,
which the rule does not list (the model's choice; log entry 85). -/
def fqWrite (s : State) (v : Nat) (r : Rec) (held : Option Nat) : State :=
  let d := s.vd v
  let s := s.walkedGpa v d.fqAddr
  match stage2 s v d.fqAddr .write with
  | .error (.tier _ h) => if plotGone s h then fqFails s v r else fqWaits s v r held
  | .error (.homeHolds _) => fqWaits s v r held
  | .error _ => fqFails s v r
  | .ok l =>
    let s := decodeSector s (l.addr / 64)
    if s.poisoned l.addr || !hbmDpa l.addr then fqFails s v r
    else if writeHolds s v l.addr l.repl then fqWaits s v r held
    else
      let bytes := leBytes 8 r.w0.toNat ++ leBytes 8 r.w1.toNat ++ leBytes 8 r.w2.toNat ++ leBytes 8 r.w3.toNat
      let (tw, s) := homeWrite s v l.repl l.addr bytes
      let s := { s with ms := { s.ms with held := s.ms.held.map (fun (h : Held) =>
        if some h.id == held then { h with index := some d.fqhead.toNat } else h) } }
      (s.modVd v (fun d => { d with fqhead := d.fqhead + 1 })).announce v 0 0 tw

/-- Posts a record to a device's fault queue: written, kept until there is room, or routed to Pelelo (R272). -/
def fqPost (s : State) (v : Nat) (r : Rec) (held : Option Nat) : State :=
  let d := s.vd v
  if d.fqSize = 0 then s.toStream v r
  else if !d.fqWait.isEmpty || (d.fqhead - d.fqtail).toNat = d.fqSize then
    s.modVd v (fun d => { d with fqWait := d.fqWait ++ [{ post := r, held := held }] })
  else fqWrite s v r held

/-! Long-latency writes in flight (R35, R161, R328). -/

/-- Registers a long-latency instruction writes for its own member: first register and count. -/
def longDest : Instr → Nat × Nat
  | .ld f => (f.d.toNat, 2 ^ (f.cnt.toNat % 4))
  | .atom f | .atomFadd f => (f.d.toNat, 1)
  | .hdist f | .hpop f | .hnear f => (f.d.toNat, 1)
  | .hnearK f | .hscan f => (f.d.toNat, f.kn.toNat + 1)
  | .adrn f => (f.a.toNat, (match f.b.toNat with
      | 9 => 32 | 3 | 4 | 10 => 16 | 5 | 6 | 11 | 12 => 8 | _ => 4))
  | _ => (0, 0)

/-- Whether register r lies in a run. -/
def inRun (r : Nat) (d : Nat × Nat) : Bool := d.1 ≤ r && r < d.1 + d.2

/-- A core access of member k that will still write register r. -/
def reqWrites (k : ThrKey) (r : Nat) (q : Req) : Bool :=
  q.thr == k && !q.failed && inRun r (longDest q.i)

/-- An engine operation that will still write register r of member k. -/
def opWrites (k : ThrKey) (r : Nat) (o : EngOp) : Bool :=
  o.team == k.team && o.lanes.contains k.tid && inRun r (longDest o.i)

/-- Whether a long-latency write of member k to register r is outstanding. -/
def State.pendingWrite (s : State) (k : ThrKey) (r : Nat) : Bool := s.ms.reqs.any (reqWrites k r) || s.ops.any (opWrites k r)

/-- Whether a long-latency operation of a member is outstanding at all (R74, R79). -/
def State.busy (s : State) (k : ThrKey) : Bool :=
  s.ms.reqs.any (fun q => q.thr == k || (q.thr.team == k.team && q.owners.contains k.tid)) ||
    s.ops.any (fun o => o.team == k.team && (o.owners.contains k.tid || o.tid == k.tid))

/-- The word a performed load or atomic will write into register r (R194, R197). -/
def loadedWord (i : Instr) (data : List Byte) (r : Nat) : Word :=
  let sext := fun (n : Nat) => BitVec.ofInt 64 (if leNat data < 2 ^ (8 * n - 1) then (leNat data : Int) else (leNat data : Int) - 2 ^ (8 * n))
  match i with
  | .ld f | .ldu f =>
    (match f.sub.toNat with
      | 1 => sext 1 | 3 => sext 2 | 5 => sext 4
      | 6 => BitVec.ofNat 64 (leNat ((data.drop (8 * (r - f.d.toNat))).take 8))
      | _ => BitVec.ofNat 64 (leNat data))
  | .atom f => if f.cnt.toNat = 1 then sext 4 else BitVec.ofNat 64 (leNat data)
  | _ => BitVec.ofNat 64 (leNat data)

/-- A vector register as an instruction reads it: the held value or, where a performed write has not returned, possibly the new
one (R35). -/
def State.readV (s : State) (k : ThrKey) (r : Nat) : Word :=
  match s.thr? k with
  | none => 0
  | some t =>
    match s.ms.reqs.find? (fun q => reqWrites k r q && q.phase != .issued && !q.poisoned) with
    | some q => if Config.earlyRead s.free r then loadedWord q.i q.data r else t.heldV r
    | none => t.heldV r

/-- A uniform register as an instruction reads it (R35). -/
def State.readS (s : State) (team : TeamKey) (r : Nat) : Word :=
  match s.team? team with
  | none => 0
  | some t =>
    let writes := fun (q : Req) => (match q.i with
      | .ldu f => q.thr.team == team && inRun r (f.d.toNat, 2 ^ (f.cnt.toNat % 4)) && q.phase != .issued && !q.failed && !q.poisoned
      | _ => false)
    match s.ms.reqs.find? writes with
    | some q => if Config.earlyRead s.free (64 + r) then loadedWord q.i q.data r else vget t.s r 0
    | none => vget t.s r 0

/-! Core requests and their kinds. -/

/-- A request in the table. -/
def State.req? (s : State) (id : Nat) : Option Req := s.ms.reqs.find? (fun q => q.id = id)
def State.modReq (s : State) (id : Nat) (f : Req → Req) : State :=
  { s with ms := { s.ms with reqs := s.ms.reqs.map (fun q => if q.id = id then f q else q) } }
def State.dropReq (s : State) (id : Nat) : State := { s with ms := { s.ms with reqs := s.ms.reqs.filter (fun q => q.id ≠ id) } }

/-- Stores, loads, reductions and atomics (R119, R194 to R199). -/
def isStoreReq (q : Req) : Bool := match q.i with
  | .st _ => true
  | _ => false
def isLoadReq (q : Req) : Bool := match q.i with
  | .ld _ | .ldu _ => true
  | _ => false
def isRedReq (q : Req) : Bool := match q.i with
  | .red _ => true
  | _ => false
def isAtomReq (q : Req) : Bool := match q.i with
  | .atom _ | .atomFadd _ => true
  | _ => false

/-! Barriers' part in an exit (R45). -/

/-- Whether a thread belongs to the arriving set of barrier b (R44). -/
def arriver (b : Nat) (t : Thread) : Bool := if b < 8 then true else if b < 12 then !t.consumer else t.consumer

/-- Whether a thread has arrived in the current phase of barrier b (R45). -/
def arrivedNow (b : Nat) (bar : Barrier) (t : Thread) : Bool := t.arrv.getLsbD b && t.aph.getLsbD b == bar.phase

/-- The non-exited, reachable threads of a team (R53: a detached one counts as exited for its former team's alignment only). -/
def State.members (s : State) (k : TeamKey) : List Thread := s.threads.filter (fun t => t.key.team == k && t.st != .exited)

/-- A barrier of a team. -/
def Barrier.zero : Barrier := { count := 0, phase := false, tag := 0 }
def Team.bar (t : Team) (b : Nat) : Barrier := vget t.bars b Barrier.zero

/-! Where contexts lie (R59 to R63), and their lines in the register cache (R71 to R73). -/

/-- x rounded up to a multiple of n. -/
def roundUp (x n : Nat) : Nat := (x + n - 1) / n * n

/-- Bytes of a launched team's block and frame (R60, R66), and of the spawned ones. -/
def blockBytes (l : Launch) : Nat := roundUp (167936 + (if l.mstr then 262144 else 0) + 64 * l.srows) 4096
def frameBytes (l : Launch) : Nat := roundUp (blockBytes l + 1024 * l.threads) 4096
def spawnedFrame : Nat := 36864

/-- A team frame's guest virtual address (R59, R62). -/
def frameAddr (l : Launch) (k : TeamKey) : Nat :=
  l.ctx + 0x7E0000 + (if k.spawned then l.grid * frameBytes l + k.num % l.frames * spawnedFrame else k.num * frameBytes l)

/-- Bytes of the block of a team (R60). -/
def blockOf (l : Launch) (k : TeamKey) : Nat := if k.spawned then 4096 else blockBytes l

/-- A thread's slot (R60). -/
def slotAddr (l : Launch) (k : ThrKey) : Nat := frameAddr l k.team + blockOf l k.team + 1024 * k.tid

/-- A thread with the eight registers of vector line n. -/
def loadLine (t : Thread) (n : Nat) (w : Nat → Word) : Thread :=
  { t with v := (List.range 8).foldl (fun v j => vset v (8 * n - 8 + j) (w j)) t.v }

/-- Eight words from a translated address. -/
def lineWords (s : State) (dpa : Nat) (j : Nat) : Word := s.dpaWord (dpa + 8 * j)

/-- The moment a register-cache line's truth is on chip. -/
def lineHeld (t : Thread) (n : Nat) : Bool :=
  match vget t.lines n .absent with
  | .clean | .dirty => true
  | _ => false

/-- A thread whose control line has changed: it is dirty where it is on chip, and else the slot is yet to follow the record. -/
def Thread.changed (t : Thread) : Thread :=
  if lineHeld t 0 then { t with lines := vset t.lines 0 .dirty } else { t with owed := true }

/-! Trap delivery. -/

/-- The vector register number of record word n: the top four of the budget (R328). -/
def recordReg (t : Thread) (n : Nat) : Nat := 8 * t.budget - 4 + n

/-- Takes a member out of its core's issue slot. -/
def State.unslot (s : State) (k : ThrKey) : State :=
  { s with cores := s.cores.map (fun p => match p.2.slot with
      | some g => if g.team == k.team && g.members.contains k.tid then
          (let ms := g.members.filter (· != k.tid)
           (p.1, { p.2 with slot := if ms.isEmpty then none else some { g with members := ms } }))
        else p
      | none => p) }

/-- The arrival count a phase needs: its non-exited arrivers (R44). -/
def arriverCount (s : State) (k : TeamKey) (b : Nat) : Nat := ((s.members k).filter (arriver b)).length

/-- Whether every arriver of barrier b has arrived, an empty arriving set never (R45, R207). -/
def phaseMet (s : State) (k : TeamKey) (b : Nat) : Bool :=
  match s.team? k with
  | some t => arriverCount s k b != 0 && (t.bar b).count == arriverCount s k b
  | none => false

/-- The test of R45, made at an arrival and at an exit: a phase that meets it is to complete. -/
def noteMet (s : State) (k : TeamKey) (b : Nat) : State :=
  if phaseMet s k b then s.modTeam k (fun t => { t with met := t.met ||| BitVec.ofNat 16 (2 ^ b) }) else s

/-- Makes a member Exited: its outstanding operations write no register of it any more (R187); its barrier arrivals are taken
out of the counts, and the phases of its arriving sets are tested (R45). -/
def exitThread (s : State) (k : ThrKey) : State :=
  match s.thr? k, s.team? k.team with
  | some t, some tm =>
    let takeOut := fun (tm : Team) (b : Nat) =>
      let bar := tm.bar b
      if arriver b t && arrivedNow b bar t then { tm with bars := vset tm.bars b { bar with count := bar.count - 1 } } else tm
    let tm := (List.range 16).foldl takeOut tm
    let s := (s.modTeam k.team (fun _ => tm)).unslot k
    let s := s.modThr k (fun t => { t with st := .exited, lines := Vector.replicate 9 .absent, pins := Vector.replicate 9 false, barrier := none,
                                           releaseAt := none, yieldUntil := none, waitUntil := none, migTo := none, owed := false })
    let s := (List.range 16).foldl (fun s b => if arriver b t then noteMet s k.team b else s) s
    match t.landing with
    | some j => s.modCluster t.clus (fun c => { c with landing := drop j c.landing })
    | none => s
  | _, _ => s

/-- The handler address of a thread's root launch; 0 means none (R328). -/
def handlerOf (s : State) (t : Thread) : Nat :=
  match s.launch? t.key.team.lid with
  | some l => l.handler
  | none => 0

/-- A thread, its record's line resident, enters the handler at h with its record in the top four registers of its budget (R328). A running
yield goes on; one whose wait has not begun, its clause not being over, is dropped (the model's choice; log entry 68). -/
def enterHandler (h : Nat) (i : TrapInfo) (r : Rec) (t : Thread) : Thread :=
  { (((t.writeV (recordReg t 0) r.w0).writeV (recordReg t 1) r.w1).writeV (recordReg t 2) r.w2).writeV (recordReg t 3) r.w3 with
    tcause := i.cause, trpc := i.rp, tcpos := i.rc, tact := true, pc := BitVec.ofNat 64 h, cpos := 0, st := .runnable,
    yieldUntil := if t.yieldHint then t.yieldUntil else none, barrier := none, waitUntil := none, ereted := false,
    lines := vset (vset t.lines t.budget .dirty) 0 .dirty }

/-- Whether a trap now ends a member: it has exited, has no handler, or stands in it (R328). -/
def trapEnds (s : State) (k : ThrKey) : Bool :=
  match s.thr? k with
  | some t => t.st == .exited || handlerOf s t = 0 || t.tact
  | none => true

/-- Delivers a trap to a member (R328), whose record registers have no outstanding write: to its handler with the record in the
top four registers of its budget, or, with no handler or inside one, its record to the fault queue and the member Exited. -/
def deliver (s : State) (k : ThrKey) (i : TrapInfo) : State :=
  match s.thr? k with
  | none => s
  | some t =>
    let h := handlerOf s t
    let r := mkRec i false k.tid k.team.num
    let s := s.unslot k
    if h = 0 || t.tact then exitThread (fqPost s t.vd r none) k
    else s.modThr k (fun t => enterHandler h i r t)

/-- Whether a member's lines or registers do not yet let a trap be delivered: a long-latency write to its record registers is
outstanding (R328), or its control line, or for an entry into its handler the line of those registers, is not resident (R73). -/
def recordWaits (s : State) (t : Thread) : Bool :=
  (List.range 4).any (fun n => s.pendingWrite t.key (recordReg t n)) || !lineHeld t 0 ||
    (handlerOf s t != 0 && !t.tact && !lineHeld t t.budget)

/-- Whether a trap of a member may not be delivered yet: so, or an earlier trap of the member has not been (R330). -/
def deliveryWaits (s : State) (t : Thread) : Bool := !t.undelivered.isEmpty || recordWaits s t

/-- Raises a trap, which waits where it may not be delivered yet. -/
def raise (s : State) (k : ThrKey) (i : TrapInfo) : State :=
  match s.thr? k with
  | none => s
  | some t =>
    if t.st == .exited then fqPost s t.vd (mkRec i false k.tid k.team.num) none
    else if deliveryWaits s t then
      (s.unslot k).modThr k (fun t => { t with undelivered := t.undelivered ++ [i], st := if t.st == .unstarted then .runnable else t.st })
    else deliver s k i

/-- Delivers the oldest trap of a member that has waited, once it may (R328): a member that has exited only has its record posted. -/
def deliverOldest (s : State) (k : ThrKey) : State :=
  match s.thr? k with
  | some t =>
    (match t.undelivered with
      | i :: rest =>
        if t.st == .exited then
          fqPost (s.modThr k (fun t => { t with undelivered := rest })) t.vd (mkRec i false k.tid k.team.num) none
        else if recordWaits s t then s
        else deliver (s.modThr k (fun t => { t with undelivered := rest })) k i
      | [] => s)
  | none => s

/-- Delivers the traps of a member that have waited, one after another (R330). -/
def retryDelivery (s : State) (k : ThrKey) : State :=
  match s.thr? k with
  | some t => t.undelivered.foldl (fun s _ => deliverOldest s k) s
  | none => s

/-- Return from a trap (R218): PC := TRPC, CPOS := TCPOS, TACT := 0. -/
def returnFromTrap (t : Thread) : Thread :=
  { t with pc := t.trpc, cpos := t.tcpos, tact := false, ereted := true, lines := vset t.lines 0 .dirty }

end Sys2Proof.Machine
end

