-- ==== Sys2Proof/Machine/Codec.lean ====
section
/-!
DEFINITION. Checksums and digests (CRC-32C as standardised for iSCSI, SHA-256) and the container of a plot (R284).
-/

namespace Sys2Proof.Machine

/-! CRC-32C: reflected polynomial 0x82F63B78, initial value and final xor all ones (the iSCSI standard; log entry 33). -/

/-- Eight shifts of the register. -/
def crcShift : Nat → Nat → Nat
  | 0, c => c
  | n + 1, c => crcShift n (if c % 2 = 1 then Nat.xor (c / 2) 0x82F63B78 else c / 2)

/-- The CRC-32C of some bytes. -/
def crc32c (bs : List Byte) : Nat :=
  Nat.xor (bs.foldl (fun c b => crcShift 8 (Nat.xor c b.toNat)) 0xFFFFFFFF) 0xFFFFFFFF

/-! SHA-256 (FIPS 180-4; log entry 33). -/

/-- Primes below a bound. -/
def primesTo (n : Nat) : List Nat := (List.range n).filter (fun p => 2 ≤ p && (List.range p).all (fun d => d < 2 || p % d ≠ 0))

/-- Floor of the k-th root of n, by a bitwise search from 2^bits. -/
def rootLoop (k n : Nat) : Nat → Nat → Nat
  | 0, r => r
  | b + 1, r => if (r + 2 ^ b) ^ k ≤ n then rootLoop k n b (r + 2 ^ b) else rootLoop k n b r

/-- The first 32 fraction bits of the k-th root of a prime. -/
def rootBits (k p : Nat) : BitVec 32 := BitVec.ofNat 32 (rootLoop k (p * 2 ^ (32 * k)) 40 0)

/-- The round constants and the initial hash. -/
def shaK : List (BitVec 32) := ((primesTo 312).take 64).map (rootBits 3)
def shaH : List (BitVec 32) := ((primesTo 20).take 8).map (rootBits 2)

/-- The message schedule, most recent word first. -/
def shaSchedule : Nat → List (BitVec 32) → List (BitVec 32)
  | 0, w => w
  | n + 1, w =>
    let g := fun i => w.getD i 0
    let s0 := (g 14).rotateRight 7 ^^^ (g 14).rotateRight 18 ^^^ (g 14) >>> 3
    let s1 := (g 1).rotateRight 17 ^^^ (g 1).rotateRight 19 ^^^ (g 1) >>> 10
    shaSchedule n ((g 15 + s0 + g 6 + s1) :: w)

/-- One round on the eight working variables. -/
def shaRound (v : List (BitVec 32)) (kw : BitVec 32) : List (BitVec 32) :=
  match v with
  | [a, b, c, d, e, f, g, h] =>
    let t1 := h + (e.rotateRight 6 ^^^ e.rotateRight 11 ^^^ e.rotateRight 25) + ((e &&& f) ^^^ (~~~e &&& g)) + kw
    let t2 := (a.rotateRight 2 ^^^ a.rotateRight 13 ^^^ a.rotateRight 22) + ((a &&& b) ^^^ (a &&& c) ^^^ (b &&& c))
    [t1 + t2, a, b, c, d + t1, e, f, g]
  | v => v

/-- Sixteen big-endian words of a 64-byte block. -/
def shaWords (bs : List Byte) : List (BitVec 32) :=
  (List.range 16).map (fun i => ((bs.drop (4 * i)).take 4).foldl (fun w b => w <<< 8 ||| b.setWidth 32) 0)

/-- One block. -/
def shaBlock (h : List (BitVec 32)) (bs : List Byte) : List (BitVec 32) :=
  let w := (shaSchedule 48 (shaWords bs).reverse).reverse
  List.zipWith (· + ·) h ((List.zipWith (· + ·) shaK w).foldl shaRound h)

/-- n blocks. -/
def shaBlocks : Nat → List (BitVec 32) → List Byte → List (BitVec 32)
  | 0, h, _ => h
  | n + 1, h, bs => shaBlocks n (shaBlock h (bs.take 64)) (bs.drop 64)

/-- The SHA-256 digest of some bytes. -/
def sha256 (bs : List Byte) : List Byte :=
  let zeros := (119 - bs.length % 64) % 64
  let padded := bs ++ [0x80] ++ List.replicate zeros 0 ++ (leBytes 8 (8 * bs.length)).reverse
  (shaBlocks (padded.length / 64) shaH padded).flatMap (fun w => (leBytes 4 w.toNat).reverse)

/-! Containers (R284). -/

/-- Plane j of a sector. -/
def planeOf (sector : List Byte) (j : Nat) : List Byte := (List.range 64).map (fun i => sector.getD (4 * i + j) 0)

/-- A plane's mode and its bytes. -/
def encodePlane (p : List Byte) : Nat × List Byte :=
  if p.all (· == 0) then (0, [])
  else if p.all (· == p.headD 0) then (3, [p.headD 0])
  else if (p.filter (· != 0)).length < 56 then
    (2, leBytes 8 ((List.range 64).foldl (fun m i => if p.getD i 0 != 0 then m + 2 ^ i else m) 0) ++ p.filter (· != 0))
  else (1, p)

/-- A sector's directory entry and payload. -/
def encodeSector (sector : List Byte) : Nat × List Byte :=
  if sector.all (· == 0) then (0, [])
  else
    let planes := (List.range 4).map (fun j => encodePlane (planeOf sector j))
    let mode := (List.range 4).foldl (fun m j => m + ((planes.getD j (0, [])).1) * 4 ^ j) 0
    let body := BitVec.ofNat 8 mode :: planes.flatMap (·.2)
    if body.length < 256 then (0x8000 + body.length, body) else (0x4000 + 256, sector)

/-- The container of a plot of 64 KiB, before padding: its bytes number CLEN. -/
def encodeContainer (handle : Nat) (plot : List Byte) : List Byte :=
  let secs := (List.range 256).map (fun i => encodeSector ((plot.drop (256 * i)).take 256))
  let rest := secs.flatMap (fun s => leBytes 2 s.1) ++ secs.flatMap (·.2)
  let clen := 64 + rest.length
  leBytes 8 1 ++ leBytes 8 clen ++ leBytes 8 (crc32c rest) ++ leBytes 8 (handle % 2 ^ 32) ++ List.replicate 32 0 ++ rest

/-- One plane read back: its 64 bytes and what follows it; none where the bytes run out. -/
def decodePlane (mode : Nat) (bs : List Byte) : Option (List Byte × List Byte) :=
  match mode with
  | 0 => some (List.replicate 64 0, bs)
  | 1 => if bs.length < 64 then none else some (bs.take 64, bs.drop 64)
  | 2 =>
    if bs.length < 8 then none
    else
      let m := leNat (bs.take 8)
      let put := fun (acc : List Byte × List Byte) (i : Nat) =>
        if m / 2 ^ i % 2 = 1 then (acc.1 ++ [acc.2.headD 0], acc.2.drop 1) else (acc.1 ++ [0], acc.2)
      let n := (List.range 64).foldl (fun n i => n + m / 2 ^ i % 2) 0
      if bs.length < 8 + n then none else some ((List.range 64).foldl put ([], bs.drop 8))
  | _ => if bs.isEmpty then none else some (List.replicate 64 (bs.headD 0), bs.drop 1)

/-- The four planes of a coded sector. -/
def decodePlanes : Nat → Nat → List Byte → Option (List (List Byte) × List Byte)
  | 0, _, bs => some ([], bs)
  | n + 1, mode, bs => match decodePlane (mode % 4) bs with
    | none => none
    | some (p, bs) => (decodePlanes n (mode / 4) bs).map (fun r => (p :: r.1, r.2))

/-- A sector from its kind and its payload; none where LEN disagrees with the payload or the kind is reserved. -/
def decodeSectorBytes (kind : Nat) (body : List Byte) : Option (List Byte) :=
  match kind with
  | 0 => if body.isEmpty then some (List.replicate 256 0) else none
  | 1 => if body.length = 256 then some body else none
  | 2 => match body with
    | [] => none
    | m :: rest => match decodePlanes 4 m.toNat rest with
      | some (ps, []) => some ((List.range 64).flatMap (fun i => ps.map (fun p => p.getD i 0)))
      | _ => none
  | _ => none

/-- The sectors of a container by its directory entries. -/
def decodeSectors : List Nat → List Byte → Option (List Byte)
  | [], _ => some []
  | e :: rest, bs =>
    let len := e % 512
    if e / 512 % 32 ≠ 0 || bs.length < len then none
    else match decodeSectorBytes (e / 16384) (bs.take len), decodeSectors rest (bs.drop len) with
      | some s, some t => some (s ++ t)
      | _, _ => none

/-- A plot from its container; none is an uncorrectable tier error (R284, R352). -/
def decodeContainer (c : List Byte) : Option (List Byte) :=
  let clen := leNat ((c.drop 8).take 8) % 2 ^ 17
  let body := (c.take clen).drop 64
  if leNat (c.take 8) % 256 ≠ 1 || c.length < clen || clen < 576 || crc32c body ≠ leNat ((c.drop 16).take 4) then none
  else decodeSectors ((List.range 256).map (fun i => leNat ((body.drop (2 * i)).take 2))) (body.drop 512)

/-- A container padded with zero to a multiple of 64 B. -/
def padded64 (c : List Byte) : List Byte := c ++ List.replicate ((64 - c.length % 64) % 64) 0

end Sys2Proof.Machine
end

