-- ==== Sys2Proof/Machine/Legal.lean ====
section
/-!
DEFINITION. Which instruction terms are legal encodings: the type sets, the used fields and their limits, row by row of
R152, R162 and R337. A field of a format structure that an instruction does not use is zero.
-/

namespace Sys2Proof.Machine

/-- Element width in bits of a type (R8, R143). -/
def tyW : Ty → Nat
  | .b64 | .s64 | .n64 | .f64 => 64
  | .s32 | .n32 | .f32 => 32
  | .s16 | .n16 | .f16 | .bf16 => 16
  | .s8 | .n8 | .f8e4 | .f8e5 => 8

/-- Sub-elements per 64-bit register (R8). -/
def tyK (t : Ty) : Nat := 64 / tyW t

/-- The signed integer types: the set SINT. -/
def isSint : Ty → Bool
  | .s64 | .s32 | .s16 | .s8 => true
  | _ => false

/-- The unsigned integer types: the set NINT. -/
def isNint : Ty → Bool
  | .n64 | .n32 | .n16 | .n8 => true
  | _ => false

/-- The set INT: SINT, NINT and .b64. -/
def isInt (t : Ty) : Bool := isSint t || isNint t || t == .b64

/-- The set WIDE of the bit-field instructions. -/
def isWide (t : Ty) : Bool := isInt t && tyW t != 8

/-- The set FL. -/
def isFl : Ty → Bool
  | .f64 | .f32 | .f16 | .bf16 => true
  | _ => false

/-- The set F8. -/
def isF8 : Ty → Bool
  | .f8e4 | .f8e5 => true
  | _ => false

/-- Any floating-point type. -/
def isFloat (t : Ty) : Bool := isFl t || isF8 t

/-- Type codes of R143. -/
def tyCode : Ty → Nat
  | .b64 => 0 | .s64 => 1 | .n64 => 2 | .s32 => 3 | .n32 => 4 | .s16 => 5 | .n16 => 6 | .s8 => 7
  | .n8 => 8 | .f64 => 9 | .f32 => 10 | .f16 => 11 | .bf16 => 12 | .f8e4 => 13 | .f8e5 => 14

/-- The type of a code; 15 is reserved (R143). -/
def tyOfCode : Nat → Option Ty
  | 0 => some .b64 | 1 => some .s64 | 2 => some .n64 | 3 => some .s32 | 4 => some .n32 | 5 => some .s16
  | 6 => some .n16 | 7 => some .s8 | 8 => some .n8 | 9 => some .f64 | 10 => some .f32 | 11 => some .f16
  | 12 => some .bf16 | 13 => some .f8e4 | 14 => some .f8e5 | _ => none

/-- Rounding mode codes of R92. -/
def rndCode : Rnd → Nat
  | .rne => 0 | .rz => 1 | .ru => 2 | .rd => 3 | .rs => 4

/-- The rounding mode of a code; 5 to 7 are reserved (R142). -/
def rndOfCode : Nat → Option Rnd
  | 0 => some .rne | 1 => some .rz | 2 => some .ru | 3 => some .rd | 4 => some .rs | _ => none

/-- The special-register numbers R148 lists. -/
def sregListed (c : Nat) : Bool := [1, 2, 3, 4, 5, 6, 7, 0x10, 0x11, 0x12, 0x20].contains c

/-- Types a drain may write (R235), as the type code of the b field. -/
def drainTy (code : Nat) : Bool := [3, 4, 5, 6, 7, 8, 9, 10, 11, 12, 13, 14].contains code

/-- Types abyp may write (R236). -/
def bypassTy (code : Nat) : Bool := [7, 11, 12, 13, 14].contains code

/-- Whether SUB [50], IMM, is set (R142). -/
def isImm (f : FR) : Bool := f.sub.getLsbD 2

/-- SUB [49:48], the variant. -/
def variant (f : FR) : Nat := f.sub.toNat % 4

/-- A legal swizzle code (R144): 0x08 to 0x1F are reserved. -/
def swzOk (f : FR) : Bool := f.swz.toNat < 8 || 0x20 ≤ f.swz.toNat

/-- No use of RND (R162). -/
def noRnd (f : FR) : Bool := f.rnd == .rne

/-- No use of RND and SAT (R162). -/
def noRndSat (f : FR) : Bool := noRnd f && !f.sat

/-- Operand b in a register, possibly swizzled, or an immediate where `allowed` (R142). -/
def bOrImm (f : FR) (allowed : Bool) : Bool :=
  if isImm f then allowed && isInt f.ty && f.b == 0 && f.swz == 0 else swzOk f && f.ext == 0

/-- Operand b absent: its field and SWZ are zero. -/
def noB (f : FR) : Bool := f.b == 0 && f.swz == 0

/-- A predicate register number. -/
def isP (r : Reg) : Bool := r.toNat ≤ 7

/-- The two-operand and three-operand integer rows of R163: `c` used, SAT used, types by `tys`. -/
def legalInt (f : FR) (imm c sat : Bool) (tys : Ty → Bool) : Bool :=
  tys f.ty && variant f == 0 && bOrImm f imm && (c || f.c == 0) && noRnd f &&
    (if f.sat then sat && f.ty != .b64 else true)

/-- The one-operand integer and logic rows: a and d alone. -/
def legalUnary (f : FR) (sat : Bool) (tys : Ty → Bool) : Bool :=
  tys f.ty && f.sub == 0 && noB f && f.c == 0 && f.ext == 0 && noRnd f && (sat || !f.sat)

/-- The predicate rows of R171 and the votes of R185: TYPE 0, no swizzle, RND and SAT zero. -/
def legalPred (f : FR) : Bool := f.ty == .b64 && f.swz == 0 && noRndSat f && f.c == 0

/-- The floating-point rows of R172. -/
def legalFp (f : FR) (b c rnd sat : Bool) : Bool :=
  isFl f.ty && f.sub == 0 && f.ext == 0 && (if b then swzOk f else noB f) && (c || f.c == 0) &&
    (rnd || noRnd f) && (sat || !f.sat)

/-- cvt (R176): EXT [3:0] holds the source type, EXT [6:4] the part. -/
def legalCvt (f : FR) : Bool :=
  f.sub == 0 && noB f && f.c == 0 && f.ty != .b64 && f.ext.toNat < 128 &&
    match tyOfCode (f.ext.toNat % 16) with
    | none => false
    | some st =>
      st != .b64 &&
        decide (f.ext.toNat / 16 < max (tyK f.ty) (tyK st) / min (tyK f.ty) (tyK st)) &&
        (if isFloat st && !isFloat f.ty then !f.sat else true) &&
        (if isFloat st || isFloat f.ty then true else noRnd f)

/-- qnt and dqnt (R177): what depends on the word alone. -/
def legalQnt (f : FR) (c : Bool) : Bool :=
  (f.ty == .f32 || f.ty == .f16 || f.ty == .bf16) && f.sub == 0 && noRndSat f && noB f && f.ext.toNat < 8 &&
    (c || f.c == 0)

/-- pack and unpack (R181): the run may not pass v63. -/
def legalPack (f : FR) (first : Reg) : Bool :=
  f.ty == .b64 && f.sub == 0 && noRndSat f && noB f && f.c == 0 && f.ext.toNat < 2 &&
    first.toNat + (if f.ext == 0 then 1 else 3) ≤ 63

/-- bar.red and bar.scan (R206, R208). -/
def legalPayload (f : FR) : Bool :=
  f.sub == 0 && noB f && !f.reuse && f.c.toNat ≤ 7 &&
    match f.ext.toNat with
    | 0 => isInt f.ty && noRnd f && !(f.sat && f.ty == .b64)
    | 1 | 2 => (isSint f.ty || isNint f.ty) && noRndSat f
    | 3 | 4 | 5 => isInt f.ty && noRndSat f
    | 6 => isFl f.ty && !f.sat && f.rnd != .rs
    | 7 | 8 => isFl f.ty && noRndSat f
    | _ => false

/-- bar.arr and bar.wait use c alone (R206). -/
def legalBarrier (f : FR) : Bool :=
  f.sub == 0 && f.d == 0 && f.a == 0 && noB f && f.c.toNat ≤ 15 && f.ty == .b64 && noRndSat f && !f.reuse && f.ext == 0

/-- Format I with d and a as told (R145). -/
def legalI (f : FI) (d : Bool) : Bool := f.sub == 0 && f.a == 0 && (d || f.d == 0)

/-- Format M addressing (R190): a uniform base is s0 to s31, and LH is 0 for scratchpad. -/
def legalAddr (f : FM) : Bool := (!f.ub || f.a.toNat ≤ 31) && f.lh != 3 && (!f.sp || f.lh == 0)

/-- ld, st and ldu: CNT only with .b64 (R194 to R196). -/
def legalCnt (f : FM) : Bool := f.cnt.toNat < 4 && (f.cnt == 0 || f.sub == 6)

/-- Registers of a run of ld, st or ldu (R146). -/
def cntRegs (f : FM) : Nat := 2 ^ (f.cnt.toNat % 4)

/-- An atomic's ATY for its operation: integers 0 to 3, .fadd 4 and 5 (R197, R198). -/
def legalAty (f : FM) (fadd : Bool) : Bool := if fadd then f.cnt == 4 || f.cnt == 5 else f.cnt.toNat ≤ 3

/-- Matrix fields that only mma uses (R227). -/
def noMma (f : FX) : Bool := !f.byp && !f.reuse

/-- No masks (R147). -/
def noMask (f : FX) : Bool := f.msel == 0 && !f.men

/-- Masks used: MSEL is zero when MEN is 0 (R147). -/
def maskOk (f : FX) : Bool := f.men || f.msel == 0

/-- Registers of the A run of an mma: two rows of eight, or of four for FP64 (R225). -/
def aRun (f : FX) : Nat := if f.sub == 7 then 8 else 16

/-- Format H fields of a hypervector instruction: which of MC, TB, SP, KN and ROT it uses (R239). -/
def hFields (f : FH) (mc tb sp kn rot : Bool) : Bool :=
  (mc || f.mc == 0) && (tb || f.tb == 0) && (sp || !f.sp) && (kn || f.kn == 0) && (rot || f.rot == 0)

/-- A hypervector number. -/
def isH (r : Reg) : Bool := r.toNat ≤ 7

/-- Format S with d and a as told (R147). -/
def legalS (f : FS) (d a : Bool) : Bool := (d || f.d == 0) && (a || f.a == 0)

/-- Whether the SUB value of a term's word is one that R151 or its entry defines (R138, R152): IMM where the entry lists an immediate
form, a variant where it names one. `sub` is the word's own SUB, which format S has no field for. -/
def subOk (sub : Nat) : Instr → Bool
  | .add _ | .sub _ | .mul _ | .mad _ | .mulhi _ | .min_ _ | .max_ _ | .mov _ | .and_ _ | .or_ _ | .xor_ _ | .andn _ | .shl _ | .shr _
  | .sar _ | .rot _ | .cmp _ => sub % 4 == 0
  | .dot4 _ | .movi _ | .moviHi _ | .hnear _ | .hnearK _ => sub ≤ 1
  | .lea _ | .voteAny _ | .voteAll _ | .voteBallot _ => sub ≤ 2
  | .ld _ | .ldu _ | .red _ => sub ≤ 6
  | .st _ => sub % 2 == 0
  | .cpy _ => sub ≤ 3
  | .atom _ | .mma _ => true
  | _ => sub == 0

/-- Whether a term is a legal instruction (R152, R162, R337). The events of the table carry arguments within the ranges of
their numbers: devices 0 to 511, queues 0 to 63, clusters 0 to 383, cores 0 to 1,535, dies and partitions. -/
def legal : Instr → Bool
  | .add f | .sub f | .mul f => legalInt f true false true isInt
  | .mad f => legalInt f true true true isInt
  | .mulhi f | .min_ f | .max_ f => legalInt f true false false (fun t => isSint t || isNint t)
  | .dot4 f => (f.ty == .s32 || f.ty == .n32) && !isImm f && variant f ≤ 1 && (variant f == 0 || f.ty == .s32) &&
      swzOk f && f.ext == 0 && noRnd f
  | .sad f => legalInt f false true true (fun t => isSint t || isNint t)
  | .abs_ f | .neg f => legalUnary f true isSint
  | .lea f => f.ty == .b64 && !isImm f && variant f ≤ 2 && swzOk f && f.c == 0 && noRndSat f && f.ext.toNat < 8
  | .sel f => !isImm f && variant f == 0 && swzOk f && isP f.c && noRndSat f && f.ext == 0
  | .mov f => f.a == 0 && legalInt f true false false (fun _ => true)
  | .movi f => f.sub == 0 && f.a == 0
  | .moviHi f => f.sub == 1 && f.a == 0 && f.imm.toNat < 2 ^ 32
  | .and_ f | .or_ f | .xor_ f | .andn f | .shl f | .shr f | .sar f | .rot f => legalInt f true false false isInt
  | .not_ f | .clz f | .popc f | .bitrev f => legalUnary f false isInt
  | .bfe f => legalInt f false false false isWide
  | .bfi f => legalInt f false true false isWide
  | .cmp f => isP f.d && isInt f.ty && variant f == 0 && bOrImm f true && noRndSat f &&
      (if f.ty == .b64 then f.c.toNat ≤ 1 else f.c.toNat ≤ 5)
  | .fcmp f => isP f.d && isFloat f.ty && f.sub == 0 && swzOk f && noRndSat f && f.ext == 0 && f.c.toNat ≤ 8
  | .fclass f => isP f.d && isFloat f.ty && f.sub == 0 && noB f && f.c == 0 && noRndSat f
  | .pand f | .por f | .pxor f => legalPred f && f.sub == 0 && isP f.d && isP f.a && isP f.b && f.ext == 0
  | .pnot f => legalPred f && f.sub == 0 && isP f.d && isP f.a && f.b == 0 && f.ext == 0
  | .pmovFromVector f => legalPred f && f.sub == 0 && isP f.d && f.b == 0 && f.ext == 0
  | .pmovToVector f => legalPred f && f.sub == 0 && isP f.a && f.b == 0 && f.ext == 1
  | .voteAny f => legalPred f && f.sub == 0 && isP f.d && isP f.a && f.b == 0 && f.ext == 0
  | .voteAll f => legalPred f && f.sub == 1 && isP f.d && isP f.a && f.b == 0 && f.ext == 0
  | .voteBallot f => legalPred f && f.sub == 2 && isP f.a && f.b == 0 && f.ext.toNat < 8
  | .shfl f | .bperm f => f.sub == 0 && swzOk f && f.c == 0 && noRndSat f && f.ext == 0
  | .fadd f | .fsub f | .fmul f => legalFp f true false true true
  | .fma f => legalFp f true true true true
  | .fmin f | .fmax f => legalFp f true false false false
  | .fabs f | .fneg f => legalFp f false false false false
  | .frnd f => legalFp f false false true false
  | .frcp f | .frsq f | .fsqrt f | .fexp2 f | .flog2 f | .fsin f | .fcos f | .ftanh f => legalFp f false false true true
  | .cvt f => legalCvt f
  | .qnt f => legalQnt f true
  | .dqnt f => legalQnt f false
  | .pack f => legalPack f f.a
  | .unpack f => legalPack f f.d
  | .bra f => legalI f false
  | .call f => legalI f true
  | .brx f => f.sub == 0 && f.d == 0 && f.c == 0 && f.ty == .b64 && swzOk f && noRndSat f && !f.reuse && f.ext == 0
  | .ret f => f.sub == 0 && f.d == 0 && noB f && f.c == 0 && f.ty == .b64 && noRndSat f && !f.reuse && f.ext == 0
  | .exit f | .eret f => legalS f false false && f.code == 0
  | .yield f | .trap f | .brk f => legalS f false false
  | .rep f => legalI f false && !f.g.neg && f.g.p == 7 && f.imm.toNat < 2 ^ 14
  | .waitt f => legalS f false true && f.code == 0
  | .movs f => legalS f true false && sregListed f.code.toNat
  | .movt f => legalS f false true && (f.code == 0x11 || f.code == 0x12)
  | .ld f => f.sub.toNat ≤ 6 && f.b == 0 && f.scope == 0 && legalAddr f && legalCnt f && f.d.toNat + cntRegs f ≤ 64
  | .st f => f.sub.toNat % 2 == 0 && f.d == 0 && f.scope == 0 && legalAddr f && legalCnt f && f.b.toNat + cntRegs f ≤ 64
  | .ldu f => f.sub.toNat ≤ 6 && f.b == 0 && f.scope == 0 && legalAddr f && legalCnt f && f.ub &&
      f.d.toNat + cntRegs f ≤ 32
  | .atom f => f.scope == 0 && f.lh == 0 && legalAddr f && legalAty f false && (f.sub != 7 || f.b.toNat ≤ 62)
  | .atomFadd f => f.sub == 0 && f.scope == 0 && f.lh == 0 && legalAddr f && legalAty f true
  | .red f => f.sub.toNat ≤ 6 && f.d == 0 && f.scope == 0 && f.lh == 0 && legalAddr f && legalAty f (f.sub == 6)
  | .fence f => !f.f && f.sub == 0 && f.d == 0 && f.a == 0 && f.b == 0 && f.scope.toNat ≤ 4 && f.lh == 0 && !f.ub && !f.sp &&
      f.cnt == 0 && f.off == 0
  | .fenceX f => !f.f && f.sub == 0 && f.d == 0 && f.a == 0 && f.b == 0 && f.scope.toNat ≤ 4 && f.lh == 0 && !f.ub && !f.sp &&
      f.cnt == 0 && f.off.toNat < 256 && f.off.toNat % 16 != 0 && f.off.toNat / 16 != 0
  | .pref f => !f.f && f.sub == 0 && f.d == 0 && f.b == 0 && f.scope == 0 && !f.sp && f.cnt == 0 && legalAddr f
  | .cpy f => f.sub.toNat ≤ 3 && f.scope == 0 && f.lh == 0 && !f.ub && f.cnt.toNat % 4 == 0 && f.off == 0 &&
      (f.sub == 0 || f.b.toNat ≤ 62)
  | .barArr f | .barWait f => legalBarrier f
  | .barRed f | .barScan f => legalPayload f
  | .spawn f => f.sub == 0 && f.d == 0 && f.c == 0 && f.b.toNat ≤ 60 && f.swz == 0 && f.ty == .b64 && noRndSat f && !f.reuse &&
      f.ext == 0
  | .migr f => !f.f && f.sub == 0 && f.d == 0 && f.b == 0 && f.scope == 0 && f.lh == 0 && !f.sp && f.cnt == 0 && legalAddr f
  | .musts f => !f.f && f.sub == 0 && f.b == 0 && f.scope == 0 && f.lh == 0 && !f.sp && f.cnt == 0 && legalAddr f
  | .tld f | .tst f => f.sub == 0 && f.d == 0 && f.b.toNat ≤ 31 && f.sla == 0 && noMask f && noMma f
  | .acl f => f.sub == 0 && f.d.toNat ≤ 15 && f.a == 0 && f.b == 0 && f.c == 0 && f.slb == 0 && noMask f && noMma f && !f.sp
  | .mma f => f.d.toNat ≤ 15 && f.b.toNat ≤ 31 && maskOk f && !f.sp &&
      (if f.byp then f.a == 0 && f.c.toNat ≤ 28 else f.a.toNat + aRun f ≤ 64 && (f.sub != 1 || f.c.toNat ≤ 60))
  | .adrn f => f.sub == 0 && f.d.toNat ≤ 15 && drainTy f.b.toNat && f.c == 0 && noMask f && noMma f && !f.sp &&
      (match tyOfCode f.b.toNat with
        | some t => decide (f.a.toNat + tyW t / 2 ≤ 64)
        | none => false)
  | .abyp f => f.sub == 0 && f.d.toNat ≤ 15 && f.a.toNat ≤ 28 && bypassTy f.b.toNat && noMask f && noMma f && !f.sp &&
      (match tyOfCode f.b.toNat with
        | some t => decide (f.c.toNat < 512 / tyW t / 16)
        | none => false)
  | .ast f => f.sub == 0 && f.d.toNat ≤ 15 && drainTy f.b.toNat && maskOk f && noMma f
  | .hld f => f.sub == 0 && isH f.d && f.b == 0 && f.c == 0 && hFields f false false true false false
  | .hst f => f.sub == 0 && f.d == 0 && isH f.b && f.c == 0 && hFields f false false true false false
  | .hclr f => f.sub == 0 && f.d.toNat ≤ 11 && f.a == 0 && f.b == 0 && f.c == 0 && hFields f false false false false false
  | .hbind f => f.sub == 0 && isH f.d && isH f.a && isH f.b && f.c == 0 && hFields f false false false false false
  | .hperm f => f.sub == 0 && isH f.d && isH f.a && f.b == 0 && f.c == 0 && hFields f false false false false true
  | .hbun f => f.sub == 0 && f.d == 0 && isH f.a && f.b == 0 && f.c == 0 && hFields f true false false false false
  | .hmaj f => f.sub == 0 && isH f.d && f.a == 0 && f.b == 0 && f.c == 0 && hFields f true true false false false
  | .hdist f => f.sub == 0 && isH f.a && isH f.b && f.c == 0 && hFields f false false false false false
  | .hpop f => f.sub == 0 && isH f.a && f.b == 0 && f.c == 0 && hFields f false false false false false
  | .hams f => f.sub == 0 && f.d == 0 && isH f.a && f.c == 0 && hFields f false false false false false
  | .hnear f => f.sub == 0 && isH f.a && f.c == 0 && hFields f false false false false false
  | .hnearK f => f.sub == 1 && isH f.a && f.c == 0 && hFields f false false false true false && f.d.toNat + f.kn.toNat ≤ 63
  | .hscan f => f.sub == 0 && isH f.b && hFields f false false true true false && f.kn.toNat ≤ 3 && f.d.toNat + f.kn.toNat ≤ 63
  | .deferredTrap k | .threadAged k | .barrierRelease k | .yieldExpire k | .waittDeadline k | .fenceComplete k
  | .threadHaltEntry k => k.tid < 1024
  | .bucketSelection c | .groupSuspend c | .threadActivation c => c < 1536
  | .contextLineFetchComplete k l => k.tid < 1024 && l < 9
  | .windowRetire c _ | .seedBinTimer c _ | .spawnedTeamRelease c _ | .engineChunk c _ | .matrixArbitration c
  | .preemptionComplete c _ => c < 384
  | .tinv v _ | .tinvComplete v | .fqtail v _ | .cntvalRead v | .tierreqEvict v _ | .tierreqPromote v _ | .teamPlacement v
  | .create v _ | .start v | .suspend v | .resume v | .migout v _ | .migstop v | .migdone v _ | .migabort v | .migin v _ _
  | .kill v | .destroy v | .setf v _ _ | .s2inv v _ _ | .dbswap v | .attest v _ | .drainComplete v | .drainTimeout v
  | .migrationRecord v _ | .pullTimeout ⟨v, _⟩ | .furrowReservationRenew v _ _ | .debugHaltTeam v _ | .debugHaltLaunch v
  | .debugResumeTeam v _ | .debugResumeLaunch v | .mgmtUndefinedOpc _ v => v < 512
  | .hostBar2Write v _ _ _ | .hostBar2Read v _ _ => v < 512
  | .kick v j _ | .kickRecordRead v j | .launchStart v j => v < 512 && j < 64
  | .dependenceReport v j p => v < 512 && j < 64 && p < 4
  | .landingSlotGrant d | .limiterWindow d | .dsctlWrite d _ | .fstepWrite d _ | .dvfsSwitch d | .thermalTrip d
  | .powerMeasure d _ | .sramEccError d _ _ => d < 2
  | .partitionResetRequest k _ | .partitionReset k | .selfTestComplete k _ => k < 8
  | .timeFaultTimeout m => m < 8
  | .huquery b | .huclear b => b < 2
  | .hurestore b _ v => b < 2 && v < 512
  | .timeCheck d _ | .timeRelock d => match d with
      | .compute n => n < 2
      | .memory n => n < 8
  | .victimWritebackComplete _ | .loadReturn _ | .storeAck _ | .atomReturn _ | .homeReadRequest _ | .leaseRenewal _
  | .homeStoreArrival _ | .homeAtomic _ | .replicaUpdate _ | .combiningFlush _ | .heatDecay _ | .scrub _ | .leaseEntryError _
  | .stage2FaultRelease _ _ | .evictionStart _ | .containerSealed _ _ | .promotionComplete _ | .teamStallDetect _
  | .teamComplete _ | .launchComplete _ | .qdoneAck _ | .engineCommandComplete _ | .sliceBoundary | .pullResponse _ _
  | .remoteAccess _ | .apertureCompletion _ _ _ | .apertureTimeout _ | .mustsAdmission _ | .schctlWrite _ | .pwidthWrite _
  | .rollback _ | .ucieLaneRepair _ _ _ | .furrowPortDown _ | .boot _ | .bankMeasure _ | .supplyLoss | .holdupFreeze
  | .holdupSeal | .supplyReturn _ | .registerWrite _ _ _ | .bar2PromotionTimeout _ | .iodReferenceLoss
  | .peleloPlotRequest _ _ => true

end Sys2Proof.Machine
end

