-- ==== Sys2Proof/WellFormed.lean ====
section
/-!
DEFINITION. Well-formed terms: those the encoding rules accept (R152), by the tables of Machine/Legal.
-/

namespace Sys2Proof

/-- A term is well-formed when every field is within its limits and every unused field is zero. -/
def Instr.wf (i : Instr) : Bool := Machine.legal i

end Sys2Proof
end

