-- ==== Sys2Proof/Decode.lean ====
section
/-!
DEFINITION. The encoding of instruction words (R140 to R151) and its inverse. A word is read field by field into the term
its opcode and SUB name; it is accepted when the term is well-formed and encodes to that very word, so that no
reserved bit is dropped (R152). Instructions lie in memory as little-endian 8-byte words (R2, R134).
-/

namespace Sys2Proof

/-- Major opcode, bits [63:56] (R140). -/
def opOf (w : Word) : BitVec 8 := w.extractLsb' 56 8

/-- SUB, bits [50:48] (R140). -/
def subOf (w : Word) : BitVec 3 := w.extractLsb' 48 3

/-- GN and GP, bits [55] and [54:52] (R140). -/
def guardOf (w : Word) : Guard := { neg := w.getLsbD 55, p := w.extractLsb' 52 3 }

/-- The fields of format R (R140, R142); a reserved TYPE or RND reads as code 0 here and fails the comparison with the
encoding. -/
def readR (w : Word) : FR :=
  { g := guardOf w, sub := subOf w, d := w.extractLsb' 42 6, a := w.extractLsb' 36 6, b := w.extractLsb' 30 6,
    c := w.extractLsb' 24 6, swz := w.extractLsb' 18 6, ty := (Machine.tyOfCode (w.extractLsb' 14 4).toNat).getD .b64,
    rnd := (Machine.rndOfCode (w.extractLsb' 11 3).toNat).getD .rne, sat := w.getLsbD 10, reuse := w.getLsbD 9,
    ext := w.extractLsb' 0 9 }

/-- The fields of format I (R145). -/
def readI (w : Word) : FI :=
  { g := guardOf w, sub := subOf w, d := w.extractLsb' 42 6, a := w.extractLsb' 36 6, imm := w.extractLsb' 0 36 }

/-- The fields of format M (R146). -/
def readM (w : Word) : FM :=
  { g := guardOf w, f := w.getLsbD 51, sub := subOf w, d := w.extractLsb' 42 6, a := w.extractLsb' 36 6,
    b := w.extractLsb' 30 6, scope := w.extractLsb' 27 3, lh := w.extractLsb' 25 2, ub := w.getLsbD 24, sp := w.getLsbD 23,
    cnt := w.extractLsb' 20 3, off := w.extractLsb' 0 20 }

/-- The fields of format X (R147). -/
def readX (w : Word) : FX :=
  { g := guardOf w, f := w.getLsbD 51, sub := subOf w, d := w.extractLsb' 42 6, a := w.extractLsb' 36 6,
    b := w.extractLsb' 30 6, c := w.extractLsb' 24 6, sla := w.extractLsb' 21 3, slb := w.extractLsb' 18 3,
    msel := w.extractLsb' 14 4, men := w.getLsbD 13, byp := w.getLsbD 12, reuse := w.getLsbD 11, sp := w.getLsbD 10 }

/-- The fields of format H (R147). -/
def readH (w : Word) : FH :=
  { g := guardOf w, f := w.getLsbD 51, sub := subOf w, d := w.extractLsb' 42 6, a := w.extractLsb' 36 6,
    b := w.extractLsb' 30 6, c := w.extractLsb' 24 6, mc := w.extractLsb' 22 2, tb := w.extractLsb' 19 3,
    sp := w.getLsbD 18, kn := w.extractLsb' 13 4, rot := w.extractLsb' 0 13 }

/-- The fields of format S (R147). -/
def readS (w : Word) : FS :=
  { g := guardOf w, d := w.extractLsb' 42 6, a := w.extractLsb' 36 6, code := w.extractLsb' 0 16 }

/-- The common high part of a word: OP, GN, GP, F and SUB (R140). -/
def headBits (op : BitVec 8) (g : Guard) (f : Bool) (sub : BitVec 3) : BitVec 16 :=
  op ++ BitVec.ofBool g.neg ++ g.p ++ BitVec.ofBool f ++ sub

/-- A format R word (R142). -/
def packR (op : BitVec 8) (f : FR) : Word :=
  headBits op f.g false f.sub ++ f.d ++ f.a ++ f.b ++ f.c ++ f.swz ++ BitVec.ofNat 4 (Machine.tyCode f.ty) ++
    BitVec.ofNat 3 (Machine.rndCode f.rnd) ++ BitVec.ofBool f.sat ++ BitVec.ofBool f.reuse ++ f.ext

/-- A format I word (R145). -/
def packI (op : BitVec 8) (f : FI) : Word := headBits op f.g false f.sub ++ f.d ++ f.a ++ f.imm

/-- A format M word (R146). -/
def packM (op : BitVec 8) (f : FM) : Word :=
  headBits op f.g f.f f.sub ++ f.d ++ f.a ++ f.b ++ f.scope ++ f.lh ++ BitVec.ofBool f.ub ++ BitVec.ofBool f.sp ++ f.cnt ++ f.off

/-- A format X word (R147); bits [9:0] are reserved. -/
def packX (op : BitVec 8) (f : FX) : Word :=
  headBits op f.g f.f f.sub ++ f.d ++ f.a ++ f.b ++ f.c ++ f.sla ++ f.slb ++ f.msel ++ BitVec.ofBool f.men ++
    BitVec.ofBool f.byp ++ BitVec.ofBool f.reuse ++ BitVec.ofBool f.sp ++ 0#10

/-- A format H word (R147); bit 17 is reserved. -/
def packH (op : BitVec 8) (f : FH) : Word :=
  headBits op f.g f.f f.sub ++ f.d ++ f.a ++ f.b ++ f.c ++ f.mc ++ f.tb ++ BitVec.ofBool f.sp ++ 0#1 ++ f.kn ++ f.rot

/-- A format S word (R147); SUB, b, c and bits [23:16] are zero. -/
def packS (op : BitVec 8) (f : FS) : Word := headBits op f.g false 0 ++ f.d ++ f.a ++ 0#20 ++ f.code

/-- The word of an instruction; the events of the table have none (R150, R151). -/
def encodeWord : Instr → Option Word
  | .add f => some (packR 0x10 f)
  | .sub f => some (packR 0x11 f)
  | .mul f => some (packR 0x12 f)
  | .mad f => some (packR 0x13 f)
  | .mulhi f => some (packR 0x14 f)
  | .dot4 f => some (packR 0x15 f)
  | .sad f => some (packR 0x16 f)
  | .min_ f => some (packR 0x17 f)
  | .max_ f => some (packR 0x18 f)
  | .abs_ f => some (packR 0x19 f)
  | .neg f => some (packR 0x1a f)
  | .lea f => some (packR 0x1b f)
  | .sel f => some (packR 0x1c f)
  | .mov f => some (packR 0x1d f)
  | .movi f => some (packI 0x1e f)
  | .moviHi f => some (packI 0x1e f)
  | .and_ f => some (packR 0x20 f)
  | .or_ f => some (packR 0x21 f)
  | .xor_ f => some (packR 0x22 f)
  | .andn f => some (packR 0x23 f)
  | .not_ f => some (packR 0x24 f)
  | .shl f => some (packR 0x25 f)
  | .shr f => some (packR 0x26 f)
  | .sar f => some (packR 0x27 f)
  | .rot f => some (packR 0x28 f)
  | .clz f => some (packR 0x29 f)
  | .popc f => some (packR 0x2a f)
  | .bitrev f => some (packR 0x2b f)
  | .bfe f => some (packR 0x2c f)
  | .bfi f => some (packR 0x2d f)
  | .cmp f => some (packR 0x30 f)
  | .fcmp f => some (packR 0x31 f)
  | .fclass f => some (packR 0x32 f)
  | .pand f => some (packR 0x33 f)
  | .por f => some (packR 0x34 f)
  | .pxor f => some (packR 0x35 f)
  | .pnot f => some (packR 0x36 f)
  | .pmovFromVector f => some (packR 0x37 f)
  | .pmovToVector f => some (packR 0x37 f)
  | .voteAny f => some (packR 0x38 f)
  | .voteAll f => some (packR 0x38 f)
  | .voteBallot f => some (packR 0x38 f)
  | .shfl f => some (packR 0x39 f)
  | .bperm f => some (packR 0x3a f)
  | .fadd f => some (packR 0x40 f)
  | .fsub f => some (packR 0x41 f)
  | .fmul f => some (packR 0x42 f)
  | .fma f => some (packR 0x43 f)
  | .fmin f => some (packR 0x44 f)
  | .fmax f => some (packR 0x45 f)
  | .fabs f => some (packR 0x46 f)
  | .fneg f => some (packR 0x47 f)
  | .frnd f => some (packR 0x48 f)
  | .frcp f => some (packR 0x49 f)
  | .frsq f => some (packR 0x4a f)
  | .fsqrt f => some (packR 0x4b f)
  | .fexp2 f => some (packR 0x4c f)
  | .flog2 f => some (packR 0x4d f)
  | .fsin f => some (packR 0x4e f)
  | .fcos f => some (packR 0x4f f)
  | .ftanh f => some (packR 0x50 f)
  | .cvt f => some (packR 0x51 f)
  | .qnt f => some (packR 0x52 f)
  | .dqnt f => some (packR 0x53 f)
  | .pack f => some (packR 0x54 f)
  | .unpack f => some (packR 0x55 f)
  | .bra f => some (packI 0x60 f)
  | .brx f => some (packR 0x61 f)
  | .call f => some (packI 0x62 f)
  | .ret f => some (packR 0x63 f)
  | .exit f => some (packS 0x64 f)
  | .yield f => some (packS 0x65 f)
  | .rep f => some (packI 0x66 f)
  | .waitt f => some (packS 0x67 f)
  | .trap f => some (packS 0x68 f)
  | .brk f => some (packS 0x69 f)
  | .eret f => some (packS 0x6a f)
  | .movs f => some (packS 0x6b f)
  | .movt f => some (packS 0x6c f)
  | .ld f => some (packM 0x70 f)
  | .st f => some (packM 0x71 f)
  | .ldu f => some (packM 0x72 f)
  | .atom f => some (packM 0x73 f)
  | .atomFadd f => some (packM 0x74 f)
  | .red f => some (packM 0x75 f)
  | .fence f => some (packM 0x76 f)
  | .fenceX f => some (packM 0x77 f)
  | .pref f => some (packM 0x78 f)
  | .cpy f => some (packM 0x79 f)
  | .barArr f => some (packR 0x80 f)
  | .barWait f => some (packR 0x81 f)
  | .barRed f => some (packR 0x82 f)
  | .barScan f => some (packR 0x83 f)
  | .spawn f => some (packR 0x84 f)
  | .migr f => some (packM 0x85 f)
  | .musts f => some (packM 0x86 f)
  | .tld f => some (packX 0x90 f)
  | .tst f => some (packX 0x91 f)
  | .acl f => some (packX 0x92 f)
  | .mma f => some (packX 0x93 f)
  | .adrn f => some (packX 0x94 f)
  | .abyp f => some (packX 0x95 f)
  | .ast f => some (packX 0x96 f)
  | .hld f => some (packH 0xa0 f)
  | .hst f => some (packH 0xa1 f)
  | .hclr f => some (packH 0xa2 f)
  | .hbind f => some (packH 0xa3 f)
  | .hperm f => some (packH 0xa4 f)
  | .hbun f => some (packH 0xa5 f)
  | .hmaj f => some (packH 0xa6 f)
  | .hdist f => some (packH 0xa7 f)
  | .hpop f => some (packH 0xa8 f)
  | .hams f => some (packH 0xa9 f)
  | .hnear f => some (packH 0xaa f)
  | .hnearK f => some (packH 0xaa f)
  | .hscan f => some (packH 0xab f)
  | _ => none

/-- The term an opcode and a word's SUB name, its fields read without any check; none where the opcode or SUB is reserved
(R150, R151). -/
def parseOp (op : Nat) (w : Word) : Option Instr :=
  match op with
  | 0x10 => some (.add (readR w))
  | 0x11 => some (.sub (readR w))
  | 0x12 => some (.mul (readR w))
  | 0x13 => some (.mad (readR w))
  | 0x14 => some (.mulhi (readR w))
  | 0x15 => some (.dot4 (readR w))
  | 0x16 => some (.sad (readR w))
  | 0x17 => some (.min_ (readR w))
  | 0x18 => some (.max_ (readR w))
  | 0x19 => some (.abs_ (readR w))
  | 0x1a => some (.neg (readR w))
  | 0x1b => some (.lea (readR w))
  | 0x1c => some (.sel (readR w))
  | 0x1d => some (.mov (readR w))
  | 0x1e =>
    match (subOf w).toNat with
    | 0 => some (.movi (readI w))
    | 1 => some (.moviHi (readI w))
    | _ => none
  | 0x20 => some (.and_ (readR w))
  | 0x21 => some (.or_ (readR w))
  | 0x22 => some (.xor_ (readR w))
  | 0x23 => some (.andn (readR w))
  | 0x24 => some (.not_ (readR w))
  | 0x25 => some (.shl (readR w))
  | 0x26 => some (.shr (readR w))
  | 0x27 => some (.sar (readR w))
  | 0x28 => some (.rot (readR w))
  | 0x29 => some (.clz (readR w))
  | 0x2a => some (.popc (readR w))
  | 0x2b => some (.bitrev (readR w))
  | 0x2c => some (.bfe (readR w))
  | 0x2d => some (.bfi (readR w))
  | 0x30 => some (.cmp (readR w))
  | 0x31 => some (.fcmp (readR w))
  | 0x32 => some (.fclass (readR w))
  | 0x33 => some (.pand (readR w))
  | 0x34 => some (.por (readR w))
  | 0x35 => some (.pxor (readR w))
  | 0x36 => some (.pnot (readR w))
  | 0x37 => if w.getLsbD 0 then some (.pmovToVector (readR w)) else some (.pmovFromVector (readR w))
  | 0x38 =>
    match (subOf w).toNat with
    | 0 => some (.voteAny (readR w))
    | 1 => some (.voteAll (readR w))
    | 2 => some (.voteBallot (readR w))
    | _ => none
  | 0x39 => some (.shfl (readR w))
  | 0x3a => some (.bperm (readR w))
  | 0x40 => some (.fadd (readR w))
  | 0x41 => some (.fsub (readR w))
  | 0x42 => some (.fmul (readR w))
  | 0x43 => some (.fma (readR w))
  | 0x44 => some (.fmin (readR w))
  | 0x45 => some (.fmax (readR w))
  | 0x46 => some (.fabs (readR w))
  | 0x47 => some (.fneg (readR w))
  | 0x48 => some (.frnd (readR w))
  | 0x49 => some (.frcp (readR w))
  | 0x4a => some (.frsq (readR w))
  | 0x4b => some (.fsqrt (readR w))
  | 0x4c => some (.fexp2 (readR w))
  | 0x4d => some (.flog2 (readR w))
  | 0x4e => some (.fsin (readR w))
  | 0x4f => some (.fcos (readR w))
  | 0x50 => some (.ftanh (readR w))
  | 0x51 => some (.cvt (readR w))
  | 0x52 => some (.qnt (readR w))
  | 0x53 => some (.dqnt (readR w))
  | 0x54 => some (.pack (readR w))
  | 0x55 => some (.unpack (readR w))
  | 0x60 => some (.bra (readI w))
  | 0x61 => some (.brx (readR w))
  | 0x62 => some (.call (readI w))
  | 0x63 => some (.ret (readR w))
  | 0x64 => some (.exit (readS w))
  | 0x65 => some (.yield (readS w))
  | 0x66 => some (.rep (readI w))
  | 0x67 => some (.waitt (readS w))
  | 0x68 => some (.trap (readS w))
  | 0x69 => some (.brk (readS w))
  | 0x6a => some (.eret (readS w))
  | 0x6b => some (.movs (readS w))
  | 0x6c => some (.movt (readS w))
  | 0x70 => some (.ld (readM w))
  | 0x71 => some (.st (readM w))
  | 0x72 => some (.ldu (readM w))
  | 0x73 => some (.atom (readM w))
  | 0x74 => some (.atomFadd (readM w))
  | 0x75 => some (.red (readM w))
  | 0x76 => some (.fence (readM w))
  | 0x77 => some (.fenceX (readM w))
  | 0x78 => some (.pref (readM w))
  | 0x79 => some (.cpy (readM w))
  | 0x80 => some (.barArr (readR w))
  | 0x81 => some (.barWait (readR w))
  | 0x82 => some (.barRed (readR w))
  | 0x83 => some (.barScan (readR w))
  | 0x84 => some (.spawn (readR w))
  | 0x85 => some (.migr (readM w))
  | 0x86 => some (.musts (readM w))
  | 0x90 => some (.tld (readX w))
  | 0x91 => some (.tst (readX w))
  | 0x92 => some (.acl (readX w))
  | 0x93 => some (.mma (readX w))
  | 0x94 => some (.adrn (readX w))
  | 0x95 => some (.abyp (readX w))
  | 0x96 => some (.ast (readX w))
  | 0xa0 => some (.hld (readH w))
  | 0xa1 => some (.hst (readH w))
  | 0xa2 => some (.hclr (readH w))
  | 0xa3 => some (.hbind (readH w))
  | 0xa4 => some (.hperm (readH w))
  | 0xa5 => some (.hbun (readH w))
  | 0xa6 => some (.hmaj (readH w))
  | 0xa7 => some (.hdist (readH w))
  | 0xa8 => some (.hpop (readH w))
  | 0xa9 => some (.hams (readH w))
  | 0xaa =>
    match (subOf w).toNat with
    | 0 => some (.hnear (readH w))
    | 1 => some (.hnearK (readH w))
    | _ => none
  | 0xab => some (.hscan (readH w))
  | _ => none

/-- The term a word names, by its major opcode. -/
def parse (w : Word) : Option Instr := parseOp (opOf w).toNat w

/-- The instruction a word encodes; none where R152 gives it the illegal-instruction trap. -/
def decodeWord (w : Word) : Option Instr :=
  match parse w with
  | none => none
  | some i => if i.wf && encodeWord i == some w then some i else none

/-- Why bytes are not an instruction. -/
inductive Reject where
  /-- Fewer than the eight bytes of a word. -/
  | short
  /-- The opcode or its SUB value is reserved (R150, R151). -/
  | reserved
  /-- A field breaks the limits of the entry, or a reserved bit is set (R152). -/
  | illegal
  deriving DecidableEq, Repr

/-- The 64-bit little-endian word of eight bytes, lowest address first (R2). -/
def wordOfBytes (bs : List Byte) : Word := BitVec.ofNat 64 (bs.foldr (fun b n => b.toNat + 256 * n) 0)

/-- The eight bytes of a word, lowest address first (R2). -/
def bytesOfWord (w : Word) : List Byte := (List.range 8).map (fun j => w.extractLsb' (8 * j) 8)

/-- Reads one instruction from bytes, with the rest of them. -/
def decode (bs : List Byte) : Except Reject (Instr × List Byte) :=
  if bs.length < 8 then .error .short
  else
    let w := wordOfBytes (bs.take 8)
    match parse w with
    | none => .error .reserved
    | some _ =>
      match decodeWord w with
      | none => .error .illegal
      | some i => .ok (i, bs.drop 8)

/-- The bytes of a well-formed instruction; none for an ill-formed term and for the events of the table. -/
def encode (i : Instr) : Option (List Byte) := if i.wf then (encodeWord i).map bytesOfWord else none

/-- The instruction this decoder reads from a word of the table's numbering: one 64-bit word, the bits above `nbits` zero. -/
def decodeTableWord (nbits w : Nat) : Option Instr :=
  match decode (bytesOfWord (BitVec.ofNat 64 (w % 2 ^ nbits))) with
  | .ok (i, _) => some i
  | .error _ => none

end Sys2Proof
end

