-- ==== Sys2Proof/Machine/Formats.lean ====
section
/-!
DEFINITION. Number formats, exact values and the rounding function (R83 to R96), and the exact or enclosed value of every
floating-point function of R172 and R173. Codes are natural numbers below 2 to the width of their format.
-/

namespace Sys2Proof.Machine

/-- An exact value: NaN, an infinity, or a signed fraction num / den with den > 0; a zero keeps its sign (R91, R93). -/
inductive XVal where
  | nan
  | inf (neg : Bool)
  | fin (neg : Bool) (num den : Nat)
  deriving DecidableEq, Repr

/-- How a format uses its all-ones exponent (R83). -/
inductive Specials where
  | ieee | e4m3 | none
  deriving DecidableEq, Repr

/-- A floating-point format (R83). -/
structure Fmt where
  width : Nat
  p : Nat
  bias : Nat
  sp : Specials
  deriving DecidableEq, Repr

def fp64 : Fmt := { width := 64, p := 52, bias := 1023, sp := .ieee }
def fp32 : Fmt := { width := 32, p := 23, bias := 127, sp := .ieee }
def fp16 : Fmt := { width := 16, p := 10, bias := 15, sp := .ieee }
def bf16 : Fmt := { width := 16, p := 7, bias := 127, sp := .ieee }
def e4m3 : Fmt := { width := 8, p := 3, bias := 7, sp := .e4m3 }
def e5m2 : Fmt := { width := 8, p := 2, bias := 15, sp := .ieee }
def e2m1 : Fmt := { width := 4, p := 1, bias := 1, sp := .none }
def fa40 : Fmt := { width := 40, p := 31, bias := 127, sp := .ieee }

/-- The format of a floating-point element type; FP64 stands in for the others, where no caller uses it. -/
def tyFmt : Ty → Fmt
  | .f32 => fp32 | .f16 => fp16 | .bf16 => bf16 | .f8e4 => e4m3 | .f8e5 => e5m2 | _ => fp64

/-- The largest exponent field, all ones. -/
def Fmt.eOnes (f : Fmt) : Nat := 2 ^ (f.width - 1 - f.p) - 1

/-- The code of the largest finite magnitude (R83). -/
def Fmt.maxCode (f : Fmt) : Nat :=
  match f.sp with
  | .ieee => f.eOnes * 2 ^ f.p - 1
  | .e4m3 => 2 ^ (f.width - 1) - 2
  | .none => 2 ^ (f.width - 1) - 1

/-- The canonical NaN of a format (R90); FP4 has none. -/
def Fmt.nanCode (f : Fmt) : Nat :=
  match f.sp with
  | .ieee => f.eOnes * 2 ^ f.p + 2 ^ (f.p - 1)
  | .e4m3 => 2 ^ (f.width - 1) - 1
  | .none => 0

/-- The sign bit of a code. -/
def Fmt.signBit (f : Fmt) : Nat := 2 ^ (f.width - 1)

/-- A magnitude code under a sign. -/
def Fmt.withSign (f : Fmt) (neg : Bool) (mag : Nat) : Nat := if neg then f.signBit + mag else mag

/-- num × 2^e as an exact value. -/
def scaled (neg : Bool) (num : Nat) (e : Int) : XVal :=
  if 0 ≤ e then .fin neg (num * 2 ^ e.toNat) 1 else .fin neg num (2 ^ (-e).toNat)

/-- The value of a code (R83). -/
def Fmt.value (f : Fmt) (code : Nat) : XVal :=
  let neg := decide (f.signBit ≤ code % (2 * f.signBit))
  let mag := code % f.signBit
  let e := mag / 2 ^ f.p
  let fr := mag % 2 ^ f.p
  if f.maxCode < mag then
    (match f.sp with
      | .ieee => if fr = 0 then .inf neg else .nan
      | _ => .nan)
  else if e = 0 then scaled neg fr (1 - (f.bias : Int) - f.p)
  else scaled neg (2 ^ f.p + fr) ((e : Int) - f.bias - f.p)

/-- floor(log2(num / den)) for num, den > 0. -/
def log2Floor (num den : Nat) : Int :=
  let k : Int := (Nat.log2 num : Int) - Nat.log2 den
  let fits := if 0 ≤ k then decide (den * 2 ^ k.toNat ≤ num) else decide (den ≤ num * 2 ^ (-k).toNat)
  if fits then k else k - 1

/-- Rounds the magnitude num / den of a value of sign `neg` to an integer (R93); `r` is the stochastic draw of R94. -/
def roundMag (mode : Rnd) (neg : Bool) (num den r : Nat) : Nat :=
  let q := num / den
  let rest := num % den
  match mode with
  | .rne => if 2 * rest < den then q else if den < 2 * rest then q + 1 else if q % 2 = 0 then q else q + 1
  | .rz => q
  | .ru => if neg || rest = 0 then q else q + 1
  | .rd => if !neg || rest = 0 then q else q + 1
  | .rs => (num * 65536 + r * den) / (den * 65536)

/-- An overflowing or infinite value (R93, table of OVF). -/
def Fmt.ovf (f : Fmt) (neg : Bool) (mode : Rnd) (sat : Bool) : Nat :=
  let max := f.withSign neg f.maxCode
  let inf := match f.sp with
    | .ieee => f.withSign neg (f.eOnes * 2 ^ f.p)
    | .e4m3 => f.nanCode
    | .none => max
  if sat || f.sp == .none then max
  else match mode with
    | .rne | .rs => inf
    | .rz => max
    | .ru => if neg then max else inf
    | .rd => if neg then inf else max

/-- RND of R93: the code of the exact value `x` in a format. -/
def rnd (f : Fmt) (mode : Rnd) (sat : Bool) (r : Nat) (x : XVal) : Nat :=
  match x with
  | .nan => f.nanCode
  | .inf neg => f.ovf neg .rne sat
  | .fin neg num den =>
    if num = 0 then f.withSign neg 0
    else
      let emin : Int := 1 - f.bias
      let l := log2Floor num den
      let e := if l < emin then emin else l
      let u := e - f.p
      let q := if 0 ≤ u then roundMag mode neg num (den * 2 ^ u.toNat) r
        else roundMag mode neg (num * 2 ^ (-u).toNat) den r
      let mag := (e - emin).toNat * 2 ^ f.p + q
      if f.maxCode < mag then f.ovf neg mode sat else f.withSign neg mag

/-- RN40 and RN64 of R93. -/
def rn40 (x : XVal) : Nat := rnd fa40 .rne false 0 x
def rn64 (x : XVal) : Nat := rnd fp64 .rne false 0 x

/-- Sign inversion. -/
def XVal.negate : XVal → XVal
  | .nan => .nan
  | .inf n => .inf (!n)
  | .fin n a b => .fin (!n) a b

/-- The sign of a value. -/
def XVal.isNeg : XVal → Bool
  | .nan => false
  | .inf n => n
  | .fin n _ _ => n

/-- Whether a value is NaN. -/
def XVal.isNan : XVal → Bool
  | .nan => true
  | _ => false

/-- Whether a value is ±0. -/
def XVal.isZero : XVal → Bool
  | .fin _ 0 _ => true
  | _ => false

/-- Whether a value is finite. -/
def XVal.isFin : XVal → Bool
  | .fin _ _ _ => true
  | _ => false

/-- Exact sum; `rd` is whether the rounding mode is RD, which decides the sign of a cancelled zero (R91). -/
def xadd (rd : Bool) : XVal → XVal → XVal
  | .nan, _ => .nan
  | _, .nan => .nan
  | .inf a, .inf b => if a = b then .inf a else .nan
  | .inf a, _ => .inf a
  | _, .inf b => .inf b
  | .fin n1 a1 b1, .fin n2 a2 b2 =>
    let x := a1 * b2
    let y := a2 * b1
    if n1 = n2 then .fin n1 (x + y) (b1 * b2)
    else if x = y then .fin rd 0 1
    else if y < x then .fin n1 (x - y) (b1 * b2)
    else .fin n2 (y - x) (b1 * b2)

/-- Exact product. -/
def xmul : XVal → XVal → XVal
  | .nan, _ => .nan
  | _, .nan => .nan
  | .inf a, .inf b => .inf (a != b)
  | .inf a, .fin b n _ => if n = 0 then .nan else .inf (a != b)
  | .fin a n _, .inf b => if n = 0 then .nan else .inf (a != b)
  | .fin n1 a1 b1, .fin n2 a2 b2 => .fin (n1 != n2) (a1 * a2) (b1 * b2)

/-- 1 / x with the special operands of R173. -/
def xinv : XVal → XVal
  | .nan => .nan
  | .inf n => .fin n 0 1
  | .fin n a b => if a = 0 then .inf n else .fin n b a

/-- Exact quotient, for divisors that are finite and not zero. -/
def xdiv (x y : XVal) : XVal := xmul x (xinv y)

/-- Whether x < y, for values that are not NaN; zeros of either sign are equal (R169). -/
def xlt : XVal → XVal → Bool
  | .nan, _ => false
  | _, .nan => false
  | .inf a, .inf b => a && !b
  | .inf a, .fin _ _ _ => a
  | .fin _ _ _, .inf b => !b
  | .fin n1 a1 b1, .fin n2 a2 b2 =>
    let x : Int := if n1 then -(a1 * b2 : Int) else a1 * b2
    let y : Int := if n2 then -(a2 * b1 : Int) else a2 * b1
    x < y

/-- An integer as an exact value. -/
def xint (n : Int) : XVal := .fin (n < 0) n.natAbs 1

/-- Conversion to an integer (R96): rounds with ulp 1, then clamps to lo..hi; NaN gives 0. -/
def toInteger (mode : Rnd) (r : Nat) (lo hi : Int) : XVal → Int
  | .nan => 0
  | .inf n => if n then lo else hi
  | .fin n a b =>
    let q : Int := roundMag mode n a b r
    max lo (min hi (if n then -q else q))

/-- The signed reading of a w-bit pattern. -/
def sgn (w x : Nat) : Int := if x % 2 ^ w < 2 ^ (w - 1) then (x % 2 ^ w : Nat) else ((x % 2 ^ w : Nat) : Int) - 2 ^ w

/-- WRAP: the w-bit two's-complement pattern of an integer. -/
def wrapW (w : Nat) (x : Int) : Nat := (x % 2 ^ w).toNat

/-- The least and the greatest value of an integer type. -/
def tyMin (t : Ty) : Int := if isSint t then -(2 ^ (tyW t - 1) : Int) else 0
def tyMax (t : Ty) : Int := if isSint t then 2 ^ (tyW t - 1) - 1 else 2 ^ tyW t - 1

/-- CLAMP: the pattern of an integer limited to the range of a type. -/
def clampTy (t : Ty) (x : Int) : Nat := wrapW (tyW t) (max (tyMin t) (min (tyMax t) x))

/-- An integer sub-element's value: signed for s types, unsigned otherwise. -/
def intVal (t : Ty) (x : Nat) : Int := if isSint t then sgn (tyW t) x else ((x % 2 ^ tyW t : Nat) : Int)

/-- Newton's iteration for the integer square root, from above. -/
def isqrtLoop : Nat → Nat → Nat → Nat
  | 0, _, x => x
  | fuel + 1, n, x =>
    let y := (x + n / x) / 2
    if y < x then isqrtLoop fuel n y else x

/-- floor of the square root. -/
def isqrt (n : Nat) : Nat := if n = 0 then 0 else isqrtLoop 600 n (2 ^ (Nat.log2 n / 2 + 1))

/-- A value that rounds as √(num/den) does: the root to more than 120 bits, and half a unit more where it is inexact. -/
def sqrtStandIn (num den : Nat) : XVal :=
  let l := log2Floor num den
  let s : Nat := if 0 ≤ l then 130 else 130 + (-l).toNat
  let t := num * 2 ^ (2 * s) / den
  let q := isqrt t
  let exact := decide (q * q * den = num * 2 ^ (2 * s))
  .fin false (2 * q + if exact then 0 else 1) (2 * 2 ^ s)

/-- √x with the special operands of R173. -/
def xsqrt : XVal → XVal
  | .nan => .nan
  | .inf n => if n then .nan else .inf false
  | .fin n a b => if a = 0 then .fin n 0 1 else if n then .nan else sqrtStandIn a b

/-- 1/√x with the special operands of R173. -/
def xrsqrt : XVal → XVal
  | .nan => .nan
  | .inf n => if n then .nan else .fin false 0 1
  | .fin n a b => if a = 0 then .inf n else if n then .nan else sqrtStandIn b a

/-- ln 2 in units of 2^-n, by the series of 1 / (k 2^k); within `fuel` units below. -/
def ln2Loop : Nat → Nat → Nat → Nat
  | 0, _, _ => 0
  | fuel + 1, k, t => (t / k) + ln2Loop fuel (k + 1) (t / 2)

def ln2Fixed (n : Nat) : Nat := ln2Loop (n + 4) 1 (2 ^ (n - 1))

/-- e^y in units of 2^-n for y in units of 2^-n with 0 ≤ y < 1. -/
def expLoop : Nat → Nat → Nat → Nat → Nat → Nat
  | 0, _, _, _, _ => 0
  | fuel + 1, n, y, k, term => term + expLoop fuel n y (k + 1) (term * y / 2 ^ n / k)

/-- arctan(1/m) in units of 2^-n. -/
def atanLoop : Nat → Nat → Nat → Nat → Bool → Int
  | 0, _, _, _, _ => 0
  | fuel + 1, m2, t, k, pos => (if pos then ((t / k : Nat) : Int) else -((t / k : Nat) : Int)) + atanLoop fuel m2 (t / m2) (k + 2) (!pos)

/-- π in units of 2^-n by Machin's formula. -/
def piFixed (n : Nat) : Nat :=
  (16 * atanLoop (n / 4 + 4) 25 (2 ^ n / 5) 1 true - 4 * atanLoop (n / 4 + 4) 57121 (2 ^ n / 239) 1 true).toNat

/-- sin or cos of y (units of 2^-n, 0 ≤ y ≤ π/2) by its alternating series from the term given. -/
def trigLoop : Nat → Nat → Nat → Nat → Nat → Bool → Int
  | 0, _, _, _, _, _ => 0
  | fuel + 1, n, y2, k, term, pos =>
    (if pos then (term : Int) else -(term : Int)) + trigLoop fuel n y2 (k + 2) (term * y2 / 2 ^ n / ((k + 1) * (k + 2))) (!pos)

/-- 2·artanh(z) in units of 2^-n for z in units of 2^-n. -/
def atanhLoop : Nat → Nat → Nat → Nat → Nat → Nat
  | 0, _, _, _, _ => 0
  | fuel + 1, n, z2, k, t => 2 * (t / k) + atanhLoop fuel n z2 (k + 2) (t * z2 / 2 ^ n)

/-- The functions of R173 that are not algebraic. -/
inductive Func where
  | exp2 | log2 | sin | cos | tanh
  deriving DecidableEq, Repr

/-- floor((±num/den) × 2^n) as an integer. -/
def fixedOf (neg : Bool) (num den n : Nat) : Int :=
  let v : Int := (num * 2 ^ n / den : Nat)
  if neg then (if num * 2 ^ n % den = 0 then -v else -v - 1) else v

/-- 2^(y / 2^n) for an integer y, as mantissa in units of 2^-n (between 1 and 2) and exponent. -/
def exp2Fixed (n : Nat) (y : Int) : Nat × Int :=
  let k := y / 2 ^ n
  let f := (y % 2 ^ n).toNat
  (expLoop (n + 8) n (f * ln2Fixed n / 2 ^ n) 1 (2 ^ n), k)

/-- An interval of value v ± err in units of 2^-n, times 2^e, as two exact values. -/
def around (v : Int) (err n : Nat) (e : Int) : XVal × XVal :=
  let f := fun (x : Int) => scaled (x < 0) x.natAbs (e - n)
  (f (v - err), f (v + err))

/-- An interval that holds the function's value at ±num/den (num > 0), to about n bits. The bound on the rounding errors of
the truncated fixed-point sums is one unit for each of their at most n + 8 terms, taken sixteenfold. -/
def enclose (fn : Func) (n : Nat) (neg : Bool) (num den : Nat) : XVal × XVal :=
  let err := 16 * (n + 16)
  match fn with
  | .exp2 =>
    let (m, k) := exp2Fixed n (fixedOf neg num den n)
    around m err n k
  | .log2 =>
    let k := log2Floor num den
    let (a, b) := if 0 ≤ k then (num, den * 2 ^ k.toNat) else (num * 2 ^ (-k).toNat, den)
    let z := (a - b) * 2 ^ n / (a + b)
    let l := atanhLoop (n + 8) n (z * z / 2 ^ n) 1 z
    around (k * 2 ^ n + (l * 2 ^ n / ln2Fixed n : Nat)) err n 0
  | .sin | .cos =>
    let extra := Nat.log2 (num / den + 1) + 8
    let h := piFixed (n + extra)
    let x := num * 2 ^ (n + extra) / den
    let quad := 2 * x / h
    let rest := (2 * x - quad * h) / 2 ^ (extra + 1)
    let s := trigLoop (n + 8) n (rest * rest / 2 ^ n) 1 rest true
    let c := trigLoop (n + 8) n (rest * rest / 2 ^ n) 0 (2 ^ n) true
    let v := match fn, quad % 4 with
      | .sin, 0 => s | .sin, 1 => c | .sin, 2 => -s | .sin, _ => -c
      | _, 0 => c | _, 1 => -s | _, 2 => -c | _, _ => s
    around (if neg && fn == .sin then -v else v) err n 0
  | .tanh =>
    let l := ln2Fixed n
    let y := 2 * num * 2 ^ n / den * 2 ^ n / l
    let (m, k) := exp2Fixed n y
    let big : Int := m * 2 ^ k.toNat
    let v := (big - 2 ^ n) * 2 ^ n / (big + 2 ^ n)
    around (if neg then -v else v) (64 * err) n 0

/-- Rounds where both ends of a wide enough interval round alike; tries finer intervals. -/
def decideRnd (f : Fmt) (mode : Rnd) (sat : Bool) (r : Nat) (fn : Func) (neg : Bool) (num den : Nat) : List Nat → Option Nat
  | [] => none
  | n :: ns =>
    let (lo, hi) := enclose fn n neg num den
    let a := rnd f mode sat r lo
    if a = rnd f mode sat r hi && lo.isNeg == hi.isNeg && !lo.isZero && !hi.isZero then some a
    else decideRnd f mode sat r fn neg num den ns

/-- The code of RND of a function at a finite value that is not zero (R173). Where the argument is so small or so large that the
value lies within 2^-90 of a representable one, a stand-in on the right side of it rounds alike; else intervals of 160 bits and of up to
23 doublings of that decide (log entry 9). -/
def rndFunc (f : Fmt) (mode : Rnd) (sat : Bool) (r : Nat) (fn : Func) (operand : Nat) (neg : Bool) (num den : Nat) : Nat :=
  let l := log2Floor num den
  let near := fun (base : XVal) (up : Bool) =>
    rnd f mode sat r (xmul base (.fin false (if up then 2 ^ 90 + 1 else 2 ^ 90 - 1) (2 ^ 90)))
  let pow2 := match fn with
    | .exp2 => num % den == 0
    | .log2 => if 0 ≤ l then num == den * 2 ^ l.toNat else num * 2 ^ (-l).toNat == den
    | _ => false
  match fn, pow2 with
  | .exp2, true =>
    if l < 14 then
      let k := num / den
      rnd f mode sat r (if neg then .fin false 1 (2 ^ k) else .fin false (2 ^ k) 1)
    else rnd f mode sat r (if neg then .fin false 1 (2 ^ 16384) else .fin false (2 ^ 16384) 1)
  | .log2, true => rnd f mode sat r (if l = 0 then .fin false 0 1 else .fin (l < 0) l.natAbs 1)
  | _, _ =>
    if fn == .exp2 && l < -100 then near (.fin false 1 1) (!neg)
    else if fn == .exp2 && 14 ≤ l then rnd f mode sat r (if neg then .fin false 1 (2 ^ 16384) else .fin false (2 ^ 16384) 1)
    else if fn == .cos && l < -50 then near (.fin false 1 1) false
    else if (fn == .sin || fn == .tanh) && l < -50 then near (.fin neg num den) false
    else if fn == .tanh && 6 ≤ l then near (.fin neg 1 1) false
    else
      match decideRnd f mode sat r fn neg num den ((List.range 24).map (fun i => 160 * 2 ^ i)) with
      | some c => c
      | none => Config.undecidedRounding (match fn with | .exp2 => 0 | .log2 => 1 | .sin => 2 | .cos => 3 | .tanh => 4)
          f.width (rndCode mode) r operand

/-- A function of R173 on a code: the table of special operands, then the exact or enclosed value. -/
def funcCode (t : Ty) (mode : Rnd) (sat : Bool) (r : Nat) (fn : Func) (code : Nat) : Nat :=
  let f := tyFmt t
  let one := XVal.fin false 1 1
  match f.value code with
  | .nan => f.nanCode
  | .inf n => rnd f mode sat r (match fn with
      | .exp2 => if n then .fin false 0 1 else .inf false
      | .log2 => if n then .nan else .inf false
      | .sin | .cos => .nan
      | .tanh => .fin n 1 1)
  | .fin n a b =>
    if a = 0 then rnd f mode sat r (match fn with
      | .exp2 | .cos => one
      | .log2 => .inf true
      | .sin | .tanh => .fin n 0 1)
    else if fn == .log2 && n then f.nanCode
    else rndFunc f mode sat r fn code n a b

/-- MIX of R94. -/
def mix (z : Nat) : Nat :=
  let m := 2 ^ 64
  let z := z % m
  let z := (z ^^^ (z / 2 ^ 30)) * 0xBF58476D1CE4E5B9 % m
  let z := (z ^^^ (z / 2 ^ 27)) * 0x94D049BB133111EB % m
  z ^^^ (z / 2 ^ 31)

/-- The stochastic draw r of R94. -/
def draw (pc cpos repc team tid seed e : Nat) : Nat :=
  let z := mix (pc + 8 * cpos + 2 ^ 48 * repc)
  let z := mix (z ^^^ ((team * 2 ^ 10 + tid) % 2 ^ 64))
  let z := mix (z ^^^ ((seed * 2 ^ 32 + e) % 2 ^ 64))
  z / 2 ^ 48

/-- Round to an integral value in its own format (R175): ulp 1, a zero result keeps the sign. -/
def frndCode (t : Ty) (mode : Rnd) (r code : Nat) : Nat :=
  let f := tyFmt t
  match f.value code with
  | .nan => f.nanCode
  | .inf n => f.withSign n (f.eOnes * 2 ^ f.p)
  | .fin n a b => rnd f .rne false 0 (.fin n (roundMag mode n a b r) 1)

/-- fmin and fmax (R174), bit for bit, −0 below +0; a single NaN is ignored. -/
def fminmax (t : Ty) (max : Bool) (a b : Nat) : Nat :=
  let f := tyFmt t
  let x := f.value a
  let y := f.value b
  match x.isNan, y.isNan with
  | true, true => f.nanCode
  | true, false => b
  | false, true => a
  | false, false =>
    let aLess := xlt x y || (x.isZero && y.isZero && x.isNeg && !y.isNeg)
    if aLess != max then a
    else if xlt y x || (x.isZero && y.isZero && y.isNeg && !x.isNeg) || aLess then b else a

/-- The class of a code (R170). -/
def fclassOf (t : Ty) (code : Nat) : Nat :=
  let f := tyFmt t
  match f.value code with
  | .nan => 8
  | .inf n => if n then 0 else 7
  | .fin n a _ =>
    if a = 0 then (if n then 3 else 4)
    else if code % f.signBit < 2 ^ f.p then (if n then 2 else 5) else (if n then 1 else 6)

/-- fcmp under a condition code (R169). -/
def fcmpCode (t : Ty) (cc a b : Nat) : Bool :=
  let x := (tyFmt t).value a
  let y := (tyFmt t).value b
  let un := x.isNan || y.isNan
  let lt := xlt x y
  let gt := xlt y x
  match cc with
  | 0 => !un && !lt && !gt
  | 1 => !un && (lt || gt)
  | 2 => !un && lt
  | 3 => !un && !gt
  | 4 => !un && gt
  | 5 => !un && !lt
  | 6 => un
  | 7 => !un
  | 8 => un || lt || gt
  | _ => false

/-- cmp under a condition code (R169). -/
def cmpCode (cc : Nat) (a b : Int) : Bool :=
  match cc with
  | 0 => a == b
  | 1 => a != b
  | 2 => a < b
  | 3 => a ≤ b
  | 4 => b < a
  | 5 => b ≤ a
  | _ => false

/-- CONV of R176 between two types. -/
def convCode (dt st : Ty) (mode : Rnd) (sat : Bool) (r a : Nat) : Nat :=
  if isFloat st then
    let x := (tyFmt st).value a
    if isFloat dt then rnd (tyFmt dt) mode sat r x
    else wrapW (tyW dt) (toInteger mode r (tyMin dt) (tyMax dt) x)
  else
    let x := intVal st a
    if isFloat dt then rnd (tyFmt dt) mode sat r (xint x)
    else if sat then clampTy dt x else wrapW (tyW dt) x

end Sys2Proof.Machine
end

