-- ==== Sys2Proof/Machine/Operands.lean ====
section
/-!
DEFINITION. Operand forms: guards (R141), sub-elements (R8), swizzles and lanes of an aligned set (R144, R182), immediates
(R142), the vector registers an instruction names (R72), REP stepping (R149, R189), format slots (R97, R98) and the classes
and last-only instructions of R137.
-/

namespace Sys2Proof.Machine

/-! Sub-elements. -/

/-- Sub-element i of width w of a register. -/
def sub (w : Nat) (x : Word) (i : Nat) : Nat := x.toNat / 2 ^ (w * i) % 2 ^ w

/-- The number whose w-bit digits are given, first lowest. -/
def joinW (w : Nat) : List Nat → Nat
  | [] => 0
  | x :: rest => x % 2 ^ w + 2 ^ w * joinW w rest

/-- A register with sub-elements replaced where `on` holds (R160). -/
def mapSubs (w : Nat) (on : Nat → Bool) (old : Word) (new : Nat → Nat) : Word :=
  BitVec.ofNat 64 (joinW w ((List.range (64 / w)).map (fun i => if on i then new i else sub w old i)))

/-- The guard value g (R141). -/
def guardVal (t : Thread) (g : Guard) : Byte := if g.neg then ~~~(t.readP g.p.toNat) else t.readP g.p.toNat

/-- enabled(i) for k sub-elements (R141). -/
def enabledAt (t : Thread) (g : Guard) (k i : Nat) : Bool := (guardVal t g).getLsbD (i * (8 / k))

/-- enabled(0). -/
def enabled (t : Thread) (g : Guard) : Bool := (guardVal t g).getLsbD 0

/-- The guard of an instruction; events have none. -/
def guardOfInstr : Instr → Guard
  | .add f => f.g
  | .sub f => f.g
  | .mul f => f.g
  | .mad f => f.g
  | .mulhi f => f.g
  | .dot4 f => f.g
  | .sad f => f.g
  | .min_ f => f.g
  | .max_ f => f.g
  | .abs_ f => f.g
  | .neg f => f.g
  | .lea f => f.g
  | .sel f => f.g
  | .mov f => f.g
  | .movi f => f.g
  | .moviHi f => f.g
  | .and_ f => f.g
  | .or_ f => f.g
  | .xor_ f => f.g
  | .andn f => f.g
  | .not_ f => f.g
  | .shl f => f.g
  | .shr f => f.g
  | .sar f => f.g
  | .rot f => f.g
  | .clz f => f.g
  | .popc f => f.g
  | .bitrev f => f.g
  | .bfe f => f.g
  | .bfi f => f.g
  | .cmp f => f.g
  | .fcmp f => f.g
  | .fclass f => f.g
  | .pand f => f.g
  | .por f => f.g
  | .pxor f => f.g
  | .pnot f => f.g
  | .pmovFromVector f => f.g
  | .pmovToVector f => f.g
  | .voteAny f => f.g
  | .voteAll f => f.g
  | .voteBallot f => f.g
  | .shfl f => f.g
  | .bperm f => f.g
  | .fadd f => f.g
  | .fsub f => f.g
  | .fmul f => f.g
  | .fma f => f.g
  | .fmin f => f.g
  | .fmax f => f.g
  | .fabs f => f.g
  | .fneg f => f.g
  | .frnd f => f.g
  | .frcp f => f.g
  | .frsq f => f.g
  | .fsqrt f => f.g
  | .fexp2 f => f.g
  | .flog2 f => f.g
  | .fsin f => f.g
  | .fcos f => f.g
  | .ftanh f => f.g
  | .cvt f => f.g
  | .qnt f => f.g
  | .dqnt f => f.g
  | .pack f => f.g
  | .unpack f => f.g
  | .bra f => f.g
  | .brx f => f.g
  | .call f => f.g
  | .ret f => f.g
  | .exit f => f.g
  | .yield f => f.g
  | .rep f => f.g
  | .waitt f => f.g
  | .trap f => f.g
  | .brk f => f.g
  | .eret f => f.g
  | .movs f => f.g
  | .movt f => f.g
  | .ld f => f.g
  | .st f => f.g
  | .ldu f => f.g
  | .atom f => f.g
  | .atomFadd f => f.g
  | .red f => f.g
  | .fence f => f.g
  | .fenceX f => f.g
  | .pref f => f.g
  | .cpy f => f.g
  | .barArr f => f.g
  | .barWait f => f.g
  | .barRed f => f.g
  | .barScan f => f.g
  | .spawn f => f.g
  | .migr f => f.g
  | .musts f => f.g
  | .tld f => f.g
  | .tst f => f.g
  | .acl f => f.g
  | .mma f => f.g
  | .adrn f => f.g
  | .abyp f => f.g
  | .ast f => f.g
  | .hld f => f.g
  | .hst f => f.g
  | .hclr f => f.g
  | .hbind f => f.g
  | .hperm f => f.g
  | .hbun f => f.g
  | .hmaj f => f.g
  | .hdist f => f.g
  | .hpop f => f.g
  | .hams f => f.g
  | .hnear f => f.g
  | .hnearK f => f.g
  | .hscan f => f.g
  | _ => { neg := false, p := 7 }

/-! Lanes. -/

/-- The aligned-set size of an ALIGN value: 0 for a free clause (R37). -/
def setSize (align : Nat) : Nat :=
  match align with
  | 0 => 0 | 1 => 8 | 2 => 16 | _ => 32

/-- The thread of lane l in the aligned set of a thread: none where it is outside the set, does not exist or has exited; a
detached thread's set is itself alone, and its former set sees it as exited (R37, R40, R53). -/
def lanePeer (s : State) (t : Thread) (a l : Nat) : Option Thread :=
  if a ≤ l then none
  else if t.detached then (if l = t.key.tid % a then some t else none)
  else match s.thr? { t.key with tid := a * (t.key.tid / a) + l } with
    | some p => if p.st == .exited || p.detached then none else some p
    | none => none

/-- The source lane of a swizzle code (R144). -/
def swzLane (code a l : Nat) : Nat :=
  match code with
  | 0 => l
  | 1 => Nat.xor l 1 | 2 => Nat.xor l 2 | 3 => Nat.xor l 4 | 4 => Nat.xor l 8 | 5 => Nat.xor l 16
  | 6 => l / 8 * 8 + (l + 1) % 8
  | 7 => a - 1 - l
  | n => n - 0x20

/-- A register of a thread after a swizzle (R144); a is the set size. -/
def swizzled (s : State) (t : Thread) (a : Nat) (code : Nat) (r : Nat) : Word :=
  if code = 0 then s.readV t.key r
  else match lanePeer s t a (swzLane code a (t.key.tid % a)) with
    | some p => s.readV p.key r
    | none => 0

/-- The immediate of format R, extended and replicated (R142). Of the nine bits an 8-bit element takes the low eight: how nine are
extended to eight is not said (the model's choice; log entry 65). -/
def immWord (f : FR) : Word :=
  let w := tyW f.ty
  let e := if isNint f.ty then f.ext.toNat else wrapW w (sgn 9 f.ext.toNat)
  BitVec.ofNat 64 (joinW w (List.replicate (tyK f.ty) e))

/-- Operand b of format R: the immediate or the swizzled register (R142, R144). -/
def operandB (s : State) (a : Nat) (f : FR) (immForm : Bool) (t : Thread) : Word :=
  if immForm && isImm f then immWord f else swizzled s t a f.swz.toNat f.b.toNat

/-! Format slots (R97, R98). -/

def Slot.efmt (x : Slot) : Nat := bits x.w0 3 0
def Slot.sfmt (x : Slot) : Nat := bits x.w0 7 4
def Slot.blk (x : Slot) : Nat := bits x.w0 11 8
def Slot.splace (x : Slot) : Nat := bits x.w0 17 16
def Slot.satm (x : Slot) : Bool := bits x.w0 25 24 == 1
def Slot.rmode (x : Slot) : Rnd := (rndOfCode (bits x.w0 23 21)).getD .rne
def Slot.xform (x : Slot) : Nat := bits x.w0 27 26
def Slot.seed (x : Slot) : Nat := bits x.w0 47 32
def Slot.tscale (x : Slot) : Nat := bits x.w0 63 48
def Slot.xrow (x : Slot) : Nat := bits x.w1 45 32
def Slot.xk (x : Slot) : Nat := bits x.w1 31 16
def Slot.xcnt (x : Slot) : Nat := bits x.w1 6 0

/-- The tensor scale: 0 means 1.0 (R97). -/
def Slot.ts (x : Slot) : XVal := if x.tscale = 0 then .fin false 1 1 else bf16.value x.tscale

/-- The combinations of R98. -/
inductive Kind where
  | fp64 | fp32 | fp16 | bf16 | fp8 | mxfp8 | mxfp4 | bs4 | int8 | tern
  deriving DecidableEq, Repr

/-- The kind of a slot; every other combination is illegal (R98). -/
def Slot.kind? (x : Slot) : Option Kind :=
  match x.efmt, x.sfmt, x.blk with
  | 0, 0, 0 => some .fp64 | 1, 0, 0 => some .fp32 | 2, 0, 0 => some .fp16 | 3, 0, 0 => some .bf16
  | 4, 0, 0 => some .fp8 | 5, 0, 0 => some .fp8 | 4, 1, 3 => some .mxfp8 | 5, 1, 3 => some .mxfp8
  | 6, 1, 3 => some .mxfp4 | 6, 2, 1 => some .bs4 | 7, 0, 0 => some .int8 | 8, 0, 0 => some .tern
  | _, _, _ => none

/-- The kind of an accepted slot (R99 refuses every other). -/
def Slot.kind (x : Slot) : Kind := x.kind?.getD .fp64

/-- The element width in bits. -/
def Kind.width : Kind → Nat
  | .fp64 => 64 | .fp32 => 32 | .fp16 | .bf16 => 16 | .fp8 | .mxfp8 | .int8 => 8 | .mxfp4 | .bs4 => 4 | .tern => 2

/-- The floating-point format of a slot's elements. -/
def Slot.fmt (x : Slot) : Fmt :=
  match x.efmt with
  | 0 => fp64 | 1 => fp32 | 2 => fp16 | 3 => bf16 | 4 => e4m3 | 5 => e5m2 | _ => e2m1

/-- The block size along K of a scaled kind, 0 for the unscaled (R98). -/
def Kind.block : Kind → Nat
  | .mxfp8 | .mxfp4 => 32 | .bs4 => 8 | _ => 0

/-- Elements per thread of qnt and dqnt (R177). -/
def Kind.perThread : Kind → Nat
  | .fp16 | .bf16 | .mxfp8 | .mxfp4 => 4 | .fp8 | .int8 | .bs4 => 8 | _ => 0

/-- Whether qnt forms quarter blocks (R177). -/
def Kind.quarter : Kind → Bool
  | .mxfp8 | .mxfp4 => true | _ => false

/-! The vector registers an instruction names (R72), as runs. -/

def r1 (r : Reg) : Nat × Nat := (r.toNat, 1)
def rn (r : Reg) (n : Nat) : Nat × Nat := (r.toNat, n)
/-- The base register of format M, unless it is uniform. -/
def baseRun (f : FM) : List (Nat × Nat) := if f.ub then [] else [r1 f.a]
/-- Operand b of format R unless it is an immediate. -/
def bRun (f : FR) : List (Nat × Nat) := if isImm f then [] else [r1 f.b]

/-- Registers of the source or destination run of qnt and dqnt; none for a kind R177 refuses. -/
def qntRun (sl : Slot) (t : Ty) : Nat := sl.kind.perThread * tyW t / 64

/-- Registers of A scales, or of the channel base, that an mma without bypass reads from c (R225, R233). -/
def scaleRegs (sl : Nat → Slot) (f : FX) : Nat :=
  match f.sub.toNat with
  | 0 | 3 => 1
  | 1 => 4
  | _ => if (sl f.sla.toNat).xform = 2 then 1 else 0

/-- The runs of vector registers an instruction names; `sl` gives the launch's format slots. -/
def vecRuns (sl : Nat → Slot) : Instr → List (Nat × Nat)
  | .add f | .sub f | .mul f | .mulhi f | .min_ f | .max_ f | .and_ f | .or_ f | .xor_ f | .andn f | .shl f | .shr f | .sar f
  | .rot f => [r1 f.d, r1 f.a] ++ bRun f
  | .mad f => [r1 f.d, r1 f.a, r1 f.c] ++ bRun f
  | .dot4 f | .sad f | .bfi f | .fma f => [r1 f.d, r1 f.a, r1 f.b, r1 f.c]
  | .lea f | .sel f | .bfe f | .shfl f | .bperm f | .fadd f | .fsub f | .fmul f | .fmin f | .fmax f => [r1 f.d, r1 f.a, r1 f.b]
  | .abs_ f | .neg f | .not_ f | .clz f | .popc f | .bitrev f | .fabs f | .fneg f | .frnd f | .frcp f | .frsq f | .fsqrt f
  | .fexp2 f | .flog2 f | .fsin f | .fcos f | .ftanh f | .cvt f => [r1 f.d, r1 f.a]
  | .mov f => [r1 f.d] ++ bRun f
  | .movi f | .moviHi f => [r1 f.d]
  | .cmp f => [r1 f.a] ++ bRun f
  | .fcmp f => [r1 f.a, r1 f.b]
  | .fclass f => [r1 f.a]
  | .pmovFromVector f => [r1 f.a]
  | .pmovToVector f | .voteBallot f => [r1 f.d]
  | .pand _ | .por _ | .pxor _ | .pnot _ | .voteAny _ | .voteAll _ => []
  | .qnt f => let x := sl f.ext.toNat
      [r1 f.d, rn f.a (max 1 (qntRun x f.ty))] ++ (if x.xform = 0 || qntRun x f.ty = 0 then [] else [r1 f.c])
  | .dqnt f => [r1 f.a, rn f.d (max 1 (qntRun (sl f.ext.toNat) f.ty))]
  | .pack f => [r1 f.d, rn f.a (if f.ext = 0 then 2 else 4)]
  | .unpack f => [r1 f.a, rn f.d (if f.ext = 0 then 2 else 4)]
  | .bra _ | .exit _ | .yield _ | .rep _ | .trap _ | .brk _ | .eret _ => []
  | .call f => [r1 f.d]
  | .brx f => [r1 f.a, r1 f.b]
  | .ret f => [r1 f.a]
  | .waitt f | .movt f => [r1 f.a]
  | .movs f => [r1 f.d]
  | .ld f => rn f.d (2 ^ (f.cnt.toNat % 4)) :: baseRun f
  | .st f => rn f.b (2 ^ (f.cnt.toNat % 4)) :: baseRun f
  | .ldu _ | .fence _ | .fenceX _ => []
  | .atom f => [r1 f.d, rn f.b (if f.sub = 7 then 2 else 1)] ++ baseRun f
  | .atomFadd f => [r1 f.d, r1 f.b] ++ baseRun f
  | .red f => r1 f.b :: baseRun f
  | .pref f | .migr f => baseRun f
  | .cpy f => [r1 f.d, r1 f.a, rn f.b (if f.sub = 0 then 1 else 2)]
  | .barArr _ | .barWait _ => []
  | .barRed f | .barScan f => [r1 f.d, r1 f.a]
  | .spawn f => [r1 f.a, rn f.b 4]
  | .musts f => r1 f.d :: baseRun f
  | .tld f | .tst f =>
      let x := sl f.slb.toNat
      [rn f.a (if x.kind.block != 0 && x.splace = 0 then 2 else 1), r1 f.c]
  | .acl _ | .abyp _ => []
  | .mma f => if f.byp then [] else rn f.a (aRun f) :: (if scaleRegs sl f = 0 then [] else [rn f.c (scaleRegs sl f)])
  | .adrn f => [rn f.a (match tyOfCode f.b.toNat with
      | some t => tyW t / 2
      | none => 0)]
  | .ast f => [r1 f.a, r1 f.c]
  | .hld f | .hst f => [r1 f.a]
  | .hclr _ | .hbind _ | .hperm _ | .hbun _ | .hmaj _ => []
  | .hdist f | .hpop f => [r1 f.d]
  | .hams f => [r1 f.b]
  | .hnear f => [r1 f.d, r1 f.b]
  | .hnearK f => [rn f.d (f.kn.toNat + 1), r1 f.b]
  | .hscan f => [rn f.d (f.kn.toNat + 1), r1 f.a, r1 f.c]
  | _ => []

/-! REP (R149, R189). -/

/-- The greatest register number of each of the fields d, a, b and c that names a register; none where the field does not. -/
structure Limits where
  d : Option Nat
  a : Option Nat
  b : Option Nat
  c : Option Nat
  deriving DecidableEq, Repr

def lim (d a b c : Option Nat) : Limits := { d := d, a := a, b := b, c := c }

/-- Limits of the register fields of an instruction (R149): v63, p7, s31, t31, a15, h7, and for hclr h7 or m3. -/
def limits (sl : Nat → Slot) : Instr → Limits
  | .add f | .sub f | .mul f | .mulhi f | .min_ f | .max_ f | .and_ f | .or_ f | .xor_ f | .andn f | .shl f | .shr f | .sar f
  | .rot f => lim (some 63) (some 63) (if isImm f then none else some 63) none
  | .mad f => lim (some 63) (some 63) (if isImm f then none else some 63) (some 63)
  | .dot4 _ | .sad _ | .bfi _ | .fma _ => lim (some 63) (some 63) (some 63) (some 63)
  | .lea _ | .bfe _ | .shfl _ | .bperm _ | .fadd _ | .fsub _ | .fmul _ | .fmin _ | .fmax _ => lim (some 63) (some 63) (some 63) none
  | .sel _ => lim (some 63) (some 63) (some 63) (some 7)
  | .abs_ _ | .neg _ | .not_ _ | .clz _ | .popc _ | .bitrev _ | .fabs _ | .fneg _ | .frnd _ | .frcp _ | .frsq _ | .fsqrt _
  | .fexp2 _ | .flog2 _ | .fsin _ | .fcos _ | .ftanh _ | .cvt _ | .dqnt _ | .pack _ | .unpack _ => lim (some 63) (some 63) none none
  | .mov f => lim (some 63) none (if isImm f then none else some 63) none
  | .movi _ | .moviHi _ | .movs _ => lim (some 63) none none none
  | .cmp f => lim (some 7) (some 63) (if isImm f then none else some 63) none
  | .fcmp _ => lim (some 7) (some 63) (some 63) none
  | .fclass _ | .pmovFromVector _ => lim (some 7) (some 63) none none
  | .pand _ | .por _ | .pxor _ => lim (some 7) (some 7) (some 7) none
  | .pnot _ | .voteAny _ | .voteAll _ => lim (some 7) (some 7) none none
  | .pmovToVector _ | .voteBallot _ => lim (some 63) (some 7) none none
  | .qnt f => lim (some 63) (some 63) none (if (sl f.ext.toNat).xform = 0 then none else some 63)
  | .waitt _ | .movt _ => lim none (some 63) none none
  | .ld f => lim (some 63) (if f.ub then some 31 else some 63) none none
  | .st f | .red f => lim none (if f.ub then some 31 else some 63) (some 63) none
  | .ldu _ => lim (some 31) (some 31) none none
  | .atom f | .atomFadd f => lim (some 63) (if f.ub then some 31 else some 63) (some 63) none
  | .pref f => lim none (if f.ub then some 31 else some 63) none none
  | .musts f => lim (some 63) (if f.ub then some 31 else some 63) none none
  | .cpy _ => lim (some 63) (some 63) (some 63) none
  | .barRed _ | .barScan _ => lim (some 63) (some 63) none none
  | .spawn _ => lim none (some 63) (some 63) none
  | .tld _ | .tst _ => lim none (some 63) (some 31) (some 63)
  | .acl _ => lim (some 15) none none none
  | .mma f => if f.byp then lim (some 15) none (some 31) (some 31)
      else lim (some 15) (some 63) (some 31) (if scaleRegs sl f = 0 then none else some 63)
  | .adrn _ => lim (some 15) (some 63) none none
  | .abyp _ => lim (some 15) (some 31) none none
  | .ast _ => lim (some 15) (some 63) none (some 63)
  | .hld _ => lim (some 7) (some 63) none none
  | .hst _ => lim none (some 63) (some 7) none
  | .hclr f => lim (some (if f.d.toNat < 8 then 7 else 11)) none none none
  | .hbind _ => lim (some 7) (some 7) (some 7) none
  | .hperm _ => lim (some 7) (some 7) none none
  | .hbun _ => lim none (some 7) none none
  | .hmaj _ => lim (some 7) none none none
  | .hdist _ => lim (some 63) (some 7) (some 7) none
  | .hpop _ => lim (some 63) (some 7) none none
  | .hams _ => lim none (some 7) (some 63) none
  | .hnear _ | .hnearK _ => lim (some 63) (some 7) (some 63) none
  | .hscan _ => lim (some 63) (some 63) (some 7) (some 63)
  | _ => lim none none none none

/-- An instruction with its register fields increased (R78, R149). -/
def stepInstr (sd sa sb sc : Nat) : Instr → Instr
  | .add f => .add { f with d := BitVec.ofNat 6 (f.d.toNat + sd), a := BitVec.ofNat 6 (f.a.toNat + sa), b := BitVec.ofNat 6 (f.b.toNat + sb), c := BitVec.ofNat 6 (f.c.toNat + sc) }
  | .sub f => .sub { f with d := BitVec.ofNat 6 (f.d.toNat + sd), a := BitVec.ofNat 6 (f.a.toNat + sa), b := BitVec.ofNat 6 (f.b.toNat + sb), c := BitVec.ofNat 6 (f.c.toNat + sc) }
  | .mul f => .mul { f with d := BitVec.ofNat 6 (f.d.toNat + sd), a := BitVec.ofNat 6 (f.a.toNat + sa), b := BitVec.ofNat 6 (f.b.toNat + sb), c := BitVec.ofNat 6 (f.c.toNat + sc) }
  | .mad f => .mad { f with d := BitVec.ofNat 6 (f.d.toNat + sd), a := BitVec.ofNat 6 (f.a.toNat + sa), b := BitVec.ofNat 6 (f.b.toNat + sb), c := BitVec.ofNat 6 (f.c.toNat + sc) }
  | .mulhi f => .mulhi { f with d := BitVec.ofNat 6 (f.d.toNat + sd), a := BitVec.ofNat 6 (f.a.toNat + sa), b := BitVec.ofNat 6 (f.b.toNat + sb), c := BitVec.ofNat 6 (f.c.toNat + sc) }
  | .dot4 f => .dot4 { f with d := BitVec.ofNat 6 (f.d.toNat + sd), a := BitVec.ofNat 6 (f.a.toNat + sa), b := BitVec.ofNat 6 (f.b.toNat + sb), c := BitVec.ofNat 6 (f.c.toNat + sc) }
  | .sad f => .sad { f with d := BitVec.ofNat 6 (f.d.toNat + sd), a := BitVec.ofNat 6 (f.a.toNat + sa), b := BitVec.ofNat 6 (f.b.toNat + sb), c := BitVec.ofNat 6 (f.c.toNat + sc) }
  | .min_ f => .min_ { f with d := BitVec.ofNat 6 (f.d.toNat + sd), a := BitVec.ofNat 6 (f.a.toNat + sa), b := BitVec.ofNat 6 (f.b.toNat + sb), c := BitVec.ofNat 6 (f.c.toNat + sc) }
  | .max_ f => .max_ { f with d := BitVec.ofNat 6 (f.d.toNat + sd), a := BitVec.ofNat 6 (f.a.toNat + sa), b := BitVec.ofNat 6 (f.b.toNat + sb), c := BitVec.ofNat 6 (f.c.toNat + sc) }
  | .abs_ f => .abs_ { f with d := BitVec.ofNat 6 (f.d.toNat + sd), a := BitVec.ofNat 6 (f.a.toNat + sa), b := BitVec.ofNat 6 (f.b.toNat + sb), c := BitVec.ofNat 6 (f.c.toNat + sc) }
  | .neg f => .neg { f with d := BitVec.ofNat 6 (f.d.toNat + sd), a := BitVec.ofNat 6 (f.a.toNat + sa), b := BitVec.ofNat 6 (f.b.toNat + sb), c := BitVec.ofNat 6 (f.c.toNat + sc) }
  | .lea f => .lea { f with d := BitVec.ofNat 6 (f.d.toNat + sd), a := BitVec.ofNat 6 (f.a.toNat + sa), b := BitVec.ofNat 6 (f.b.toNat + sb), c := BitVec.ofNat 6 (f.c.toNat + sc) }
  | .sel f => .sel { f with d := BitVec.ofNat 6 (f.d.toNat + sd), a := BitVec.ofNat 6 (f.a.toNat + sa), b := BitVec.ofNat 6 (f.b.toNat + sb), c := BitVec.ofNat 6 (f.c.toNat + sc) }
  | .mov f => .mov { f with d := BitVec.ofNat 6 (f.d.toNat + sd), a := BitVec.ofNat 6 (f.a.toNat + sa), b := BitVec.ofNat 6 (f.b.toNat + sb), c := BitVec.ofNat 6 (f.c.toNat + sc) }
  | .movi f => .movi { f with d := BitVec.ofNat 6 (f.d.toNat + sd), a := BitVec.ofNat 6 (f.a.toNat + sa) }
  | .moviHi f => .moviHi { f with d := BitVec.ofNat 6 (f.d.toNat + sd), a := BitVec.ofNat 6 (f.a.toNat + sa) }
  | .and_ f => .and_ { f with d := BitVec.ofNat 6 (f.d.toNat + sd), a := BitVec.ofNat 6 (f.a.toNat + sa), b := BitVec.ofNat 6 (f.b.toNat + sb), c := BitVec.ofNat 6 (f.c.toNat + sc) }
  | .or_ f => .or_ { f with d := BitVec.ofNat 6 (f.d.toNat + sd), a := BitVec.ofNat 6 (f.a.toNat + sa), b := BitVec.ofNat 6 (f.b.toNat + sb), c := BitVec.ofNat 6 (f.c.toNat + sc) }
  | .xor_ f => .xor_ { f with d := BitVec.ofNat 6 (f.d.toNat + sd), a := BitVec.ofNat 6 (f.a.toNat + sa), b := BitVec.ofNat 6 (f.b.toNat + sb), c := BitVec.ofNat 6 (f.c.toNat + sc) }
  | .andn f => .andn { f with d := BitVec.ofNat 6 (f.d.toNat + sd), a := BitVec.ofNat 6 (f.a.toNat + sa), b := BitVec.ofNat 6 (f.b.toNat + sb), c := BitVec.ofNat 6 (f.c.toNat + sc) }
  | .not_ f => .not_ { f with d := BitVec.ofNat 6 (f.d.toNat + sd), a := BitVec.ofNat 6 (f.a.toNat + sa), b := BitVec.ofNat 6 (f.b.toNat + sb), c := BitVec.ofNat 6 (f.c.toNat + sc) }
  | .shl f => .shl { f with d := BitVec.ofNat 6 (f.d.toNat + sd), a := BitVec.ofNat 6 (f.a.toNat + sa), b := BitVec.ofNat 6 (f.b.toNat + sb), c := BitVec.ofNat 6 (f.c.toNat + sc) }
  | .shr f => .shr { f with d := BitVec.ofNat 6 (f.d.toNat + sd), a := BitVec.ofNat 6 (f.a.toNat + sa), b := BitVec.ofNat 6 (f.b.toNat + sb), c := BitVec.ofNat 6 (f.c.toNat + sc) }
  | .sar f => .sar { f with d := BitVec.ofNat 6 (f.d.toNat + sd), a := BitVec.ofNat 6 (f.a.toNat + sa), b := BitVec.ofNat 6 (f.b.toNat + sb), c := BitVec.ofNat 6 (f.c.toNat + sc) }
  | .rot f => .rot { f with d := BitVec.ofNat 6 (f.d.toNat + sd), a := BitVec.ofNat 6 (f.a.toNat + sa), b := BitVec.ofNat 6 (f.b.toNat + sb), c := BitVec.ofNat 6 (f.c.toNat + sc) }
  | .clz f => .clz { f with d := BitVec.ofNat 6 (f.d.toNat + sd), a := BitVec.ofNat 6 (f.a.toNat + sa), b := BitVec.ofNat 6 (f.b.toNat + sb), c := BitVec.ofNat 6 (f.c.toNat + sc) }
  | .popc f => .popc { f with d := BitVec.ofNat 6 (f.d.toNat + sd), a := BitVec.ofNat 6 (f.a.toNat + sa), b := BitVec.ofNat 6 (f.b.toNat + sb), c := BitVec.ofNat 6 (f.c.toNat + sc) }
  | .bitrev f => .bitrev { f with d := BitVec.ofNat 6 (f.d.toNat + sd), a := BitVec.ofNat 6 (f.a.toNat + sa), b := BitVec.ofNat 6 (f.b.toNat + sb), c := BitVec.ofNat 6 (f.c.toNat + sc) }
  | .bfe f => .bfe { f with d := BitVec.ofNat 6 (f.d.toNat + sd), a := BitVec.ofNat 6 (f.a.toNat + sa), b := BitVec.ofNat 6 (f.b.toNat + sb), c := BitVec.ofNat 6 (f.c.toNat + sc) }
  | .bfi f => .bfi { f with d := BitVec.ofNat 6 (f.d.toNat + sd), a := BitVec.ofNat 6 (f.a.toNat + sa), b := BitVec.ofNat 6 (f.b.toNat + sb), c := BitVec.ofNat 6 (f.c.toNat + sc) }
  | .cmp f => .cmp { f with d := BitVec.ofNat 6 (f.d.toNat + sd), a := BitVec.ofNat 6 (f.a.toNat + sa), b := BitVec.ofNat 6 (f.b.toNat + sb), c := BitVec.ofNat 6 (f.c.toNat + sc) }
  | .fcmp f => .fcmp { f with d := BitVec.ofNat 6 (f.d.toNat + sd), a := BitVec.ofNat 6 (f.a.toNat + sa), b := BitVec.ofNat 6 (f.b.toNat + sb), c := BitVec.ofNat 6 (f.c.toNat + sc) }
  | .fclass f => .fclass { f with d := BitVec.ofNat 6 (f.d.toNat + sd), a := BitVec.ofNat 6 (f.a.toNat + sa), b := BitVec.ofNat 6 (f.b.toNat + sb), c := BitVec.ofNat 6 (f.c.toNat + sc) }
  | .pand f => .pand { f with d := BitVec.ofNat 6 (f.d.toNat + sd), a := BitVec.ofNat 6 (f.a.toNat + sa), b := BitVec.ofNat 6 (f.b.toNat + sb), c := BitVec.ofNat 6 (f.c.toNat + sc) }
  | .por f => .por { f with d := BitVec.ofNat 6 (f.d.toNat + sd), a := BitVec.ofNat 6 (f.a.toNat + sa), b := BitVec.ofNat 6 (f.b.toNat + sb), c := BitVec.ofNat 6 (f.c.toNat + sc) }
  | .pxor f => .pxor { f with d := BitVec.ofNat 6 (f.d.toNat + sd), a := BitVec.ofNat 6 (f.a.toNat + sa), b := BitVec.ofNat 6 (f.b.toNat + sb), c := BitVec.ofNat 6 (f.c.toNat + sc) }
  | .pnot f => .pnot { f with d := BitVec.ofNat 6 (f.d.toNat + sd), a := BitVec.ofNat 6 (f.a.toNat + sa), b := BitVec.ofNat 6 (f.b.toNat + sb), c := BitVec.ofNat 6 (f.c.toNat + sc) }
  | .pmovFromVector f => .pmovFromVector { f with d := BitVec.ofNat 6 (f.d.toNat + sd), a := BitVec.ofNat 6 (f.a.toNat + sa), b := BitVec.ofNat 6 (f.b.toNat + sb), c := BitVec.ofNat 6 (f.c.toNat + sc) }
  | .pmovToVector f => .pmovToVector { f with d := BitVec.ofNat 6 (f.d.toNat + sd), a := BitVec.ofNat 6 (f.a.toNat + sa), b := BitVec.ofNat 6 (f.b.toNat + sb), c := BitVec.ofNat 6 (f.c.toNat + sc) }
  | .voteAny f => .voteAny { f with d := BitVec.ofNat 6 (f.d.toNat + sd), a := BitVec.ofNat 6 (f.a.toNat + sa), b := BitVec.ofNat 6 (f.b.toNat + sb), c := BitVec.ofNat 6 (f.c.toNat + sc) }
  | .voteAll f => .voteAll { f with d := BitVec.ofNat 6 (f.d.toNat + sd), a := BitVec.ofNat 6 (f.a.toNat + sa), b := BitVec.ofNat 6 (f.b.toNat + sb), c := BitVec.ofNat 6 (f.c.toNat + sc) }
  | .voteBallot f => .voteBallot { f with d := BitVec.ofNat 6 (f.d.toNat + sd), a := BitVec.ofNat 6 (f.a.toNat + sa), b := BitVec.ofNat 6 (f.b.toNat + sb), c := BitVec.ofNat 6 (f.c.toNat + sc) }
  | .shfl f => .shfl { f with d := BitVec.ofNat 6 (f.d.toNat + sd), a := BitVec.ofNat 6 (f.a.toNat + sa), b := BitVec.ofNat 6 (f.b.toNat + sb), c := BitVec.ofNat 6 (f.c.toNat + sc) }
  | .bperm f => .bperm { f with d := BitVec.ofNat 6 (f.d.toNat + sd), a := BitVec.ofNat 6 (f.a.toNat + sa), b := BitVec.ofNat 6 (f.b.toNat + sb), c := BitVec.ofNat 6 (f.c.toNat + sc) }
  | .fadd f => .fadd { f with d := BitVec.ofNat 6 (f.d.toNat + sd), a := BitVec.ofNat 6 (f.a.toNat + sa), b := BitVec.ofNat 6 (f.b.toNat + sb), c := BitVec.ofNat 6 (f.c.toNat + sc) }
  | .fsub f => .fsub { f with d := BitVec.ofNat 6 (f.d.toNat + sd), a := BitVec.ofNat 6 (f.a.toNat + sa), b := BitVec.ofNat 6 (f.b.toNat + sb), c := BitVec.ofNat 6 (f.c.toNat + sc) }
  | .fmul f => .fmul { f with d := BitVec.ofNat 6 (f.d.toNat + sd), a := BitVec.ofNat 6 (f.a.toNat + sa), b := BitVec.ofNat 6 (f.b.toNat + sb), c := BitVec.ofNat 6 (f.c.toNat + sc) }
  | .fma f => .fma { f with d := BitVec.ofNat 6 (f.d.toNat + sd), a := BitVec.ofNat 6 (f.a.toNat + sa), b := BitVec.ofNat 6 (f.b.toNat + sb), c := BitVec.ofNat 6 (f.c.toNat + sc) }
  | .fmin f => .fmin { f with d := BitVec.ofNat 6 (f.d.toNat + sd), a := BitVec.ofNat 6 (f.a.toNat + sa), b := BitVec.ofNat 6 (f.b.toNat + sb), c := BitVec.ofNat 6 (f.c.toNat + sc) }
  | .fmax f => .fmax { f with d := BitVec.ofNat 6 (f.d.toNat + sd), a := BitVec.ofNat 6 (f.a.toNat + sa), b := BitVec.ofNat 6 (f.b.toNat + sb), c := BitVec.ofNat 6 (f.c.toNat + sc) }
  | .fabs f => .fabs { f with d := BitVec.ofNat 6 (f.d.toNat + sd), a := BitVec.ofNat 6 (f.a.toNat + sa), b := BitVec.ofNat 6 (f.b.toNat + sb), c := BitVec.ofNat 6 (f.c.toNat + sc) }
  | .fneg f => .fneg { f with d := BitVec.ofNat 6 (f.d.toNat + sd), a := BitVec.ofNat 6 (f.a.toNat + sa), b := BitVec.ofNat 6 (f.b.toNat + sb), c := BitVec.ofNat 6 (f.c.toNat + sc) }
  | .frnd f => .frnd { f with d := BitVec.ofNat 6 (f.d.toNat + sd), a := BitVec.ofNat 6 (f.a.toNat + sa), b := BitVec.ofNat 6 (f.b.toNat + sb), c := BitVec.ofNat 6 (f.c.toNat + sc) }
  | .frcp f => .frcp { f with d := BitVec.ofNat 6 (f.d.toNat + sd), a := BitVec.ofNat 6 (f.a.toNat + sa), b := BitVec.ofNat 6 (f.b.toNat + sb), c := BitVec.ofNat 6 (f.c.toNat + sc) }
  | .frsq f => .frsq { f with d := BitVec.ofNat 6 (f.d.toNat + sd), a := BitVec.ofNat 6 (f.a.toNat + sa), b := BitVec.ofNat 6 (f.b.toNat + sb), c := BitVec.ofNat 6 (f.c.toNat + sc) }
  | .fsqrt f => .fsqrt { f with d := BitVec.ofNat 6 (f.d.toNat + sd), a := BitVec.ofNat 6 (f.a.toNat + sa), b := BitVec.ofNat 6 (f.b.toNat + sb), c := BitVec.ofNat 6 (f.c.toNat + sc) }
  | .fexp2 f => .fexp2 { f with d := BitVec.ofNat 6 (f.d.toNat + sd), a := BitVec.ofNat 6 (f.a.toNat + sa), b := BitVec.ofNat 6 (f.b.toNat + sb), c := BitVec.ofNat 6 (f.c.toNat + sc) }
  | .flog2 f => .flog2 { f with d := BitVec.ofNat 6 (f.d.toNat + sd), a := BitVec.ofNat 6 (f.a.toNat + sa), b := BitVec.ofNat 6 (f.b.toNat + sb), c := BitVec.ofNat 6 (f.c.toNat + sc) }
  | .fsin f => .fsin { f with d := BitVec.ofNat 6 (f.d.toNat + sd), a := BitVec.ofNat 6 (f.a.toNat + sa), b := BitVec.ofNat 6 (f.b.toNat + sb), c := BitVec.ofNat 6 (f.c.toNat + sc) }
  | .fcos f => .fcos { f with d := BitVec.ofNat 6 (f.d.toNat + sd), a := BitVec.ofNat 6 (f.a.toNat + sa), b := BitVec.ofNat 6 (f.b.toNat + sb), c := BitVec.ofNat 6 (f.c.toNat + sc) }
  | .ftanh f => .ftanh { f with d := BitVec.ofNat 6 (f.d.toNat + sd), a := BitVec.ofNat 6 (f.a.toNat + sa), b := BitVec.ofNat 6 (f.b.toNat + sb), c := BitVec.ofNat 6 (f.c.toNat + sc) }
  | .cvt f => .cvt { f with d := BitVec.ofNat 6 (f.d.toNat + sd), a := BitVec.ofNat 6 (f.a.toNat + sa), b := BitVec.ofNat 6 (f.b.toNat + sb), c := BitVec.ofNat 6 (f.c.toNat + sc) }
  | .qnt f => .qnt { f with d := BitVec.ofNat 6 (f.d.toNat + sd), a := BitVec.ofNat 6 (f.a.toNat + sa), b := BitVec.ofNat 6 (f.b.toNat + sb), c := BitVec.ofNat 6 (f.c.toNat + sc) }
  | .dqnt f => .dqnt { f with d := BitVec.ofNat 6 (f.d.toNat + sd), a := BitVec.ofNat 6 (f.a.toNat + sa), b := BitVec.ofNat 6 (f.b.toNat + sb), c := BitVec.ofNat 6 (f.c.toNat + sc) }
  | .pack f => .pack { f with d := BitVec.ofNat 6 (f.d.toNat + sd), a := BitVec.ofNat 6 (f.a.toNat + sa), b := BitVec.ofNat 6 (f.b.toNat + sb), c := BitVec.ofNat 6 (f.c.toNat + sc) }
  | .unpack f => .unpack { f with d := BitVec.ofNat 6 (f.d.toNat + sd), a := BitVec.ofNat 6 (f.a.toNat + sa), b := BitVec.ofNat 6 (f.b.toNat + sb), c := BitVec.ofNat 6 (f.c.toNat + sc) }
  | .bra f => .bra { f with d := BitVec.ofNat 6 (f.d.toNat + sd), a := BitVec.ofNat 6 (f.a.toNat + sa) }
  | .brx f => .brx { f with d := BitVec.ofNat 6 (f.d.toNat + sd), a := BitVec.ofNat 6 (f.a.toNat + sa), b := BitVec.ofNat 6 (f.b.toNat + sb), c := BitVec.ofNat 6 (f.c.toNat + sc) }
  | .call f => .call { f with d := BitVec.ofNat 6 (f.d.toNat + sd), a := BitVec.ofNat 6 (f.a.toNat + sa) }
  | .ret f => .ret { f with d := BitVec.ofNat 6 (f.d.toNat + sd), a := BitVec.ofNat 6 (f.a.toNat + sa), b := BitVec.ofNat 6 (f.b.toNat + sb), c := BitVec.ofNat 6 (f.c.toNat + sc) }
  | .exit f => .exit { f with d := BitVec.ofNat 6 (f.d.toNat + sd), a := BitVec.ofNat 6 (f.a.toNat + sa) }
  | .yield f => .yield { f with d := BitVec.ofNat 6 (f.d.toNat + sd), a := BitVec.ofNat 6 (f.a.toNat + sa) }
  | .rep f => .rep { f with d := BitVec.ofNat 6 (f.d.toNat + sd), a := BitVec.ofNat 6 (f.a.toNat + sa) }
  | .waitt f => .waitt { f with d := BitVec.ofNat 6 (f.d.toNat + sd), a := BitVec.ofNat 6 (f.a.toNat + sa) }
  | .trap f => .trap { f with d := BitVec.ofNat 6 (f.d.toNat + sd), a := BitVec.ofNat 6 (f.a.toNat + sa) }
  | .brk f => .brk { f with d := BitVec.ofNat 6 (f.d.toNat + sd), a := BitVec.ofNat 6 (f.a.toNat + sa) }
  | .eret f => .eret { f with d := BitVec.ofNat 6 (f.d.toNat + sd), a := BitVec.ofNat 6 (f.a.toNat + sa) }
  | .movs f => .movs { f with d := BitVec.ofNat 6 (f.d.toNat + sd), a := BitVec.ofNat 6 (f.a.toNat + sa) }
  | .movt f => .movt { f with d := BitVec.ofNat 6 (f.d.toNat + sd), a := BitVec.ofNat 6 (f.a.toNat + sa) }
  | .ld f => .ld { f with d := BitVec.ofNat 6 (f.d.toNat + sd), a := BitVec.ofNat 6 (f.a.toNat + sa), b := BitVec.ofNat 6 (f.b.toNat + sb) }
  | .st f => .st { f with d := BitVec.ofNat 6 (f.d.toNat + sd), a := BitVec.ofNat 6 (f.a.toNat + sa), b := BitVec.ofNat 6 (f.b.toNat + sb) }
  | .ldu f => .ldu { f with d := BitVec.ofNat 6 (f.d.toNat + sd), a := BitVec.ofNat 6 (f.a.toNat + sa), b := BitVec.ofNat 6 (f.b.toNat + sb) }
  | .atom f => .atom { f with d := BitVec.ofNat 6 (f.d.toNat + sd), a := BitVec.ofNat 6 (f.a.toNat + sa), b := BitVec.ofNat 6 (f.b.toNat + sb) }
  | .atomFadd f => .atomFadd { f with d := BitVec.ofNat 6 (f.d.toNat + sd), a := BitVec.ofNat 6 (f.a.toNat + sa), b := BitVec.ofNat 6 (f.b.toNat + sb) }
  | .red f => .red { f with d := BitVec.ofNat 6 (f.d.toNat + sd), a := BitVec.ofNat 6 (f.a.toNat + sa), b := BitVec.ofNat 6 (f.b.toNat + sb) }
  | .fence f => .fence { f with d := BitVec.ofNat 6 (f.d.toNat + sd), a := BitVec.ofNat 6 (f.a.toNat + sa), b := BitVec.ofNat 6 (f.b.toNat + sb) }
  | .fenceX f => .fenceX { f with d := BitVec.ofNat 6 (f.d.toNat + sd), a := BitVec.ofNat 6 (f.a.toNat + sa), b := BitVec.ofNat 6 (f.b.toNat + sb) }
  | .pref f => .pref { f with d := BitVec.ofNat 6 (f.d.toNat + sd), a := BitVec.ofNat 6 (f.a.toNat + sa), b := BitVec.ofNat 6 (f.b.toNat + sb) }
  | .cpy f => .cpy { f with d := BitVec.ofNat 6 (f.d.toNat + sd), a := BitVec.ofNat 6 (f.a.toNat + sa), b := BitVec.ofNat 6 (f.b.toNat + sb) }
  | .barArr f => .barArr { f with d := BitVec.ofNat 6 (f.d.toNat + sd), a := BitVec.ofNat 6 (f.a.toNat + sa), b := BitVec.ofNat 6 (f.b.toNat + sb), c := BitVec.ofNat 6 (f.c.toNat + sc) }
  | .barWait f => .barWait { f with d := BitVec.ofNat 6 (f.d.toNat + sd), a := BitVec.ofNat 6 (f.a.toNat + sa), b := BitVec.ofNat 6 (f.b.toNat + sb), c := BitVec.ofNat 6 (f.c.toNat + sc) }
  | .barRed f => .barRed { f with d := BitVec.ofNat 6 (f.d.toNat + sd), a := BitVec.ofNat 6 (f.a.toNat + sa), b := BitVec.ofNat 6 (f.b.toNat + sb), c := BitVec.ofNat 6 (f.c.toNat + sc) }
  | .barScan f => .barScan { f with d := BitVec.ofNat 6 (f.d.toNat + sd), a := BitVec.ofNat 6 (f.a.toNat + sa), b := BitVec.ofNat 6 (f.b.toNat + sb), c := BitVec.ofNat 6 (f.c.toNat + sc) }
  | .spawn f => .spawn { f with d := BitVec.ofNat 6 (f.d.toNat + sd), a := BitVec.ofNat 6 (f.a.toNat + sa), b := BitVec.ofNat 6 (f.b.toNat + sb), c := BitVec.ofNat 6 (f.c.toNat + sc) }
  | .migr f => .migr { f with d := BitVec.ofNat 6 (f.d.toNat + sd), a := BitVec.ofNat 6 (f.a.toNat + sa), b := BitVec.ofNat 6 (f.b.toNat + sb) }
  | .musts f => .musts { f with d := BitVec.ofNat 6 (f.d.toNat + sd), a := BitVec.ofNat 6 (f.a.toNat + sa), b := BitVec.ofNat 6 (f.b.toNat + sb) }
  | .tld f => .tld { f with d := BitVec.ofNat 6 (f.d.toNat + sd), a := BitVec.ofNat 6 (f.a.toNat + sa), b := BitVec.ofNat 6 (f.b.toNat + sb), c := BitVec.ofNat 6 (f.c.toNat + sc) }
  | .tst f => .tst { f with d := BitVec.ofNat 6 (f.d.toNat + sd), a := BitVec.ofNat 6 (f.a.toNat + sa), b := BitVec.ofNat 6 (f.b.toNat + sb), c := BitVec.ofNat 6 (f.c.toNat + sc) }
  | .acl f => .acl { f with d := BitVec.ofNat 6 (f.d.toNat + sd), a := BitVec.ofNat 6 (f.a.toNat + sa), b := BitVec.ofNat 6 (f.b.toNat + sb), c := BitVec.ofNat 6 (f.c.toNat + sc) }
  | .mma f => .mma { f with d := BitVec.ofNat 6 (f.d.toNat + sd), a := BitVec.ofNat 6 (f.a.toNat + sa), b := BitVec.ofNat 6 (f.b.toNat + sb), c := BitVec.ofNat 6 (f.c.toNat + sc) }
  | .adrn f => .adrn { f with d := BitVec.ofNat 6 (f.d.toNat + sd), a := BitVec.ofNat 6 (f.a.toNat + sa), b := BitVec.ofNat 6 (f.b.toNat + sb), c := BitVec.ofNat 6 (f.c.toNat + sc) }
  | .abyp f => .abyp { f with d := BitVec.ofNat 6 (f.d.toNat + sd), a := BitVec.ofNat 6 (f.a.toNat + sa), b := BitVec.ofNat 6 (f.b.toNat + sb), c := BitVec.ofNat 6 (f.c.toNat + sc) }
  | .ast f => .ast { f with d := BitVec.ofNat 6 (f.d.toNat + sd), a := BitVec.ofNat 6 (f.a.toNat + sa), b := BitVec.ofNat 6 (f.b.toNat + sb), c := BitVec.ofNat 6 (f.c.toNat + sc) }
  | .hld f => .hld { f with d := BitVec.ofNat 6 (f.d.toNat + sd), a := BitVec.ofNat 6 (f.a.toNat + sa), b := BitVec.ofNat 6 (f.b.toNat + sb), c := BitVec.ofNat 6 (f.c.toNat + sc) }
  | .hst f => .hst { f with d := BitVec.ofNat 6 (f.d.toNat + sd), a := BitVec.ofNat 6 (f.a.toNat + sa), b := BitVec.ofNat 6 (f.b.toNat + sb), c := BitVec.ofNat 6 (f.c.toNat + sc) }
  | .hclr f => .hclr { f with d := BitVec.ofNat 6 (f.d.toNat + sd), a := BitVec.ofNat 6 (f.a.toNat + sa), b := BitVec.ofNat 6 (f.b.toNat + sb), c := BitVec.ofNat 6 (f.c.toNat + sc) }
  | .hbind f => .hbind { f with d := BitVec.ofNat 6 (f.d.toNat + sd), a := BitVec.ofNat 6 (f.a.toNat + sa), b := BitVec.ofNat 6 (f.b.toNat + sb), c := BitVec.ofNat 6 (f.c.toNat + sc) }
  | .hperm f => .hperm { f with d := BitVec.ofNat 6 (f.d.toNat + sd), a := BitVec.ofNat 6 (f.a.toNat + sa), b := BitVec.ofNat 6 (f.b.toNat + sb), c := BitVec.ofNat 6 (f.c.toNat + sc) }
  | .hbun f => .hbun { f with d := BitVec.ofNat 6 (f.d.toNat + sd), a := BitVec.ofNat 6 (f.a.toNat + sa), b := BitVec.ofNat 6 (f.b.toNat + sb), c := BitVec.ofNat 6 (f.c.toNat + sc) }
  | .hmaj f => .hmaj { f with d := BitVec.ofNat 6 (f.d.toNat + sd), a := BitVec.ofNat 6 (f.a.toNat + sa), b := BitVec.ofNat 6 (f.b.toNat + sb), c := BitVec.ofNat 6 (f.c.toNat + sc) }
  | .hdist f => .hdist { f with d := BitVec.ofNat 6 (f.d.toNat + sd), a := BitVec.ofNat 6 (f.a.toNat + sa), b := BitVec.ofNat 6 (f.b.toNat + sb), c := BitVec.ofNat 6 (f.c.toNat + sc) }
  | .hpop f => .hpop { f with d := BitVec.ofNat 6 (f.d.toNat + sd), a := BitVec.ofNat 6 (f.a.toNat + sa), b := BitVec.ofNat 6 (f.b.toNat + sb), c := BitVec.ofNat 6 (f.c.toNat + sc) }
  | .hams f => .hams { f with d := BitVec.ofNat 6 (f.d.toNat + sd), a := BitVec.ofNat 6 (f.a.toNat + sa), b := BitVec.ofNat 6 (f.b.toNat + sb), c := BitVec.ofNat 6 (f.c.toNat + sc) }
  | .hnear f => .hnear { f with d := BitVec.ofNat 6 (f.d.toNat + sd), a := BitVec.ofNat 6 (f.a.toNat + sa), b := BitVec.ofNat 6 (f.b.toNat + sb), c := BitVec.ofNat 6 (f.c.toNat + sc) }
  | .hnearK f => .hnearK { f with d := BitVec.ofNat 6 (f.d.toNat + sd), a := BitVec.ofNat 6 (f.a.toNat + sa), b := BitVec.ofNat 6 (f.b.toNat + sb), c := BitVec.ofNat 6 (f.c.toNat + sc) }
  | .hscan f => .hscan { f with d := BitVec.ofNat 6 (f.d.toNat + sd), a := BitVec.ofNat 6 (f.a.toNat + sa), b := BitVec.ofNat 6 (f.b.toNat + sb), c := BitVec.ofNat 6 (f.c.toNat + sc) }
  | i => i

/-- The instruction a repeat issues: repeat n of the thread's REP (R78). -/
def repeatOf (t : Thread) (n : Nat) (i : Instr) : Instr :=
  stepInstr (n * stepOf t.repsd) (n * stepOf t.repsa) (n * stepOf t.repsb) (n * stepOf t.repsc) i

/-- Whether a rep steps only register fields, within their classes on the final repeat (R138, R149). -/
def stepsOk (l : Limits) (i : Instr) (n sd sa sb sc : Nat) : Bool :=
  let z := stepInstr 0 0 0 0 i
  let okField := fun (lim : Option Nat) (start step : Nat) =>
    if step = 0 then true else match lim with
      | some m => decide (start + n * step ≤ m)
      | none => false
  let (d, a, b, c) := match z with
    | .add f => (f.d.toNat, f.a.toNat, f.b.toNat, f.c.toNat)
    | .sub f => (f.d.toNat, f.a.toNat, f.b.toNat, f.c.toNat)
    | .mul f => (f.d.toNat, f.a.toNat, f.b.toNat, f.c.toNat)
    | .mad f => (f.d.toNat, f.a.toNat, f.b.toNat, f.c.toNat)
    | .mulhi f => (f.d.toNat, f.a.toNat, f.b.toNat, f.c.toNat)
    | .dot4 f => (f.d.toNat, f.a.toNat, f.b.toNat, f.c.toNat)
    | .sad f => (f.d.toNat, f.a.toNat, f.b.toNat, f.c.toNat)
    | .min_ f => (f.d.toNat, f.a.toNat, f.b.toNat, f.c.toNat)
    | .max_ f => (f.d.toNat, f.a.toNat, f.b.toNat, f.c.toNat)
    | .abs_ f => (f.d.toNat, f.a.toNat, f.b.toNat, f.c.toNat)
    | .neg f => (f.d.toNat, f.a.toNat, f.b.toNat, f.c.toNat)
    | .lea f => (f.d.toNat, f.a.toNat, f.b.toNat, f.c.toNat)
    | .sel f => (f.d.toNat, f.a.toNat, f.b.toNat, f.c.toNat)
    | .mov f => (f.d.toNat, f.a.toNat, f.b.toNat, f.c.toNat)
    | .movi f => (f.d.toNat, f.a.toNat, 0, 0)
    | .moviHi f => (f.d.toNat, f.a.toNat, 0, 0)
    | .and_ f => (f.d.toNat, f.a.toNat, f.b.toNat, f.c.toNat)
    | .or_ f => (f.d.toNat, f.a.toNat, f.b.toNat, f.c.toNat)
    | .xor_ f => (f.d.toNat, f.a.toNat, f.b.toNat, f.c.toNat)
    | .andn f => (f.d.toNat, f.a.toNat, f.b.toNat, f.c.toNat)
    | .not_ f => (f.d.toNat, f.a.toNat, f.b.toNat, f.c.toNat)
    | .shl f => (f.d.toNat, f.a.toNat, f.b.toNat, f.c.toNat)
    | .shr f => (f.d.toNat, f.a.toNat, f.b.toNat, f.c.toNat)
    | .sar f => (f.d.toNat, f.a.toNat, f.b.toNat, f.c.toNat)
    | .rot f => (f.d.toNat, f.a.toNat, f.b.toNat, f.c.toNat)
    | .clz f => (f.d.toNat, f.a.toNat, f.b.toNat, f.c.toNat)
    | .popc f => (f.d.toNat, f.a.toNat, f.b.toNat, f.c.toNat)
    | .bitrev f => (f.d.toNat, f.a.toNat, f.b.toNat, f.c.toNat)
    | .bfe f => (f.d.toNat, f.a.toNat, f.b.toNat, f.c.toNat)
    | .bfi f => (f.d.toNat, f.a.toNat, f.b.toNat, f.c.toNat)
    | .cmp f => (f.d.toNat, f.a.toNat, f.b.toNat, f.c.toNat)
    | .fcmp f => (f.d.toNat, f.a.toNat, f.b.toNat, f.c.toNat)
    | .fclass f => (f.d.toNat, f.a.toNat, f.b.toNat, f.c.toNat)
    | .pand f => (f.d.toNat, f.a.toNat, f.b.toNat, f.c.toNat)
    | .por f => (f.d.toNat, f.a.toNat, f.b.toNat, f.c.toNat)
    | .pxor f => (f.d.toNat, f.a.toNat, f.b.toNat, f.c.toNat)
    | .pnot f => (f.d.toNat, f.a.toNat, f.b.toNat, f.c.toNat)
    | .pmovFromVector f => (f.d.toNat, f.a.toNat, f.b.toNat, f.c.toNat)
    | .pmovToVector f => (f.d.toNat, f.a.toNat, f.b.toNat, f.c.toNat)
    | .voteAny f => (f.d.toNat, f.a.toNat, f.b.toNat, f.c.toNat)
    | .voteAll f => (f.d.toNat, f.a.toNat, f.b.toNat, f.c.toNat)
    | .voteBallot f => (f.d.toNat, f.a.toNat, f.b.toNat, f.c.toNat)
    | .shfl f => (f.d.toNat, f.a.toNat, f.b.toNat, f.c.toNat)
    | .bperm f => (f.d.toNat, f.a.toNat, f.b.toNat, f.c.toNat)
    | .fadd f => (f.d.toNat, f.a.toNat, f.b.toNat, f.c.toNat)
    | .fsub f => (f.d.toNat, f.a.toNat, f.b.toNat, f.c.toNat)
    | .fmul f => (f.d.toNat, f.a.toNat, f.b.toNat, f.c.toNat)
    | .fma f => (f.d.toNat, f.a.toNat, f.b.toNat, f.c.toNat)
    | .fmin f => (f.d.toNat, f.a.toNat, f.b.toNat, f.c.toNat)
    | .fmax f => (f.d.toNat, f.a.toNat, f.b.toNat, f.c.toNat)
    | .fabs f => (f.d.toNat, f.a.toNat, f.b.toNat, f.c.toNat)
    | .fneg f => (f.d.toNat, f.a.toNat, f.b.toNat, f.c.toNat)
    | .frnd f => (f.d.toNat, f.a.toNat, f.b.toNat, f.c.toNat)
    | .frcp f => (f.d.toNat, f.a.toNat, f.b.toNat, f.c.toNat)
    | .frsq f => (f.d.toNat, f.a.toNat, f.b.toNat, f.c.toNat)
    | .fsqrt f => (f.d.toNat, f.a.toNat, f.b.toNat, f.c.toNat)
    | .fexp2 f => (f.d.toNat, f.a.toNat, f.b.toNat, f.c.toNat)
    | .flog2 f => (f.d.toNat, f.a.toNat, f.b.toNat, f.c.toNat)
    | .fsin f => (f.d.toNat, f.a.toNat, f.b.toNat, f.c.toNat)
    | .fcos f => (f.d.toNat, f.a.toNat, f.b.toNat, f.c.toNat)
    | .ftanh f => (f.d.toNat, f.a.toNat, f.b.toNat, f.c.toNat)
    | .cvt f => (f.d.toNat, f.a.toNat, f.b.toNat, f.c.toNat)
    | .qnt f => (f.d.toNat, f.a.toNat, f.b.toNat, f.c.toNat)
    | .dqnt f => (f.d.toNat, f.a.toNat, f.b.toNat, f.c.toNat)
    | .pack f => (f.d.toNat, f.a.toNat, f.b.toNat, f.c.toNat)
    | .unpack f => (f.d.toNat, f.a.toNat, f.b.toNat, f.c.toNat)
    | .bra f => (f.d.toNat, f.a.toNat, 0, 0)
    | .brx f => (f.d.toNat, f.a.toNat, f.b.toNat, f.c.toNat)
    | .call f => (f.d.toNat, f.a.toNat, 0, 0)
    | .ret f => (f.d.toNat, f.a.toNat, f.b.toNat, f.c.toNat)
    | .exit f => (f.d.toNat, f.a.toNat, 0, 0)
    | .yield f => (f.d.toNat, f.a.toNat, 0, 0)
    | .rep f => (f.d.toNat, f.a.toNat, 0, 0)
    | .waitt f => (f.d.toNat, f.a.toNat, 0, 0)
    | .trap f => (f.d.toNat, f.a.toNat, 0, 0)
    | .brk f => (f.d.toNat, f.a.toNat, 0, 0)
    | .eret f => (f.d.toNat, f.a.toNat, 0, 0)
    | .movs f => (f.d.toNat, f.a.toNat, 0, 0)
    | .movt f => (f.d.toNat, f.a.toNat, 0, 0)
    | .ld f => (f.d.toNat, f.a.toNat, f.b.toNat, 0)
    | .st f => (f.d.toNat, f.a.toNat, f.b.toNat, 0)
    | .ldu f => (f.d.toNat, f.a.toNat, f.b.toNat, 0)
    | .atom f => (f.d.toNat, f.a.toNat, f.b.toNat, 0)
    | .atomFadd f => (f.d.toNat, f.a.toNat, f.b.toNat, 0)
    | .red f => (f.d.toNat, f.a.toNat, f.b.toNat, 0)
    | .fence f => (f.d.toNat, f.a.toNat, f.b.toNat, 0)
    | .fenceX f => (f.d.toNat, f.a.toNat, f.b.toNat, 0)
    | .pref f => (f.d.toNat, f.a.toNat, f.b.toNat, 0)
    | .cpy f => (f.d.toNat, f.a.toNat, f.b.toNat, 0)
    | .barArr f => (f.d.toNat, f.a.toNat, f.b.toNat, f.c.toNat)
    | .barWait f => (f.d.toNat, f.a.toNat, f.b.toNat, f.c.toNat)
    | .barRed f => (f.d.toNat, f.a.toNat, f.b.toNat, f.c.toNat)
    | .barScan f => (f.d.toNat, f.a.toNat, f.b.toNat, f.c.toNat)
    | .spawn f => (f.d.toNat, f.a.toNat, f.b.toNat, f.c.toNat)
    | .migr f => (f.d.toNat, f.a.toNat, f.b.toNat, 0)
    | .musts f => (f.d.toNat, f.a.toNat, f.b.toNat, 0)
    | .tld f => (f.d.toNat, f.a.toNat, f.b.toNat, f.c.toNat)
    | .tst f => (f.d.toNat, f.a.toNat, f.b.toNat, f.c.toNat)
    | .acl f => (f.d.toNat, f.a.toNat, f.b.toNat, f.c.toNat)
    | .mma f => (f.d.toNat, f.a.toNat, f.b.toNat, f.c.toNat)
    | .adrn f => (f.d.toNat, f.a.toNat, f.b.toNat, f.c.toNat)
    | .abyp f => (f.d.toNat, f.a.toNat, f.b.toNat, f.c.toNat)
    | .ast f => (f.d.toNat, f.a.toNat, f.b.toNat, f.c.toNat)
    | .hld f => (f.d.toNat, f.a.toNat, f.b.toNat, f.c.toNat)
    | .hst f => (f.d.toNat, f.a.toNat, f.b.toNat, f.c.toNat)
    | .hclr f => (f.d.toNat, f.a.toNat, f.b.toNat, f.c.toNat)
    | .hbind f => (f.d.toNat, f.a.toNat, f.b.toNat, f.c.toNat)
    | .hperm f => (f.d.toNat, f.a.toNat, f.b.toNat, f.c.toNat)
    | .hbun f => (f.d.toNat, f.a.toNat, f.b.toNat, f.c.toNat)
    | .hmaj f => (f.d.toNat, f.a.toNat, f.b.toNat, f.c.toNat)
    | .hdist f => (f.d.toNat, f.a.toNat, f.b.toNat, f.c.toNat)
    | .hpop f => (f.d.toNat, f.a.toNat, f.b.toNat, f.c.toNat)
    | .hams f => (f.d.toNat, f.a.toNat, f.b.toNat, f.c.toNat)
    | .hnear f => (f.d.toNat, f.a.toNat, f.b.toNat, f.c.toNat)
    | .hnearK f => (f.d.toNat, f.a.toNat, f.b.toNat, f.c.toNat)
    | .hscan f => (f.d.toNat, f.a.toNat, f.b.toNat, f.c.toNat)
    | _ => (0, 0, 0, 0)
  okField l.d d sd && okField l.a a sa && okField l.b b sb && okField l.c c sc

/-! Classes (R137, R151). -/

/-- The required class of an instruction; none for "any". -/
def reqClass : Instr → Option Nat
  | .ld _ | .st _ | .ldu _ | .atom _ | .atomFadd _ | .red _ | .fence _ | .fenceX _ | .pref _ => some 1
  | .tld _ | .tst _ | .acl _ | .mma _ | .adrn _ | .abyp _ | .ast _ => some 2
  | .hld _ | .hst _ | .hclr _ | .hbind _ | .hperm _ | .hbun _ | .hmaj _ | .hdist _ | .hpop _ | .hams _ | .hnear _ | .hnearK _
  | .hscan _ => some 3
  | .cpy _ => some 4
  | .waitt _ | .eret _ | .movt _ | .barArr _ | .barWait _ | .barRed _ | .barScan _ | .spawn _ | .migr _ | .musts _ => some 5
  | _ => none

/-- The last-only instructions of R137. -/
def lastOnly : Instr → Bool
  | .bra _ | .brx _ | .call _ | .ret _ | .exit _ | .migr _ | .eret _ => true
  | _ => false

/-- Instructions that count a completion flag (R151), with their F bit. -/
def countsFlag : Instr → Option Bool
  | .ld f | .st f | .ldu f | .atom f | .atomFadd f | .red f | .cpy f => some f.f
  | .tld f | .tst f | .acl f | .mma f | .adrn f | .abyp f | .ast f => some f.f
  | .hld f | .hst f | .hclr f | .hbind f | .hperm f | .hbun f | .hmaj f | .hdist f | .hpop f | .hams f | .hnear f | .hnearK f
  | .hscan f => some f.f
  | _ => none

/-- The engine path of a memory instruction: core 0, copy 1, tile 2, hypervector 3 (R201). -/
def pathOf : Instr → Option Nat
  | .ld _ | .ldu _ | .st _ | .atom _ | .atomFadd _ | .red _ => some 0
  | .cpy _ => some 1
  | .tld _ | .tst _ | .ast _ => some 2
  | .hld _ | .hst _ | .hscan _ => some 3
  | _ => none

/-- Cross-lane and matrix instructions, and those with a non-zero swizzle, which need an aligned clause (R40). -/
def needsAligned : Instr → Bool
  | .shfl _ | .bperm _ | .voteAny _ | .voteAll _ | .voteBallot _ => true
  | .tld _ | .tst _ | .acl _ | .mma _ | .adrn _ | .abyp _ | .ast _ => true
  | .add f | .sub f | .mul f | .mad f | .mulhi f | .dot4 f | .sad f | .min_ f | .max_ f | .lea f | .sel f | .mov f | .and_ f
  | .or_ f | .xor_ f | .andn f | .shl f | .shr f | .sar f | .rot f | .bfe f | .bfi f | .cmp f | .fcmp f | .fadd f | .fsub f
  | .fmul f | .fma f | .fmin f | .fmax f | .brx f => f.swz != 0
  | _ => false

end Sys2Proof.Machine
end

