-- ==== Sys2Proof/Machine/Flags.lean ====
section
/-!
DEFINITION. The flag computations: predicate bits of a comparison (R169 to R171), and completion flags (R139, R80).
-/

namespace Sys2Proof.Machine

/-- The number whose bit j is `f j`, for j below n. -/
def bitsOf (n : Nat) (f : Nat → Bool) : Nat := joinW 1 ((List.range n).map (fun j => if f j then 1 else 0))

/-- Predicate bits of a comparison with k sub-elements: bits [s·i + s − 1 : s·i], s = 8/k, take result i where `on i` (R169). -/
def predSubs (k : Nat) (on res : Nat → Bool) (old : Byte) : Byte :=
  BitVec.ofNat 8 (bitsOf 8 (fun j => let i := j / (8 / k); if on i then res i else old.getLsbD j))

/-- Predicate bits of an instruction whose guard applies bit by bit (R171). -/
def predBits (g : Byte) (res : Nat → Bool) (old : Byte) : Byte :=
  BitVec.ofNat 8 (bitsOf 8 (fun j => if g.getLsbD j then res j else old.getLsbD j))

/-- Header fields of a clause (R135). -/
def hMark (h : Word) : Nat := bits h 63 60
def hClass (h : Word) : Nat := bits h 59 56
def hCount (h : Word) : Nat := bits h 55 52 + 1
def hWait (h : Word) : Nat := bits h 51 40
def hSetA (h : Word) : Nat := bits h 39 36
def hSetB (h : Word) : Nat := bits h 35 32
def hAlign (h : Word) : Nat := bits h 31 30
def hYld (h : Word) : Bool := bit h 29

/-- The completion flag an instruction of a clause counts for its F bit; none when untracked (R139). -/
def flagFor (h : Word) (f : Bool) : Option Nat :=
  let x := if f then hSetB h else hSetA h
  if x < 12 then some x else none

/-- The flag a long-latency instruction counts. -/
def flagOfInstr (h : Word) (i : Instr) : Option Nat :=
  match countsFlag i with
  | some f => flagFor h f
  | none => none

/-- Whether a member may count one more operation on a flag (R80). -/
def flagRoom (fl : Option Nat) (t : Thread) : Bool :=
  match fl with
  | some f => t.flag f < 15
  | none => true

/-- Whether every completion flag in a wait mask reads zero (R31). -/
def waitClear (mask : Nat) (t : Thread) : Bool :=
  (List.range 12).all (fun i => mask / 2 ^ i % 2 = 0 || t.flag i = 0)

end Sys2Proof.Machine
end

