-- ==== Sys2Proof/Machine/Issue.lean ====
section
/-!
DEFINITION. How a group issues one instruction (R34, R160, R327): the group at the current core's slot, the checks made for
every member, the effects member by member, and the position afterwards with its REP progress (R78).
-/

namespace Sys2Proof.Machine

/-- The outcome type of every meaning. -/
abbrev Out := Host.Outcome State Fault Refusal

/-- What an instruction sees of its group: core, group, team, launch, members in ascending TID, aligned-set size (0: free). -/
structure Ctx where
  core : Nat
  g : Group
  team : Team
  launch : Launch
  vd : Nat
  ts : List Thread
  t0 : Thread
  a : Nat

/-- The cluster and the die a core belongs to. -/
def Ctx.cluster (cx : Ctx) : Nat := clusterOfCore cx.core
def Ctx.die (cx : Ctx) : Nat := dieOfCluster cx.cluster

/-- The group in the current core's issue slot; none where the slot is free or a member is not there. -/
def ctx? (s : State) : Option Ctx :=
  match (s.core s.cur).slot with
  | none => none
  | some g =>
    let ts := g.members.filterMap (fun n => s.thr? { team := g.team, tid := n })
    match s.team? g.team, s.launch? g.team.lid, ts with
    | some tm, some l, t0 :: _ =>
      some { core := s.cur, g := g, team := tm, launch := l, vd := tm.vd, ts := ts, t0 := t0,
             a := setSize (hAlign (g.words.headD 0)) }
    | _, _, _ => none

/-- The clause header of the issuing group. -/
def Ctx.hdr (cx : Ctx) : Word := cx.g.words.headD 0

/-- How much REP adds to a field of the given step code at this repeat (R78). -/
def Ctx.inc (cx : Ctx) (c : BitVec 2) : Nat := if cx.t0.repActive then cx.t0.repc * stepOf c else 0

/-- The fields of each format as this repeat issues them. -/
def bump (r : Reg) (n : Nat) : Reg := BitVec.ofNat 6 (r.toNat + n)
def Ctx.fr (cx : Ctx) (f : FR) : FR :=
  { f with d := bump f.d (cx.inc cx.t0.repsd), a := bump f.a (cx.inc cx.t0.repsa), b := bump f.b (cx.inc cx.t0.repsb),
           c := bump f.c (cx.inc cx.t0.repsc) }
def Ctx.fi (cx : Ctx) (f : FI) : FI := { f with d := bump f.d (cx.inc cx.t0.repsd), a := bump f.a (cx.inc cx.t0.repsa) }
def Ctx.fs (cx : Ctx) (f : FS) : FS := { f with d := bump f.d (cx.inc cx.t0.repsd), a := bump f.a (cx.inc cx.t0.repsa) }
def Ctx.fm (cx : Ctx) (f : FM) : FM :=
  { f with d := bump f.d (cx.inc cx.t0.repsd), a := bump f.a (cx.inc cx.t0.repsa), b := bump f.b (cx.inc cx.t0.repsb) }
def Ctx.fx (cx : Ctx) (f : FX) : FX :=
  { f with d := bump f.d (cx.inc cx.t0.repsd), a := bump f.a (cx.inc cx.t0.repsa), b := bump f.b (cx.inc cx.t0.repsb),
           c := bump f.c (cx.inc cx.t0.repsc) }
def Ctx.fh (cx : Ctx) (f : FH) : FH :=
  { f with d := bump f.d (cx.inc cx.t0.repsd), a := bump f.a (cx.inc cx.t0.repsa), b := bump f.b (cx.inc cx.t0.repsb),
           c := bump f.c (cx.inc cx.t0.repsc) }

/-- The address of the clause following in memory (R134). -/
def Ctx.nextClause (cx : Ctx) : Word := cx.g.h + BitVec.ofNat 64 (8 + 8 * hCount cx.hdr)

/-- A trap of a member at this instruction (R328). -/
def Ctx.info (cx : Ctx) (t : Thread) (cause : Nat) : TrapInfo :=
  { cause := cause, detail := 0, addr := 0, wr := false, src := 0, rp := cx.g.h, rc := cx.g.pos, repa := t.repActive, repc := t.repc }

/-- How a member leaves an instruction: it goes on; steps to the next instruction whatever REP says (rep itself); goes to a
target at a position; stays at the instruction outside the group; or has been taken out of the group by what the instruction
did to it. -/
inductive Fin where
  | adv | next | jump (pc : Word) (cpos : Nat) | stay | gone
  deriving DecidableEq, Repr

/-- A member's position after an instruction of an n-instruction clause is complete for it (R78, R134). -/
def advance (h : Word) (n pos : Nat) (t : Thread) : Thread :=
  if t.repActive && t.repc < t.repn then { t with repc := t.repc + 1 }
  else
    let t := if t.repActive then { t with repa := false, repc := 0 } else t
    if pos + 1 < n then { t with cpos := pos + 1 }
    else { t with pc := h + BitVec.ofNat 64 (8 + 8 * n), cpos := 0 }

/-- A pending yield starts to run when the group completes the clause (R188); `cyc` is the die's cycle count. -/
def startYield (cyc : Nat) (t : Thread) : Thread :=
  match t.yieldUntil, t.yieldHint with
  | some n, false => { t with yieldUntil := some (cyc + n), yieldHint := true }
  | _, _ => t

/-- A member past an instruction that its group does not take it past: where that was its clause's last, a pending yield starts (R78,
R188). -/
def passAt (cyc : Nat) (h : Word) (n pos : Nat) (t : Thread) : Thread :=
  let u := advance h n pos t
  if n ≤ pos + 1 && !(t.repActive && t.repc < t.repn) then startYield cyc u else u

/-- A member past an instruction it waited at. -/
def pass (cyc n : Nat) (t : Thread) : Thread := passAt cyc t.pc n t.cpos t

/-- Whether the group's instruction issues again for the next repeat (R149). -/
def Ctx.again (cx : Ctx) : Bool := cx.t0.repActive && cx.t0.repc < cx.t0.repn

/-- The state after every member has left the instruction (R34): positions, REP progress, and the issue slot. -/
def commit (s : State) (cx : Ctx) (fins : List (Nat × Fin)) : State :=
  let n := hCount cx.hdr
  let again := cx.again && !(fins.any (fun p => p.2 == .next))
  let last := !again && !(cx.g.pos + 1 < n)
  let cyc := (s.die cx.die).cyc
  let one := fun (s : State) (p : Nat × Fin) =>
    let k : ThrKey := { team := cx.g.team, tid := p.1 }
    match p.2 with
    | .adv => s.modThr k (fun t =>
        let t := advance cx.g.h n cx.g.pos t
        if last then startYield cyc t else t)
    | .next => s.modThr k (fun t => { t with cpos := cx.g.pos + 1 })
    | .jump pc cpos => s.modThr k (fun t => startYield cyc { t with pc := pc, cpos := cpos, repa := if t.tact then t.repa else false })
    | .stay => s
    | .gone => s
  let s := fins.foldl one s
  let on := (fins.filter (fun p => p.2 == .adv || p.2 == .next)).map (·.1)
  let cycles := cx.g.cycles + (cx.ts.length + 7) / 8
  let slot := if last || on.isEmpty || (s.team? cx.g.team).isNone then none
    else some { cx.g with members := on, pos := if again then cx.g.pos else cx.g.pos + 1, cycles := cycles }
  s.putCore cx.core { s.core cx.core with slot := slot }

/-- Every member goes on. -/
def commitAll (s : State) (cx : Ctx) : State := commit s cx (cx.ts.map (fun t => (t.key.tid, .adv)))

/-- Raises one trap for every member (R327): checks of the word, the clause and the kind of team ignore guards. -/
def raiseAll (s : State) (cx : Ctx) (cause : Nat) : State :=
  cx.ts.foldl (fun s t => raise s t.key (cx.info t cause)) s

/-- Issues an instruction whose members act one after another in ascending TID, each on the state the earlier ones left (R192):
`act` gives the state and how the member leaves. -/
def eachMember (s : State) (cx : Ctx) (act : State → Thread → State × Fin) : State :=
  let one := fun (acc : State × List (Nat × Fin)) (t : Thread) =>
    match acc.1.thr? t.key with
    | none => acc
    | some t' => let r := act acc.1 t'
      (r.1, acc.2 ++ [(t.key.tid, r.2)])
  let r := cx.ts.foldl one (s, [])
  commit r.1 cx r.2

/-- A member that raises a trap at this instruction leaves the group. -/
def trapMember (s : State) (cx : Ctx) (t : Thread) (cause : Nat) : State × Fin := (raise s t.key (cx.info t cause), .gone)

/-- Whether a pending fence of a member holds back an instruction (R200, R201): a fence every memory or engine instruction, a
fence.x those of its destination paths; and a further fence while one is pending. -/
def fenceHolds (i : Instr) (t : Thread) : Bool :=
  t.pfen && match i with
    | .fence _ | .fenceX _ => true
    | _ => (match pathOf i with
        | some p => t.pfdst.getLsbD p
        | none => (match reqClass i with
            | some c => !t.pfx && t.pfsrc == 15 && t.pfdst == 15 && (c == 2 || c == 3)
            | none => false))

/-- Whether the slots make an encoding illegal. An mma leaves its operand c unused where A is unscaled, with neither bypass nor channel
duplication (R225, R233); that is judged by SUB, which names the pair, and not by the kind of slot SLA, with which a wrong SUB disagrees
(the model's choice; log entry 82). A tld or tst through a scaled slot with SPLACE 0b00 reads v(a + 1), which a = 63 does not have (R152,
R228, R339). -/
def slotIllegal (cx : Ctx) : Instr → Bool
  | .mma f => !f.byp && f.c != 0 && [2, 4, 5, 6, 7].contains f.sub.toNat && (cx.launch.slot f.sla.toNat).xform != 2
  | .tld f | .tst f => f.a == 63 && (cx.launch.slot f.slb.toNat).kind.block != 0 && (cx.launch.slot f.slb.toNat).splace = 0
  | _ => false

/-- Issues an instruction for the group of the current core. `eff` is the instruction as this repeat names it. In order: the
encoding (R152), the alignment rule (R40), then the stalls in place of R200 and R80; then the effect. With no group nothing issues. -/
def issue (s : State) (eff : Ctx → Instr) (body : Ctx → State) : Out :=
  match ctx? s with
  | none => .next s
  | some cx =>
    let i := eff cx
    if !legal i || slotIllegal cx i then .next (raiseAll s cx 0x02)
    else if needsAligned i && cx.a = 0 then .next (raiseAll s cx 0x04)
    else if cx.ts.any (fenceHolds i) then .next s
    else if !(cx.ts.all (flagRoom (flagOfInstr cx.hdr i))) then .next s
    else .next (body cx)

/-- Whether an instruction must wait for an outstanding write to a vector register that a member of it will write (R161). -/
def held161 (s : State) (writes : Thread → List Nat) (ts : List Thread) : Bool :=
  ts.any (fun t => (writes t).any (s.pendingWrite t.key))

/-- A datapath instruction (R160): every member reads before any writes. `writes` names the vector registers a member will write
(R161); `act` gives the member after the write. -/
def datapath (s : State) (eff : Ctx → Instr) (writes : Ctx → Thread → List Nat) (act : Ctx → Thread → Thread) : Out :=
  issue s eff (fun cx =>
    if held161 s (writes cx) cx.ts then s
    else commitAll ((cx.ts.map (act cx)).foldl State.putThr s) cx)

/-- Whether a member's guard enables any of k sub-elements. -/
def anyOn (t : Thread) (g : Guard) (k : Nat) : Bool := (List.range k).any (enabledAt t g k)

/-- A format R instruction that writes sub-elements of v.d (R160): `d` computes sub-element i of the destination from the
member. -/
def packedR (s : State) (mk : FR → Instr) (f : FR) (d : Ctx → FR → Thread → Nat → Nat) : Out :=
  datapath s (fun cx => mk (cx.fr f))
    (fun cx t => if anyOn t f.g (tyK f.ty) then [(cx.fr f).d.toNat] else [])
    (fun cx t =>
      let e := cx.fr f
      if anyOn t f.g (tyK f.ty) then t.writeV e.d.toNat (mapSubs (tyW f.ty) (enabledAt t f.g (tyK f.ty)) (t.heldV e.d.toNat) (d cx e t))
      else t)

/-- A format R instruction that writes a whole register under enabled(0). -/
def wholeR (s : State) (mk : FR → Instr) (f : FR) (d : Ctx → FR → Thread → Word) : Out :=
  datapath s (fun cx => mk (cx.fr f))
    (fun cx t => if enabled t f.g then [(cx.fr f).d.toNat] else [])
    (fun cx t => if enabled t f.g then t.writeV (cx.fr f).d.toNat (d cx (cx.fr f) t) else t)

/-- A format R instruction that writes a predicate. -/
def predR (s : State) (mk : FR → Instr) (f : FR) (p : Ctx → FR → Thread → Byte → Byte) : Out :=
  datapath s (fun cx => mk (cx.fr f)) (fun _ _ => [])
    (fun cx t => let e := cx.fr f; t.writeP e.d.toNat (p cx e t (t.readP e.d.toNat)))

end Sys2Proof.Machine
end

