-- ==== Sys2Proof/Machine/Integrity.lean ====
section
/-!
DEFINITION. Kill-and-drain of a virtual device (R279, R286, R385) and the escalation of an integrity error (R359, R372), which
several families reach.
-/

namespace Sys2Proof.Machine

/-- A device's place among the mappers of every plot, given up at KILL and DESTROY; a plot with no mapper left is freed (R286), and with it
its place among the evictions and a frame allocated to its promotion. -/
def leavePlots (s : State) (v : Nat) : State :=
  let one := fun (p : Nat × Plot) =>
    let ms := p.2.mappers.filter (fun m => m.1 != v)
    if ms.length == p.2.mappers.length then some p
    else if ms.isEmpty then none
    else some (p.1, { p.2 with mappers := ms, gpas := p.2.gpas.filter (fun g => g.1 != v), w := vset p.2.w 2 (setBits (vget p.2.w 2 0) 63 48 ms.length) })
  let gone := s.mg.plots.filter (fun p => (one p).isNone)
  { s with mg := { s.mg with plots := s.mg.plots.filterMap one,
                             evictions := s.mg.evictions.filter (fun h => !gone.any (fun p => p.1 == h)),
                             freeFrames := s.mg.freeFrames ++ (gone.filter (·.2.alloc)).map (fun p => bits (vget p.2.w 0 0) 35 0) } }

/-- Whether requests to an address stand at its memory-side die, which is in time fault: they have reached it, and are performed (R279 step 4,
R351). -/
def standsAt (s : State) (a : Nat) : Bool := (s.md (mdOfDpa a)).timeFaultSince.isSome

/-- Whether a store on its way, a write-back or another request of a device has reached such a die. -/
def storeStands (s : State) (m : StoreMsg) : Bool := match m.stage with
  | .combining _ => false
  | .toHome => standsAt s (m.line * 256)
  | .replica _ => standsAt s (m.line * 256 + replicaOffset)
def wbStands (s : State) (w : WriteBack) : Bool :=
  w.tw = 0 && match walkBoth s w.vd w.gva .write with
    | .ok x => hbmDpa x.dpa && standsAt s x.dpa
    | .error _ => false
def homeReq (q : Req) : Bool := (isLoadReq q || isAtomReq q || isRedReq q) && q.space == .hbm && q.phase == .issued
def reqStands (s : State) (q : Req) : Bool :=
  (homeReq q && standsAt s q.dpa) || s.ms.stores.any (fun m => m.reqs.contains q.id && storeStands s m)

/-- Everything the clusters, engines and links still hold of a device, dropped without write-back (R279 steps 2 to 4): its teams,
threads, launches, accesses that have not reached a memory-side die, engine commands, held faults, seed bins and landing slots. Versions
already given a write time stand, and so do the requests that have reached a die in time fault, which performs them. -/
def dropDevice (s : State) (v : Nat) : State :=
  let keepCl := fun (p : Nat × Cluster) =>
    let c := p.2
    (p.1, { c with holder := if c.holder == some v then none else c.holder,
                   preempting := if c.preempting == some v then none else c.preempting,
                   bins := c.bins.filter (fun b => b.2.vd != v), spawners := c.spawners.filter (fun b => b.vd != v),
                   landing := c.landing.filter (fun l => (s.thr? l.2).all (fun t => t.vd != v)) })
  let keepCore := fun (p : Nat × Core) =>
    (p.1, { slot := p.2.slot.filter (fun g => (s.team? g.team).any (fun t => t.vd != v)),
            last := p.2.last.filter (fun b => (s.team? b.team).any (fun t => t.vd != v)), yld := p.2.yld })
  { s with
    clusters := s.clusters.map keepCl, cores := s.cores.map keepCore,
    threads := s.threads.filter (·.vd != v), teams := s.teams.filter (·.vd != v), launches := s.launches.filter (·.vd != v),
    ops := s.ops.filter (fun o => (s.team? o.team).all (fun t => t.vd != v)),
    ms := { s.ms with reqs := s.ms.reqs.filter (fun q => q.vd != v || reqStands s q),
                      stores := s.ms.stores.filter (fun m => m.vd != v || storeStands s m),
                      held := s.ms.held.filter (·.vd != v),
                      wbs := s.ms.wbs.filter (fun w => w.vd != v || wbStands s w),
                      outs := s.ms.outs.map (fun o => if o.vd = v then { o with abandoned := true } else o),
                      code := s.ms.code.filter (·.vd != v), copies := s.ms.copies.filter (·.vd != v),
                      window := s.ms.window.filter (·.vd != v) } }

/-- A management command completes with a STATUS (R291): its report, and the interrupt of MCQVEC. -/
def mgmtDone (s : State) (opc v status : Nat) : State :=
  { s with mg := { s.mg.post 0 s.mg.mcqvec with done := s.mg.done ++ [{ opc := opc, vd := v, status := status }] } }

/-- A stop in progress is overtaken by the end of the device: its command completes with STATUS 1 (log entry 40). -/
def overtakeStop (s : State) (v : Nat) : State :=
  match (s.vd v).stopTo with
  | some 3 => mgmtDone s 0x03 v 1
  | some 6 => mgmtDone s 0x06 v 1
  | _ => s

/-- The homes at which requests of a device stand: of accesses, stores and write-backs, and of the fetches of context lines. -/
def drainHomes (s : State) (v : Nat) : List Nat :=
  let at_ := fun (gva : Nat) (need : Need) => match walkBoth s v gva need with
    | .ok x => [x.dpa]
    | .error _ => []
  let fetches := (s.threads.filter (·.vd == v)).flatMap (fun t => match s.launch? t.key.team.lid with
    | some l => ((List.range 9).filter (fun n => vget t.lines n .absent == .fetching)).flatMap (fun n => at_ (slotAddr l t.key + 64 * n) .read)
    | none => [])
  (s.ms.reqs.filter (fun q => q.vd == v && reqStands s q)).map (·.dpa) ++
    (s.ms.stores.filter (fun m => m.vd == v && storeStands s m)).map (fun m => match m.stage with
      | .replica _ => m.line * 256 + replicaOffset
      | _ => m.line * 256) ++
    (s.ms.wbs.filter (fun w => w.vd == v && w.tw = 0)).flatMap (fun w => at_ w.gva .write) ++ fetches

/-- The memory-side dies in time fault at which requests of a device stand. -/
def drainDies (s : State) (v : Nat) : List Nat :=
  if s.mds.toList.all (fun m => m.timeFaultSince.isNone) then []
  else
    let hs := drainHomes s v
    (List.range 8).filter (fun m => (s.md m).timeFaultSince.isSome && hs.any (fun a => mdOfDpa a == m))

/-- Kill-and-drain but for the device's place among the mappers of plots (R269, R279): queues drop their records, the device's on-chip
state is dropped, its must-save sets are withdrawn (R385), its debug block is reset (R340), and the drain begins. -/
def killCore (s : State) (v : Nat) : State :=
  let on := drainDies s v
  let s := dropDevice (overtakeStop s v) v
  let s := s.modVd v (fun d =>
    let d := (d.setField 0 2 0 4).setField 0 12 11 0
    let d := d.setField 7 28 16 0
    { d with queues := d.queues.map (fun q => (q.1, { q.2 with pend := [] })), fqWait := [], dbg := Vector.replicate 8 0,
             wp := watchReset, tinvBusy := false, stopTo := none, drainFrom := s.now, drainOn := on })
  { s with musts := s.musts.filter (·.vd != v),
           mg := { s.mg with bar2 := s.mg.bar2.filter (·.vd != v), ringDue := s.mg.ringDue.filter (fun r => r.2.1 != v),
                             signalDue := s.mg.signalDue.filter (fun x => x.2.1 != v) } }

/-- KILL (R269, R279, R286). -/
def killDevice (s : State) (v : Nat) : State := leavePlots (killCore s v) v

/-- Whether an integrity error of a team may be rolled back (R372 level 1): a rollback under way is one of the interval's two. -/
def mayRollBack (s : State) (k : TeamKey) : Bool :=
  match s.team? k, s.launch? k.lid with
  | some t, some l => l.rbk && (match t.snap with
      | some x => !x.inel && x.rbn + (if t.integrity then 1 else 0) < 2
      | none => false)
  | _, _ => false

/-- A team awaits its rollback; an error during one is a further error of the interval, and the rollback under way counts (R372). -/
def Team.awaitRollback (t : Team) : Team :=
  { t with integrity := true, snap := if t.integrity then t.snap.map (fun x => { x with rbn := x.rbn + 1 }) else t.snap }

/-- Handles integrity errors of a team raised together, to be rolled back or not (R359, R372): every record goes to Pelelo's event stream;
the team awaits its rollback, or its device is killed, the records going to the fault queue first, and ESCNT rises on the die. -/
def escalateAll (roll : Bool) (s : State) (k : TeamKey) (die : Nat) (es : List (Nat × TrapInfo)) : State :=
  match s.team? k with
  | none => s
  | some t =>
    if es.isEmpty then s
    else
      let rs := es.map (fun e => mkRec e.2 false e.1 k.num)
      let s := rs.foldl (fun s r => s.toStream t.vd r) s
      if roll then s.modTeam k Team.awaitRollback
      else killDevice ((rs.foldl (fun s r => fqPost s t.vd r none) s).modDie die (fun d => { d with escnt := satInc d.escnt })) t.vd

/-- Handles one integrity error of a team. -/
def escalateTo (roll : Bool) (s : State) (k : TeamKey) (die : Nat) (tid : Nat) (i : TrapInfo) : State := escalateAll roll s k die [(tid, i)]

/-- Handles an integrity error of a team by the first level whose condition holds. -/
def escalate (s : State) (k : TeamKey) (die : Nat) (tid : Nat) (i : TrapInfo) : State := escalateTo (mayRollBack s k) s k die tid i

/-- An integrity error of no single device asks for the reset of a partition next (R372 level 3). -/
def escalatePartition (s : State) (p die : Nat) : State :=
  let s := s.modDie die (fun d => { d with escnt := satInc d.escnt })
  { s with agenda := s.agenda ++ [.event (.partitionReset p)] }

/-! The shadow unit (R360, R361). -/

/-- The upsets that strike results of a member: sub-element, bits, and whether the main unit's are inverted. -/
def memberUpsets (s : State) (core tid : Nat) : List (Nat × Nat × Bool) :=
  s.upsets.filterMap (fun u => match u with
    | .shadow c n e m x => if c = core && n = tid then some (e, m, x) else none
    | .pass _ _ _ _ _ _ => none)

/-- Whether an upset strikes a floating-point result of a member. -/
def shadowStruck (s : State) (core tid : Nat) : Bool := !(memberUpsets s core tid).isEmpty

/-- The class of a code: zero, finite, infinite, NaN. -/
def codeClass (f : Fmt) (x : Nat) : Nat := match f.value x with
  | .nan => 3
  | .inf _ => 2
  | .fin _ n _ => if n = 0 then 0 else 1

/-- The key of a code: its exponent field and leading fraction bits (R360). -/
def shadowKey (f : Fmt) (x : Nat) : Nat := x % f.signBit / 2 ^ (f.p - min 8 f.p)

/-- Whether the two units' results mismatch (R360). -/
def shadowMismatch (f : Fmt) (x y : Nat) : Bool :=
  let c := codeClass f x
  c != codeClass f y || (c != 3 && (decide (f.signBit ≤ x) != decide (f.signBit ≤ y))) ||
    (c = 1 && (decide (shadowKey f x + 1 < shadowKey f y) || decide (shadowKey f y + 1 < shadowKey f x)))

/-- The bits that upsets invert in one unit's result. -/
def struckBits (us : List (Nat × Nat × Bool)) (main : Bool) : Nat :=
  (us.filter (fun u => u.2.2 == main)).foldl (fun m u => Nat.xor m u.2.1) 0

/-- What the main unit and the shadow unit make of a result under the upsets that strike it. -/
def struckPair (f : Fmt) (us : List (Nat × Nat × Bool)) (y : Nat) : Nat × Nat :=
  (Nat.xor y (struckBits us true % 2 ^ f.width), Nat.xor y (struckBits us false % 2 ^ f.width))

/-- Whether the two units' results so struck mismatch. -/
def struckBad (f : Fmt) (us : List (Nat × Nat × Bool)) (y : Nat) : Bool :=
  let p := struckPair f us y
  shadowMismatch f p.1 p.2

/-- Sub-element e of a run of registers from d, k to a register. -/
def runElem (k d : Nat) (f : Fmt) (t : Thread) (e : Nat) : Nat := sub f.width (t.heldV (d + e / k)) (e % k)

/-- A member with result e of its run as the main unit has it. -/
def strikeMain (us : List (Nat × Nat × Bool)) (k d : Nat) (f : Fmt) (t : Thread) (e : Nat) : Thread :=
  t.writeV (d + e / k) (mapSubs f.width (fun i => i == e % k) (t.heldV (d + e / k))
    (fun _ => (struckPair f (us.filter (fun u => u.1 = e)) (runElem k d f t e)).1))

/-- A member after an instruction whose results go to the run from d, as the two units leave it: none where they mismatch. `on` says which
sub-elements the instruction produced, `t` is the member as it would be with no upset. -/
def shadowed (us : List (Nat × Nat × Bool)) (k d : Nat) (f : Fmt) (on : Nat → Bool) (t : Thread) : Option Thread :=
  let us := us.filter (fun u => on u.1)
  let es := (us.map (·.1)).eraseDups
  if es.any (fun e => struckBad f (us.filter (fun u => u.1 = e)) (runElem k d f t e)) then none
  else some (es.foldl (strikeMain us k d f) t)

/-- The state without the upsets of some members of a core, which their instruction has met. -/
def spendUpsets (s : State) (core : Nat) (tids : List Nat) : State :=
  { s with upsets := s.upsets.filter (fun u => match u with
      | .shadow c n _ _ _ => !(c = core && tids.contains n)
      | .pass _ _ _ _ _ _ => true) }

/-- The mismatches of a group are counted, and each affected member's 0x28 escalates (R361). -/
def shadowReport (s : State) (cx : Ctx) (bad : List Thread) : State :=
  let s := spendUpsets s cx.core (cx.ts.map (·.key.tid))
  let s := s.modDie cx.die (fun d => { d with shcnt := bad.foldl (fun n _ => satInc n) d.shcnt })
  escalateAll (mayRollBack s cx.team.key) s cx.team.key cx.die (bad.map (fun t => (t.key.tid, cx.info t 0x28)))

/-- What a checked instruction does once it issues: every member that the shadow unit agrees with writes (R361). `after` gives a member
after the write, `on` the sub-elements it produced. -/
def shadowedBody (s : State) (cx : Ctx) (k d : Nat) (f : Fmt) (on : Thread → Nat → Bool) (after : Thread → Thread) : State :=
  let out := fun (t : Thread) => shadowed (memberUpsets s cx.core t.key.tid) k d f (on t) (after t)
  let s' := commitAll ((cx.ts.map (fun t => (out t).getD t)).foldl State.putThr s) cx
  if cx.ts.any (fun t => shadowStruck s cx.core t.key.tid) then shadowReport s' cx (cx.ts.filter (fun t => (out t).isNone)) else s'

/-- A packed floating-point instruction checked by the shadow unit (R360, R361): a mismatching member writes nothing. `on` says which
sub-elements a member produces. -/
def shadowedR (s : State) (mk : FR → Instr) (f : FR) (writes : Ctx → Thread → List Nat)
    (on : Ctx → FR → Thread → Nat → Bool) (act : Ctx → FR → Thread → Thread) : Out :=
  issue s (fun cx => mk (cx.fr f)) (fun cx =>
    if held161 s (writes cx) cx.ts then s
    else
      let e := cx.fr f
      shadowedBody s cx (tyK f.ty) e.d.toNat (tyFmt f.ty) (fun t i => decide (i < tyK f.ty) && on cx e t i) (act cx e))

/-- A format R floating-point instruction (R172): sub-element i of the destination from the member. -/
def floatR (s : State) (mk : FR → Instr) (f : FR) (d : Ctx → FR → Thread → Nat → Nat) : Out :=
  shadowedR s mk f (fun cx t => if anyOn t f.g (tyK f.ty) then [(cx.fr f).d.toNat] else [])
    (fun _ _ t i => enabledAt t f.g (tyK f.ty) i)
    (fun cx e t =>
      if anyOn t f.g (tyK f.ty) then
        t.writeV e.d.toNat (mapSubs (tyW f.ty) (enabledAt t f.g (tyK f.ty)) (t.heldV e.d.toNat) (d cx e t))
      else t)

/-- The stochastic draw of a member's element e at this instruction with SEED `seed` (R94). -/
def Ctx.draw (cx : Ctx) (t : Thread) (seed e : Nat) : Nat :=
  Sys2Proof.Machine.draw cx.g.h.toNat cx.g.pos (if t.repActive then t.repc else 0) t.key.team.num t.key.tid seed e

end Sys2Proof.Machine
end

