-- ==== Sys2Proof/Machine/Convert.lean ====
section
/-!
DEFINITION. Conversion, quantisation through a format slot, and packing (R176 to R181, with R101, R107 and R108).
-/

namespace Sys2Proof.Machine

/-- Source and destination sub-element counts of a cvt, the count n it converts, and its part P (R176). -/
def cvtSource (e : FR) : Ty := (tyOfCode (e.ext.toNat % 16)).getD .b64
def cvtCount (e : FR) : Nat := min (tyK e.ty) (tyK (cvtSource e))
def cvtPart (e : FR) : Nat := e.ext.toNat / 16 % 8

/-- The source sub-element of a destination sub-element; none where the destination is not named (R176). -/
def cvtFrom (e : FR) (di : Nat) : Option Nat :=
  let n := cvtCount e
  let p := cvtPart e
  if tyK (cvtSource e) ≤ tyK e.ty then (if p * n ≤ di && di < p * n + n then some (di - p * n) else none)
  else some (p * n + di)

/-- Which destination sub-elements a member's cvt writes. -/
def cvtOn (f e : FR) (t : Thread) (di : Nat) : Bool := (cvtFrom e di).isSome && enabledAt t f.g (tyK e.ty) di

/-- cvt (R176); a floating-point result is checked by the shadow unit (R360). -/
def execCvt (f : FR) (s : State) : Out :=
  let writes := fun (cx : Ctx) (t : Thread) =>
    if (List.range (tyK f.ty)).any (cvtOn f f t) then [(cx.fr f).d.toNat] else []
  let act := fun (cx : Ctx) (e : FR) (t : Thread) =>
    if (List.range (tyK f.ty)).any (cvtOn f f t) then
      let a := s.readV t.key e.a.toNat
      t.writeV e.d.toNat (mapSubs (tyW e.ty) (cvtOn f e t) (t.heldV e.d.toNat) (fun di =>
        convCode e.ty (cvtSource e) e.rnd e.sat (cx.draw t 0 di) (sub (tyW (cvtSource e)) a ((cvtFrom e di).getD 0))))
    else t
  if isFloat f.ty then shadowedR s .cvt f writes (fun _ e t i => cvtOn f e t i) act
  else datapath s (fun cx => .cvt (cx.fr f)) writes (fun cx t => act cx (cx.fr f) t)

/-! Block scales. -/

/-- The value of an E8M0 scale (R87). -/
def e8m0 (code : Nat) : XVal := if code % 256 = 255 then .nan else scaled false 1 ((code % 256 : Nat) - 127 : Int)

/-- The largest of some magnitudes, as num/den of finite values. -/
def maxMag (ys : List XVal) : Nat × Nat :=
  ys.foldl (fun (m : Nat × Nat) y => match y with
    | .fin _ a b => if m.1 * b < a * m.2 then (a, b) else m
    | _ => m) (0, 1)

/-- Block quantisation of R101: element codes, drawn by `r`, and the scale code. -/
def quantBlock (k : Kind) (f : Fmt) (mode : Rnd) (ys : List (XVal × Nat)) : List Nat × Nat :=
  let bs4 := k == .bs4
  if ys.any (fun y => !y.1.isFin) then (ys.map (fun _ => 0), if bs4 then 0x7E else 0xFF)
  else
    let m := maxMag (ys.map (·.1))
    if m.1 = 0 then (ys.map (fun _ => 0), 0)
    else
      let emax : Int := match f.width, f.p with
        | 4, _ => 2 | 8, 3 => 8 | _, _ => 15
      let code : Nat := if bs4 then rnd e5m2 .ru true 0 (.fin false m.1 (6 * m.2))
        else (max (-127) (min 127 (log2Floor m.1 m.2 - emax)) + 127).toNat
      let scale := if bs4 then e5m2.value code else e8m0 code
      (ys.map (fun y => rnd f mode true y.2 (xdiv y.1 scale)), code)

/-- Unscaled quantisation of one element (R101): RND, or the integer rule of R96 for INT8. -/
def quantOne (x : Slot) (y : XVal) (r : Nat) : Nat :=
  if x.kind == .int8 then wrapW 8 (toInteger x.rmode r (-128) 127 y) else rnd x.fmt x.rmode x.satm r y

/-! Transforms (R107 to R109, R179). -/

/-- The smoothing factor of a channel (R107): FP32 at byte 4k from row XROW; anything but a positive, finite, normal value is 1.0. -/
def smoothing (x : Slot) (scr : Mem) (ch : Nat) : XVal :=
  let one := XVal.fin false 1 1
  if x.xk ≤ ch then one
  else
    let c := leNat (memReadN scr (64 * x.xrow + 4 * ch) 4)
    if 2 ^ 23 ≤ c && c < 0x7F800000 then fp32.value c else one

/-- Entry j of the duplication map (R108). -/
def dupEntry (x : Slot) (scr : Mem) (j : Nat) : Nat := leNat (memReadN scr (64 * x.xrow + 2 * j) 2)

/-- Division of an exact value by a power of two. -/
def halve (y : XVal) (n : Nat) : XVal := xmul y (.fin false 1 (2 ^ n))

/-- y of an element of channel ch (R101, R179) from its source value. -/
def transformed (x : Slot) (scr : Mem) (ch : Nat) (v : XVal) : XVal :=
  let y := xdiv v x.ts
  match x.xform with
  | 1 => xdiv v (xmul x.ts (smoothing x scr ch))
  | 2 =>
    if ch < x.xk then halve y (((List.range x.xcnt).filter (fun j => dupEntry x scr j == ch)).length)
    else
      let j := ch - x.xk
      let c := dupEntry x scr j
      if j < x.xcnt && c < x.xk then halve y (((List.range (j + 1)).filter (fun i => dupEntry x scr i == c)).length)
      else .fin false 0 1
  | _ => y

/-- The sources of a member's qnt, each transformed, with its stochastic draw (R177, R179). -/
def qntSources (s : State) (cx : Ctx) (x : Slot) (e : FR) (t : Thread) : List (XVal × Nat) :=
  let ks := tyK e.ty
  (List.range x.kind.perThread).map (fun j =>
    let v := (tyFmt e.ty).value (sub (tyW e.ty) (s.readV t.key (e.a.toNat + j / ks)) (j % ks))
    let ch := (s.readV t.key e.c.toNat).toNat % 2 ^ 32 + j
    (transformed x cx.team.scr ch v, cx.draw t x.seed j))

/-- The packed register of element codes and a scale code (R177). -/
def packQ (k : Kind) (codes : List Nat) (scale : Nat) : Word :=
  BitVec.ofNat 64 (joinW k.width codes + (if k.block = 0 then 0 else scale * 2 ^ 32))

/-- The packed register qnt writes for a member (R178). -/
def qntWord (s : State) (cx : Ctx) (x : Slot) (f e : FR) (t : Thread) : Word :=
  let k := x.kind
  let own := qntSources s cx x e t
  if k.quarter then
    let lanes := ((List.range 8).filterMap (fun l => lanePeer s t 8 l)).filter (fun p => enabled p f.g)
    let q := quantBlock k x.fmt x.rmode (lanes.flatMap (qntSources s cx x e))
    let before := (lanes.filter (fun p => p.key.tid < t.key.tid)).length
    packQ k ((q.1.drop (before * k.perThread)).take k.perThread) q.2
  else if k == .bs4 then
    let q := quantBlock k x.fmt x.rmode own
    packQ k q.1 q.2
  else packQ k (own.map (fun y => quantOne x y.1 y.2)) 0

/-- The checks of qnt and dqnt that depend on the slot, in the order of R177. -/
def qntCheck (cx : Ctx) (x : Slot) (e : FR) (isQnt : Bool) : Option Nat :=
  let first := if isQnt then e.a.toNat else e.d.toNat
  if x.kind.perThread = 0 then some 0x08
  else if (isQnt && x.xform = 0 && e.c != 0) || 64 < first + qntRun x e.ty then some 0x02
  else if isQnt && x.kind.quarter && cx.a = 0 then some 0x04
  else if isQnt && x.xform != 0 && scratchBytes cx.team.key cx.launch = 0 then some 0x05
  else none

/-- qnt (R177 to R179). -/
def execQnt (f : FR) (s : State) : Out :=
  issue s (fun cx => .qnt (cx.fr f)) (fun cx =>
    let e := cx.fr f
    let x := cx.launch.slot e.ext.toNat
    match qntCheck cx x e true with
    | some c => raiseAll s cx c
    | none =>
      if held161 s (fun t => if enabled t f.g then [e.d.toNat] else []) cx.ts then s
      else
        let act := fun (t : Thread) => if enabled t f.g then t.writeV e.d.toNat (qntWord s cx x f e t) else t
        commitAll ((cx.ts.map act).foldl State.putThr s) cx)

/-- Element j of a packed register, dequantised exactly before its rounding (R101, R180). -/
def dequantVal (x : Slot) (reg : Word) (j : Nat) : XVal :=
  let k := x.kind
  let q := sub k.width reg j
  let v := if k == .int8 then xint (sgn 8 q) else x.fmt.value q
  let scale := match k with
    | .bs4 => e5m2.value (sub 8 reg 4)
    | .mxfp8 | .mxfp4 => e8m0 (sub 8 reg 4)
    | _ => .fin false 1 1
  if k == .bs4 && scale.isZero then .fin v.isNeg 0 1 else xmul (xmul v scale) x.ts

/-- The registers dqnt writes for a member (R180). -/
def dqntRun (s : State) (cx : Ctx) (x : Slot) (e : FR) (t : Thread) : List Word :=
  let reg := s.readV t.key e.a.toNat
  let kd := tyK e.ty
  (List.range (qntRun x e.ty)).map (fun n =>
    BitVec.ofNat 64 (joinW (tyW e.ty) ((List.range kd).map (fun i =>
      rnd (tyFmt e.ty) x.rmode x.satm (cx.draw t x.seed (n * kd + i)) (dequantVal x reg (n * kd + i))))))

/-- dqnt (R180), checked by the shadow unit (R360). -/
def execDqnt (f : FR) (s : State) : Out :=
  issue s (fun cx => .dqnt (cx.fr f)) (fun cx =>
    let e := cx.fr f
    let x := cx.launch.slot e.ext.toNat
    match qntCheck cx x e false with
    | some c => raiseAll s cx c
    | none =>
      let run := (List.range (qntRun x e.ty)).map (e.d.toNat + ·)
      if held161 s (fun t => if enabled t f.g then run else []) cx.ts then s
      else shadowedBody s cx (tyK e.ty) e.d.toNat (tyFmt e.ty) (fun t i => enabled t f.g && decide (i < qntRun x e.ty * tyK e.ty))
        (fun t => if enabled t f.g then t.writeRun e.d.toNat (dqntRun s cx x e t) else t))

/-- The registers pack reads or unpack writes (R181). -/
def packRun (f : FR) : Nat := if f.ext = 0 then 2 else 4

/-- pack (R181): byte j of the run becomes element j. -/
def packWord (s : State) (e : FR) (t : Thread) : Word :=
  let byte := fun j => sub 8 (s.readV t.key (e.a.toNat + j / 8)) (j % 8)
  if e.ext = 0 then BitVec.ofNat 64 (joinW 4 ((List.range 16).map (fun j => byte j % 16)))
  else BitVec.ofNat 64 (joinW 2 ((List.range 32).map (fun j =>
    let v := sgn 8 (byte j)
    if 0 < v then 1 else if v < 0 then 3 else 0)))

def execPack (f : FR) (s : State) : Out := wholeR s .pack f (fun _ e t => packWord s e t)

/-- unpack (R181): element j becomes byte j of the run; ternary code 0b10 gives 0 (R85). -/
def unpackRun (e : FR) (a : Word) : List Word :=
  (List.range (packRun e)).map (fun n => BitVec.ofNat 64 (joinW 8 ((List.range 8).map (fun i =>
    if e.ext = 0 then sub 4 a (8 * n + i)
    else match sub 2 a (8 * n + i) with
      | 1 => 1 | 3 => 255 | _ => 0))))

def execUnpack (f : FR) (s : State) : Out :=
  datapath s (fun cx => .unpack (cx.fr f))
    (fun cx t => if enabled t f.g then (List.range (packRun f)).map ((cx.fr f).d.toNat + ·) else [])
    (fun cx t => if enabled t f.g then t.writeRun (cx.fr f).d.toNat (unpackRun (cx.fr f) (s.readV t.key (cx.fr f).a.toNat)) else t)

end Sys2Proof.Machine
end

