-- ==== Sys2Proof/Machine/Contexts.lean ====
section
/-!
DEFINITION. Contexts in memory: where frames, slots and snapshot frames lie (R59 to R63, R367), the images of a control line, a
vector line, a team block, an engine command record and a seed-bin record (R61 to R68, R238), and reading them back with the
checks of R65.
-/

namespace Sys2Proof.Machine

/-- A team's snapshot frame (R367): its address, and the offset of its data array. -/
def snapAddr (l : Launch) (k : TeamKey) : Nat × Nat :=
  let f := frameBytes l
  let sb := l.ctx + roundUp (0x7E0000 + l.grid * f + l.frames * spawnedFrame) 65536
  let z := roundUp (64 + f / 16 + f) 4096
  if k.spawned then (sb + l.grid * z + k.num % l.frames * 40960, 64 + spawnedFrame / 16)
  else (sb + k.num * z, 64 + f / 16)

/-- The bin record of a cluster's bin in the seed area (R59, R61). -/
def binAddr (l : Launch) (cluster bin : Nat) : Nat := l.ctx + (cluster * 16 + bin) * 1344

/-- A number as a bit. -/
def b2n (b : Bool) : Nat := if b then 1 else 0

/-- The STATE a control line carries (R64): a thread released from a barrier that waits for its place in the release window is Runnable
there, since the release's writes are made at the phase's completion (R366). -/
def stateCode (t : Thread) : Nat := if t.releaseAt.isSome then ThreadState.runnable.code else t.st.code

/-- The eight words of a control line (R64). -/
def controlWords (t : Thread) : List Nat :=
  [t.pc.toNat / 8 * 8,
   t.clus % 512 * 2 ^ 42 + t.key.tid % 1024 * 2 ^ 32 + b2n t.detached * 2 ^ 30 + b2n t.key.team.spawned * 2 ^ 29 +
     b2n t.consumer * 2 ^ 28 + stateCode t * 2 ^ 25 + t.repsc.toNat * 2 ^ 23 + t.repsb.toNat * 2 ^ 21 + t.repsa.toNat * 2 ^ 19 +
     t.repsd.toNat * 2 ^ 17 + t.repc % 64 * 2 ^ 11 + t.repn % 64 * 2 ^ 5 + b2n t.repa * 2 ^ 4 + t.cpos % 16,
   t.arrv.toNat * 2 ^ 48 + t.bpar.toNat * 2 ^ 32 + t.key.team.num % 2 ^ 32,
   joinW 8 ((List.range 7).map (fun i => (t.readP i).toNat)),
   t.aph.toNat * 2 ^ 48 + joinW 4 ((List.range 12).map t.flag),
   t.twowed % 2 ^ 64,
   b2n t.pfen * 2 ^ 31 + t.pfsc % 8 * 2 ^ 28 + t.pfsrc.toNat * 2 ^ 24 + t.pfdst.toNat * 2 ^ 20 + t.tcpos % 16 * 2 ^ 9 +
     b2n t.tact * 2 ^ 8 + t.tcause % 256,
   t.trpc.toNat]

/-- The bytes of line n of a slot: the control line, or v(8n − 8) to v(8n − 1) (R63). -/
def lineBytes (t : Thread) (n : Nat) : List Byte :=
  if n = 0 then (controlWords t).flatMap (leBytes 8)
  else (List.range 8).flatMap (fun j => leBytes 8 (t.heldV (8 * n - 8 + j)).toNat)

/-- The control line's checks of R65 against the thread it belongs to; `mayDetach`: the team is spawned or migratable. -/
def controlOk (t : Thread) (mayDetach : Bool) (w : Nat → Word) : Bool :=
  bits (w 0) 2 0 == 0 && bits (w 1) 63 51 == 0 && !bit (w 1) 31 && bits (w 3) 63 56 == 0 && bits (w 6) 63 32 == 0 &&
    bits (w 6) 19 13 == 0 && bits (w 1) 41 32 == t.key.tid && bits (w 2) 31 0 == t.key.team.num &&
    bit (w 1) 28 == t.consumer && bit (w 1) 29 == t.key.team.spawned && (!bit (w 1) 30 || mayDetach) && bits (w 1) 27 25 != 7 &&
    decide (bits (w 1) 16 11 ≤ bits (w 1) 10 5) &&
    (!bit (w 6) 31 || (bits (w 6) 30 28 < 5 && bits (w 6) 27 24 != 0 && bits (w 6) 23 20 != 0))

/-- A thread with the fields of a control line (R64). -/
def loadControl (t : Thread) (w : Nat → Word) : Thread :=
  { t with pc := BitVec.ofNat 64 (bits (w 0) 63 3 * 8), detached := bit (w 1) 30, st := ThreadState.ofCode (bits (w 1) 27 25),
           repsc := BitVec.ofNat 2 (bits (w 1) 24 23), repsb := BitVec.ofNat 2 (bits (w 1) 22 21),
           repsa := BitVec.ofNat 2 (bits (w 1) 20 19), repsd := BitVec.ofNat 2 (bits (w 1) 18 17), repc := bits (w 1) 16 11,
           repn := bits (w 1) 10 5, repa := bit (w 1) 4, cpos := bits (w 1) 3 0, arrv := BitVec.ofNat 16 (bits (w 2) 63 48),
           bpar := BitVec.ofNat 16 (bits (w 2) 47 32),
           pred := (List.range 7).foldl (fun p i => vset p i (BitVec.ofNat 8 (bits (w 3) (8 * i + 7) (8 * i)))) t.pred,
           aph := BitVec.ofNat 16 (bits (w 4) 63 48),
           flags := (List.range 12).foldl (fun p i => vset p i (bits (w 4) (4 * i + 3) (4 * i))) t.flags,
           twowed := (w 5).toNat, pfen := bit (w 6) 31, pfsc := bits (w 6) 30 28, pfsrc := BitVec.ofNat 4 (bits (w 6) 27 24),
           pfdst := BitVec.ofNat 4 (bits (w 6) 23 20), pfx := false, tcpos := bits (w 6) 12 9, tact := bit (w 6) 8, tcause := bits (w 6) 7 0,
           trpc := w 7 }

/-- Words 0 to 12 of a team header (R68); `gen` is the device's generation. -/
def headerWords (t : Team) (l : Launch) (gen : Nat) : List Nat :=
  let tg := fun (i : Nat) => joinW 16 ((List.range 4).map (fun j => (vget t.tgen (4 * i + j) 0).toNat))
  [t.pcnt * 2 ^ 43 + t.tcnt * 2 ^ 32 + (if t.key.spawned then 0 else l.srows * 2 ^ 16) + b2n l.migr * 2 ^ 10 +
     b2n t.key.spawned * 2 ^ 9 + b2n (l.mstr && !t.key.spawned) * 2 ^ 8 + 1,
   t.key.num % 2 ^ 32,
   l.addr.toNat,
   t.msat.toNat * 2 ^ 32 + t.accs.toNat * 2 ^ 16 + t.acck.toNat,
   tg 0, tg 1, tg 2, tg 3, tg 4, tg 5, tg 6, tg 7,
   gen]

/-- A barrier record (R67). -/
def barrierWord (b : Barrier) : Nat := b.tag.toNat * 2 ^ 16 + b2n b.phase * 2 ^ 11 + b.count % 2048

/-- Cells of a sparse area moved to another base. -/
def moveMem (base : Nat) (m : Mem) : List Host.Cell := m.map (fun c => (base + c.1, c.2))

/-- An engine command record (R238). -/
def commandWords (o : EngOp) : List Nat :=
  let kind := match o.i with
    | .tld _ => 1 | .hscan _ => 2 | _ => 0
  let best := (List.range 4).map (fun r => match o.best[r]? with
    | some p => p.2 % 2 ^ 14 * 2 ^ 32 + p.1 % 2 ^ 32
    | none => 0x3FFFFFFFFFFF)
  let tail := joinW 48 best
  let v := fun i => o.vals.getD i 0
  [2 ^ 63 + kind * 2 ^ 60 + (o.flag.getD 15) * 2 ^ 56 + o.tid % 1024 * 2 ^ 32, o.word.toNat, o.prog] ++
    (match kind with
      | 2 => [v 0, v 1, tail % 2 ^ 64, tail / 2 ^ 64 % 2 ^ 64, tail / 2 ^ 128]
      | 1 => [v 0, v 1, v 2, 0, 0]
      | _ => [v 0, v 1, v 2, v 3, 0])

/-- The non-zero bytes of a team block as offsets (R66, R67), with the records of the commands given. -/
def blockImage (t : Team) (l : Launch) (gen : Nat) (cmds : List EngOp) : Mem :=
  let slots := (List.range 16).map (fun i => (l.word (16 + i)).toNat)
  let low := memWriteN (memWriteN (memWriteN [] 0 ((headerWords t l gen).flatMap (leBytes 8)))
    256 ((List.range 32).flatMap (fun i => leBytes 8 (vget t.s i 0).toNat)))
    640 (slots.flatMap (leBytes 8))
  let low := (List.range cmds.length).foldl (fun m i => match cmds[i]? with
    | some o => memWriteN m (768 + 64 * i) ((commandWords o).flatMap (leBytes 8))
    | none => m) low
  if t.key.spawned then low
  else
    let low := memWriteN low 512 ((List.range 16).flatMap (fun i => leBytes 8 (barrierWord (t.bar i))))
    let bulk := moveMem 4096 t.tiles ++ moveMem 45056 t.acc ++ moveMem 126976 t.hv ++ moveMem 135168 t.mc ++
      (if l.mstr then moveMem 167936 t.ms else []) ++ moveMem (167936 + if l.mstr then 262144 else 0) t.scr
    memWriteCells low bulk

/-- The cells a and up to n bytes on, as offsets from a. -/
def memSlice (m : Mem) (a n : Nat) : Mem :=
  (m.filter (fun c => a ≤ c.1 && c.1 < a + n)).map (fun c => (c.1 - a, c.2))

/-- A team with the contents of a block read back (R66 to R68). -/
def loadBlock (t : Team) (l : Launch) (img : Mem) : Team :=
  let w := fun (o : Nat) => memWord img o
  let t := { t with s := (List.range 32).foldl (fun s i => vset s i (w (256 + 8 * i))) t.s }
  if t.key.spawned then t
  else
    let bar := fun (i : Nat) =>
      let x := w (512 + 8 * i)
      ({ count := bits x 10 0, phase := bit x 11, tag := BitVec.ofNat 16 (bits x 31 16) } : Barrier)
    { t with bars := (List.range 16).foldl (fun b i => vset b i (bar i)) t.bars,
             msat := BitVec.ofNat 4 (bits (w 24) 35 32), accs := BitVec.ofNat 16 (bits (w 24) 31 16),
             acck := BitVec.ofNat 16 (bits (w 24) 15 0),
             tgen := (List.range 32).foldl (fun g i => vset g i (BitVec.ofNat 16 (bits (w (32 + 8 * (i / 4))) (16 * (i % 4) + 15) (16 * (i % 4))))) t.tgen,
             tiles := memSlice img 4096 40960, acc := memSlice img 45056 81920, hv := memSlice img 126976 8192,
             mc := memSlice img 135168 32768, ms := if l.mstr then memSlice img 167936 262144 else [],
             scr := memSlice img (167936 + if l.mstr then 262144 else 0) (64 * l.srows) }

/-- A bin record (R61). -/
def binWords (b : Bin) (lrec : Word) (left : Nat) : List Byte :=
  leBytes 8 b.entry.toNat ++ leBytes 8 lrec.toNat ++ leBytes 2 b.seeds.length ++ leBytes 2 left ++ List.replicate 44 0 ++
    b.seeds.flatMap (fun s => leBytes 8 s.entry.toNat ++ (List.range 4).flatMap (fun i => leBytes 8 (vget s.args i 0).toNat))

/-! Accesses of the device to its contexts (R75, R76, R336). -/

/-- An event of a device that goes to Pelelo and to the guest's fault queue: 0x31, 0x32, or 0x1C with SRC 4 (R65, R76, R278). -/
def contextEvent (s : State) (v cause addr tid team : Nat) (wr : Bool := false) : State :=
  let r := mkRec { cause := cause, detail := 0, addr := addr, wr := wr, src := 4, rp := 0, rc := 0, repa := false, repc := 0 }
    false tid team
  fqPost (s.toStream v r) v r none

/-- An ordinary store of the device at a home, at a translated address (R75). -/
def storeAt (s : State) (v : Nat) (x : Xlat) (bs : List Byte) : State := (homeWrite s v x.repl x.dpa bs).2

/-! Units of a logging team (R366 to R368). -/

/-- The snapshot header (R367). -/
def snapHeader (x : SnapLog) : List Byte :=
  leBytes 8 (x.rbn % 4 * 2 ^ 40 + b2n x.inel * 2 ^ 32 + x.nlog % 2 ^ 32) ++ leBytes 8 x.icnt ++ List.replicate 48 0

/-- A write-back begins (R75, R277). -/
def addWb (s : State) (v cluster : Nat) (thr : ThrKey) (line : Nat) (bytes : List Byte) (gva : Nat) : State :=
  { s with nextId := s.nextId + 1,
           ms := { s.ms with wbs := s.ms.wbs ++ [{ id := s.nextId, vd := v, cluster := cluster, thr := thr, line := line, bytes := bytes,
                                                   gva := gva, tw := 0 }] } }

/-- The header of a team's snapshot frame is written, replacing a header write that has not been made (R367, R368). -/
def storeHeader (s : State) (t : Team) (l : Launch) (x : SnapLog) : State :=
  let k : ThrKey := { team := t.key, tid := 0 }
  let due := fun (w : WriteBack) => w.line = 14 && w.thr == k && w.tw = 0
  if s.ms.wbs.any due then
    { s with ms := { s.ms with wbs := s.ms.wbs.map (fun w => if due w then { w with bytes := snapHeader x } else w) } }
  else addWb s t.vd (t.cluster.getD 0) k 14 (snapHeader x) (snapAddr l t.key).1

/-- The lines of a team's threads that are not formed yet (R258): line 0 of a thread that has never been activated, and vector lines of
one that has. -/
def unformedLines (s : State) (k : TeamKey) : List (Nat × Nat) :=
  (s.threads.filter (fun t => t.key.team == k)).flatMap (fun t =>
    if t.created then ((List.range 9).filter (fun n => vget t.lines n .absent == .unformed)).map (fun n => (t.key.tid, n)) else [(t.key.tid, 0)])

/-- A rollback log that holds nothing. -/
def SnapLog.empty : SnapLog := { nlog := 0, inel := false, rbn := 0, icnt := 0, logged := [], unformed := [] }

/-- A checkpoint of a logging team (R366): every unit unlogged, the header rewritten. -/
def checkpoint (s : State) (k : TeamKey) : State :=
  match s.team? k, s.launch? k.lid with
  | some t, some l =>
    if l.rbk then
      let x : SnapLog := { SnapLog.empty with icnt := (t.snap.getD SnapLog.empty).icnt + 1, unformed := unformedLines s k }
      storeHeader (s.modTeam k (fun t => { t with snap := some x })) t l x
    else s
  | _, _ => s

/-- An interval made ineligible for rollback (R369). -/
def markIneligible (s : State) (k : TeamKey) : State :=
  match s.team? k, s.launch? k.lid with
  | some t, some l =>
    (match t.snap with
      | some x =>
        if x.inel then s
        else
          let x := { x with inel := true }
          storeHeader (s.modTeam k (fun t => { t with snap := some x })) t l x
      | none => s)
  | _, _ => s

end Sys2Proof.Machine
end

