-- ==== Sys2Proof/Machine/Barrier.lean ====
section
/-!
DEFINITION. Barriers: arrivals, phase completion, payload reductions and scans, and release (R44 to R47, R206 to R209, R262).
-/

namespace Sys2Proof.Machine

/-- The core a thread runs on (R32, R52). -/
def coreOf (t : Thread) : Nat := 4 * t.clus + (match t.landing with
  | some j => j % 4
  | none => t.key.tid / 32 % 4)

/-- The payload tag of an instruction (R209). -/
def payloadTag (f : FR) (scan : Bool) : Nat :=
  0x8000 + b2n scan * 0x4000 + b2n f.sat * 0x2000 + rndCode f.rnd * 0x400 + tyCode f.ty * 0x40 + f.ext.toNat % 16

/-- What a phase's tag says (R209). -/
structure Payload where
  scan : Bool
  sat : Bool
  mode : Rnd
  ty : Ty
  op : Nat
  deriving DecidableEq, Repr

def readTag (x : BitVec 16) : Payload :=
  { scan := x.getLsbD 14, sat := x.getLsbD 13, mode := (rndOfCode (x.toNat / 0x400 % 8)).getD .rne,
    ty := (tyOfCode (x.toNat / 0x40 % 16)).getD .b64, op := x.toNat % 16 }

/-- One pass of the pairwise tree (R47). -/
def pairPass (add : Nat → Nat → Nat) : List Nat → List Nat
  | a :: b :: rest => add a b :: pairPass add rest
  | l => l

/-- The pairwise tree of R47; 11 passes reduce 1,024 contributions. -/
def pairTree (add : Nat → Nat → Nat) : Nat → List Nat → List Nat
  | 0, l => l
  | n + 1, l => if l.length ≤ 1 then l else pairTree add n (pairPass add l)

/-- The identity of an operation (R47). -/
def payloadIdentity (p : Payload) : Nat :=
  let w := tyW p.ty
  match p.op with
  | 1 => wrapW w (tyMax p.ty)
  | 2 => wrapW w (tyMin p.ty)
  | 3 => 2 ^ w - 1
  | 7 => (tyFmt p.ty).eOnes * 2 ^ (tyFmt p.ty).p
  | 8 => (tyFmt p.ty).withSign true ((tyFmt p.ty).eOnes * 2 ^ (tyFmt p.ty).p)
  | _ => 0

/-- A code with every NaN made the canonical one of its format (R90). -/
def canonical (f : Fmt) (x : Nat) : Nat := match f.value x with
  | .nan => f.nanCode
  | _ => x

/-- The combination of contributions in ascending TID; `left` folds a floating-point sum left to right as a scan does (R47). -/
def combine (p : Payload) (left : Bool) (xs : List Nat) : Nat :=
  let w := tyW p.ty
  let add := fun a b => rnd (tyFmt p.ty) p.mode false 0
    (xadd (p.mode == .rd) ((tyFmt p.ty).value a) ((tyFmt p.ty).value b))
  match xs with
  | [] => payloadIdentity p
  | x :: rest =>
    match p.op with
    | 0 => let n := (xs.map (intVal p.ty)).sum
        if p.sat then clampTy p.ty n else wrapW w n
    | 1 => wrapW w (rest.foldl (fun m y => min m (intVal p.ty y)) (intVal p.ty x))
    | 2 => wrapW w (rest.foldl (fun m y => max m (intVal p.ty y)) (intVal p.ty x))
    | 3 => rest.foldl Nat.land x
    | 4 => rest.foldl Nat.lor x
    | 5 => rest.foldl Nat.xor x
    | 6 => canonical (tyFmt p.ty) (if left then rest.foldl add x else (pairTree add 11 xs).headD 0)
    | 7 => rest.foldl (fminmax p.ty false) (fminmax p.ty false x x)
    | _ => rest.foldl (fminmax p.ty true) (fminmax p.ty true x x)

/-- Whether a participant's sub-element i contributes (R46). -/
def contributes (p : Payload) (g : Byte) (i : Nat) : Bool := g.getLsbD (i * (8 / tyK p.ty))

/-- A participant of a payload phase: its wait and its source register at completion (R208). -/
structure Participant where
  tid : Nat
  wait : BarWait
  src : Word

/-- Sub-element i of a participant's result (R46, R47). -/
def payloadElem (p : Payload) (ps : List Participant) (me : Participant) (i : Nat) : Nat :=
  let from_ := ps.filter (fun q => contributes p q.wait.guardBits i && (!p.scan || q.tid < me.tid))
  combine p p.scan (from_.map (fun q => sub (tyW p.ty) q.src i))

/-- A participant's destination register after the phase (R46). -/
def payloadWord (p : Payload) (ps : List Participant) (me : Participant) (old : Word) : Word :=
  mapSubs (tyW p.ty) (contributes p me.wait.guardBits) old (payloadElem p ps me)

/-- A thread that leaves a barrier instruction: past it, waiting for its place in the release window (R262). -/
def leaveBarrier (w : BarWait) (at_ : Nat) (t : Thread) : Thread :=
  ({ pass at_ w.count t with barrier := none, releaseAt := some at_ } : Thread).changed

/-- Arrived bit and arrival phase of a thread that arrives on barrier b in a phase (R45). -/
def arrive (b : Nat) (phase : Bool) (t : Thread) : Thread :=
  let m := BitVec.ofNat 16 (2 ^ b)
  { t with arrv := t.arrv ||| m, aph := if phase then t.aph ||| m else t.aph &&& ~~~m }

/-- A parity bit inverted (R45). -/
def invertParity (b : Nat) (t : Thread) : Thread := { t with bpar := t.bpar ^^^ BitVec.ofNat 16 (2 ^ b) }

/-- Whether a thread at barrier b leaves when its phase bit becomes `phase` (R45, R208), and whether it then waits there. -/
def waitsFor (b : Nat) (phase : Bool) (t : Thread) : Bool := match t.barrier with
  | some w => w.bar == b && (w.second || w.payload || t.bpar.getLsbD b != phase)
  | none => false
def leavesAt (b : Nat) (phase : Bool) (t : Thread) : Bool := t.st == .barrierWait && t.releaseAt.isNone && waitsFor b phase t

/-- Whether a waiting thread's arrival is the pending second arrival of R45. -/
def isSecond (t : Thread) : Bool := match t.barrier with
  | some w => w.second
  | none => false

/-- Releases the waiters of a completed phase, ranked by TID (R45, R207, R262): waits invert their parity; a pending second
arrival is recorded and counted in the new phase. -/
def releaseWaiters (s : State) (k : TeamKey) (b : Nat) (phase : Bool) : State :=
  let ws := (s.members k).filter (leavesAt b phase)
  let die := match s.team? k with
    | some t => s.die (dieOfCluster (t.cluster.getD 0))
    | none => s.die 0
  let one := fun (s : State) (j : Nat) => match ws[j]? with
    | none => s
    | some w0 => s.modThr w0.key (fun t => match w0.barrier with
        | some w =>
          let t := leaveBarrier w (die.cyc + j * die.brw / ws.length) t
          if w.second then arrive b phase t else invertParity b t
        | none => t)
  let s := (List.range ws.length).foldl one s
  s.modTeam k (fun t => { t with bars := vset t.bars b { t.bar b with count := (t.bar b).count + (ws.filter isSecond).length } })

/-- The participants of a payload phase (R208): the threads that wait at their payload instruction. -/
def participants (s : State) (k : TeamKey) (b : Nat) : List Thread :=
  (s.members k).filter (fun t => t.st == .barrierWait && t.releaseAt.isNone && match t.barrier with
    | some w => w.bar == b && w.payload
    | none => false)

/-- The upsets that strike the additions of a phase, each with the participant it names. -/
def treeUpsets (s : State) (ts : List Thread) : List (Nat × Nat × Nat × Bool) :=
  ts.flatMap (fun t => (memberUpsets s (coreOf t) t.key.tid).map (fun u => (t.key.tid, u)))

/-- Those that strike sub-element i of a participant's result, where a floating-point addition makes it: in a reduction those of every
participant, in a scan its own. An upset strikes the last addition of the result (the model's choice; log entry 66). -/
def elemUpsets (p : Payload) (ps : List Participant) (us : List (Nat × Nat × Nat × Bool)) (me : Participant) (i : Nat) :
    List (Nat × Nat × Bool) :=
  let n := (ps.filter (fun q => contributes p q.wait.guardBits i && (!p.scan || q.tid < me.tid))).length
  if p.op == 6 && decide (2 ≤ n) then (us.filter (fun u => u.2.1 = i && (!p.scan || u.1 = me.tid))).map (·.2) else []

/-- Sub-element i as the main unit has it. -/
def treeElem (p : Payload) (ps : List Participant) (us : List (Nat × Nat × Nat × Bool)) (me : Participant) (i : Nat) : Nat :=
  match elemUpsets p ps us me i with
  | [] => payloadElem p ps me i
  | es => (struckPair (tyFmt p.ty) es (payloadElem p ps me i)).1

/-- Whether the shadow unit disagrees with an addition of the phase (R360). -/
def treeBad (p : Payload) (ps : List Participant) (us : List (Nat × Nat × Nat × Bool)) : Bool :=
  !us.isEmpty && ps.any (fun me => (List.range (tyK p.ty)).any (fun i =>
    struckBad (tyFmt p.ty) (elemUpsets p ps us me i) (payloadElem p ps me i)))

/-- A participant after a phase's payload (R46, R208): its destination written. -/
def payloadWrite (p : Payload) (ps : List Participant) (us : List (Nat × Nat × Nat × Bool)) (t : Thread) : Thread :=
  match t.barrier, ps.find? (fun q => q.tid == t.key.tid) with
  | some w, some me =>
    if (List.range (tyK p.ty)).any (contributes p w.guardBits) then
      t.writeV w.d.toNat (mapSubs (tyW p.ty) (contributes p w.guardBits) (t.heldV w.d.toNat) (treeElem p ps us me))
    else t
  | _, _ => t

/-- The payload of a completing phase (R208): read, combined and written for every participant; none where the shadow unit disagrees
with an addition (R361). -/
def payloadPhase (s : State) (k : TeamKey) (b : Nat) (tag : BitVec 16) : Option State :=
  let p := readTag tag
  let ts := participants s k b
  let ps := ts.filterMap (fun t => t.barrier.map (fun w => ({ tid := t.key.tid, wait := w, src := t.heldV w.a.toNat } : Participant)))
  let us := treeUpsets s ts
  if treeBad p ps us then none
  else
    let s := if p.op == 6 then ts.foldl (fun s t => spendUpsets s (coreOf t) [t.key.tid]) s else s
    some ((ts.map (payloadWrite p ps us)).foldl State.putThr s)

/-- A phase that the shadow unit disagrees with (R361): nobody writes, the phase does not complete, and every participant's 0x28
escalates. -/
def phaseMismatch (s : State) (k : TeamKey) (b die : Nat) : State :=
  let ts := participants s k b
  let s := ts.foldl (fun s t => spendUpsets s (coreOf t) [t.key.tid]) s
  let s := s.modTeam k (fun t => { t with met := t.met &&& ~~~(BitVec.ofNat 16 (2 ^ b)) })
  let s := s.modDie die (fun d => { d with shcnt := satInc d.shcnt })
  escalateAll (mayRollBack s k) s k die (ts.map (fun t => (t.key.tid,
    { cause := 0x28, detail := 0, addr := 0, wr := false, src := 0, rp := t.pc, rc := t.cpos, repa := t.repActive, repc := t.repc })))

/-- Whether a thread of a team has a long-latency operation or engine command outstanding (R366). -/
def teamBusy (s : State) (k : TeamKey) : Bool := s.ms.reqs.any (fun q => q.thr.team == k) || s.ops.any (fun o => o.team == k)

/-- Whether a thread that leaves barrier b as its phase bit becomes `phase` at the end of a payload phase has the lines this takes: its
control line, and those of its source and its destination (R73, R208). -/
def linesThere (b : Nat) (phase : Bool) (t : Thread) : Bool :=
  !waitsFor b phase t || t.releaseAt.isSome || (t.st == .barrierWait && lineHeld t 0 && match t.barrier with
    | some w => !w.payload || (lineHeld t (w.a.toNat / 8 + 1) && lineHeld t (w.d.toNat / 8 + 1))
    | none => true)

/-- Whether a member that has arrived in a payload phase of barrier b stands there, or is in its handler (R45, R331; log entry 67). -/
def standsThere (b : Nat) (bar : Barrier) (t : Thread) : Bool :=
  !arrivedNow b bar t || t.tact || (match t.barrier with
    | some w => w.bar == b && w.payload
    | none => false)

/-- Whether a phase of barrier b that has met the test may complete now: a logging team has nothing outstanding (R366), and in a payload
phase its participants stand at their instruction with their lines there (R208). A phase with no payload completes as soon as it has met
the test (R45). -/
def phaseReady (s : State) (k : TeamKey) (b : Nat) : Bool :=
  match s.team? k, s.launch? k.lid with
  | some t, some l =>
    let bar := t.bar b
    t.met.getLsbD b && !(l.rbk && b < 8 && teamBusy s k) &&
      (bar.tag = 0 || (s.members k).all (fun x => linesThere b (!bar.phase) x && standsThere b bar x))
  | _, _ => false

/-- Completes the phases of barrier b that may complete (R45, R208, R366): payload written, count to zero, phase inverted, tag cleared,
waiters released, and for b0 to b7 of a logging team a checkpoint. Pending second arrivals may complete the next. -/
def completePhases : Nat → State → TeamKey → Nat → State
  | 0, s, _, _ => s
  | fuel + 1, s, k, b =>
    if phaseReady s k b then
      match s.team? k with
      | none => s
      | some t =>
        let bar := t.bar b
        match (if bar.tag = 0 then some s else payloadPhase s k b bar.tag) with
        | none => phaseMismatch s k b (dieOfCluster (t.cluster.getD 0))
        | some s =>
          let s := s.modTeam k (fun t => { t with bars := vset t.bars b { count := 0, phase := !bar.phase, tag := 0 },
                                                  met := t.met &&& ~~~(BitVec.ofNat 16 (2 ^ b)) })
          let s := releaseWaiters s k b (!bar.phase)
          let s := if b < 8 then checkpoint s k else s
          completePhases fuel (noteMet s k b) k b
    else s

/-- The phases of a team that have met the test, completed where they may (R45, R366). -/
def tryAll (s : State) (k : TeamKey) : State :=
  match s.team? k with
  | some t => ((List.range 16).filter t.met.getLsbD).foldl (fun s b => completePhases 3 s k b) s
  | none => s

/-- Whether a thread's control line, or a line of its payload, is awaited by a phase that has met the test. -/
def phaseNeeds (s : State) (t : Thread) : Bool :=
  match t.barrier, s.team? t.key.team with
  | some w, some tm => tm.met.getLsbD w.bar && (tm.bar w.bar).tag != 0 && t.releaseAt.isNone && waitsFor w.bar (!(tm.bar w.bar).phase) t
  | _, _ => false

/-- The lines of a thread that such a phase awaits. -/
def phaseLines (s : State) (t : Thread) : List Nat :=
  if phaseNeeds s t then
    match t.barrier with
    | some w => 0 :: (if w.payload then [w.a.toNat / 8 + 1, w.d.toNat / 8 + 1].eraseDups else [])
    | none => []
  else []

/-- An arrival of member t on barrier b (R45), with the tag of a payload (R209); the phase test comes next. -/
def recordArrival (s : State) (k : ThrKey) (b : Nat) (tag : BitVec 16) : State :=
  match s.team? k.team with
  | none => s
  | some tm =>
    let bar := tm.bar b
    let s := s.modThr k (arrive b bar.phase)
    let s := s.modTeam k.team (fun t => { t with bars := vset t.bars b { bar with count := bar.count + 1, tag := tag } })
    completePhases 3 (noteMet s k.team b) k.team b

/-- A member put into Barrier wait at its instruction (R45, R208). -/
def enterWait (s : State) (k : ThrKey) (w : BarWait) : State :=
  s.modThr k (fun t => { t with st := .barrierWait, barrier := some w })

/-- The state of a barrier as a member meets it. -/
def barOf (s : State) (k : TeamKey) (b : Nat) : Barrier := match s.team? k with
  | some t => t.bar b
  | none => Barrier.zero

/-- The wait record of a member at a barrier instruction. -/
def mkWait (cx : Ctx) (b : Nat) (payload second : Bool) (e : FR) (g : Byte) : BarWait :=
  { bar := b, payload := payload, d := e.d, a := e.a, guardBits := g, second := second, count := hCount cx.hdr }

/-- The checks of a barrier instruction that ignore guards (R207, R327): a team without barriers, and the role. -/
def barrierCheck (cx : Ctx) (b : Nat) (waits : Bool) (t : Thread) : Option Nat :=
  if !ownsBarriers cx.team.key cx.launch then some 0x05
  else if b < 8 then none
  else if (if waits then arriver b t else !arriver b t) then some 0x0A else none

/-- bar.arr (R45, R207, R209). -/
def execBarArr (f : FR) (s : State) : Out :=
  issue s (fun cx => .barArr (cx.fr f)) (fun cx =>
    eachMember s cx (fun s t =>
      let b := (cx.fr f).c.toNat
      let bar := barOf s cx.team.key b
      match barrierCheck cx b false t with
      | some c => trapMember s cx t c
      | none =>
        if !enabled t f.g then (s, .adv)
        else if bar.tag != 0 then trapMember s cx t 0x0B
        else if arrivedNow b bar t then (enterWait s t.key (mkWait cx b false true (cx.fr f) 0), .gone)
        else (recordArrival s t.key b 0, .adv)))

/-- bar.wait (R45, R207). -/
def execBarWait (f : FR) (s : State) : Out :=
  issue s (fun cx => .barWait (cx.fr f)) (fun cx =>
    eachMember s cx (fun s t =>
      let b := (cx.fr f).c.toNat
      let bar := barOf s cx.team.key b
      match barrierCheck cx b (8 ≤ b) t with
      | some c => trapMember s cx t c
      | none =>
        if !enabled t f.g then (s, .adv)
        else if bar.phase != t.bpar.getLsbD b then (s.modThr t.key (invertParity b), .adv)
        else (enterWait s t.key (mkWait cx b false false (cx.fr f) 0), .gone)))

/-- What one member of bar.red or bar.scan does (R45, R208, R209). -/
def payloadMember (cx : Ctx) (f e : FR) (scan : Bool) (s : State) (t : Thread) : State × Fin :=
  let b := e.c.toNat
  let bar := barOf s cx.team.key b
  let tag := BitVec.ofNat 16 (payloadTag e scan)
  let w := mkWait cx b true false e (guardVal t f.g)
  if !ownsBarriers cx.team.key cx.launch then trapMember s cx t 0x05
  else if (bar.tag != 0 && bar.tag != tag) || (bar.tag == 0 && bar.count != 0) then trapMember s cx t 0x0B
  else if arrivedNow b bar t then (enterWait s t.key w, .gone)
  else (recordArrival (enterWait s t.key w) t.key b tag, .gone)

/-- Whether a payload instruction must stall for an outstanding write to its a or d register (R208). -/
def payloadHeld (s : State) (e : FR) (ts : List Thread) : Bool := held161 s (fun _ => [e.a.toNat, e.d.toNat]) ts

/-- bar.red (R208). -/
def execBarRed (f : FR) (s : State) : Out :=
  issue s (fun cx => .barRed (cx.fr f)) (fun cx =>
    if payloadHeld s (cx.fr f) cx.ts then s else eachMember s cx (payloadMember cx f (cx.fr f) false))

/-- bar.scan (R208). -/
def execBarScan (f : FR) (s : State) : Out :=
  issue s (fun cx => .barScan (cx.fr f)) (fun cx =>
    if payloadHeld s (cx.fr f) cx.ts then s else eachMember s cx (payloadMember cx f (cx.fr f) true))

end Sys2Proof.Machine
end

