-- ==== Sys2Proof/Machine/Control.lean ====
section
/-!
DEFINITION. Control transfer, exit, yield, REP, waits, traps and special registers (R149, R186 to R188, R213 to R218).
-/

namespace Sys2Proof.Machine

/-- A control instruction under enabled(0) (R186): a member that transfers goes to its target at position 0; a target with bits
[63:48] set raises the address-range trap, with no transfer (R339); the others continue at the following clause. -/
def transfer (s : State) (cx : Ctx) (g : Guard) (target : Thread → Word) (link : Thread → Thread) : State :=
  let one := fun (acc : State × List (Nat × Fin)) (t : Thread) =>
    let x := target t
    if !enabled t g then (acc.1, acc.2 ++ [(t.key.tid, .adv)])
    else if bits x 63 48 != 0 then
      (raise acc.1 t.key { cx.info t 0x10 with addr := x.toNat }, acc.2 ++ [(t.key.tid, .gone)])
    else (acc.1.modThr t.key link, acc.2 ++ [(t.key.tid, .jump (BitVec.ofNat 64 (x.toNat / 8 * 8)) 0)])
  let r := cx.ts.foldl one (s, [])
  commit r.1 cx r.2

/-- The target of bra and call: H + 8 × sext(IMM36) (R145). -/
def relativeTarget (cx : Ctx) (f : FI) : Word := cx.g.h + 8 * f.imm.signExtend 64

/-- bra (R186). -/
def execBra (f : FI) (s : State) : Out :=
  issue s (fun cx => .bra (cx.fi f)) (fun cx => transfer s cx f.g (fun _ => relativeTarget cx f) id)

/-- call (R186): the link register takes the address of the following clause. -/
def execCall (f : FI) (s : State) : Out :=
  issue s (fun cx => .call (cx.fi f)) (fun cx =>
    if held161 s (fun t => if enabled t f.g then [f.d.toNat] else []) cx.ts then s
    else transfer s cx f.g (fun _ => relativeTarget cx f) (fun t => t.writeV f.d.toNat cx.nextClause))

/-- brx (R186): the sum of a and the swizzled b. -/
def execBrx (f : FR) (s : State) : Out :=
  issue s (fun cx => .brx (cx.fr f)) (fun cx =>
    transfer s cx f.g (fun t => s.readV t.key f.a.toNat + swizzled s t cx.a f.swz.toNat f.b.toNat) id)

/-- ret (R186). -/
def execRet (f : FR) (s : State) : Out :=
  issue s (fun cx => .ret (cx.fr f)) (fun cx => transfer s cx f.g (fun t => s.readV t.key f.a.toNat) id)

/-- exit (R187): each enabled member becomes Exited, and the phases its leaving completes complete (R45). -/
def execExit (f : FS) (s : State) : Out :=
  issue s (fun cx => .exit (cx.fs f)) (fun cx =>
    eachMember s cx (fun s t => if enabled t f.g then (tryAll (exitThread s t.key) cx.team.key, .gone) else (s, .adv)))

/-- yield (R188): the wait begins when the group completes the clause. Of two yields of a member in one clause the later holds (the model's
choice; log entry 68). -/
def execYield (f : FS) (s : State) : Out :=
  issue s (fun cx => .yield (cx.fs f)) (fun cx =>
    eachMember s cx (fun s t =>
      if enabled t f.g then (s.modThr t.key (fun t => { t with yieldUntil := some f.code.toNat, yieldHint := false }), .adv)
      else (s, .adv)))

/-- The REP fields a rep loads (R149). -/
def loadRep (imm : BitVec 36) (t : Thread) : Thread :=
  let x := imm.toNat
  { t with repa := true, repc := 0, repn := x % 64, repsd := BitVec.ofNat 2 (x / 64), repsa := BitVec.ofNat 2 (x / 256),
           repsb := BitVec.ofNat 2 (x / 1024), repsc := BitVec.ofNat 2 (x / 4096) }

/-- rep (R149); while TACT is 1 it raises illegal-instruction (R329). -/
def execRep (f : FI) (s : State) : Out :=
  issue s (fun cx => .rep (cx.fi f)) (fun cx =>
    eachMember s cx (fun s t => if t.tact then trapMember s cx t 0x02 else (s.modThr t.key (loadRep f.imm), .next)))

/-- waitt (R213): a member whose deadline has not come waits outside the group. -/
def execWaitt (f : FS) (s : State) : Out :=
  issue s (fun cx => .waitt (cx.fs f)) (fun cx =>
    eachMember s cx (fun s t =>
      let deadline := (s.readV t.key (cx.fs f).a.toNat).toNat
      if !enabled t f.g || deadline ≤ s.gtime t.vd then (s, .adv)
      else (s.modThr t.key (fun t => { t with waitUntil := some (deadline, hCount cx.hdr) }), .stay)))

/-- The trap of a member that has completed this instruction: it names the next one (R216, R328). -/
def afterInfo (cx : Ctx) (t t' : Thread) (cause code : Nat) : TrapInfo :=
  { cx.info t cause with detail := code, rp := t'.pc, rc := t'.cpos }

/-- A member completes the instruction and raises a trap with a code (R216). -/
def completeAndTrap (cx : Ctx) (cause code : Nat) (s : State) (t : Thread) : State × Fin :=
  let t' := advance cx.g.h (hCount cx.hdr) cx.g.pos t
  (raise (s.putThr t') t.key (afterInfo cx t t' cause code), .gone)

/-- trap (R216). -/
def execTrap (f : FS) (s : State) : Out :=
  issue s (fun cx => .trap (cx.fs f)) (fun cx =>
    eachMember s cx (fun s t => if enabled t f.g then completeAndTrap cx 0x20 f.code.toNat s t else (s, .adv)))

/-- Whether a device's breakpoints are armed (R217, R340). -/
def breakArmed (s : State) (v : Nat) : Bool := bit (vget (s.vd v).dbg 1 0) 0

/-- The cycle count of a group's die. -/
def Ctx.cyc (cx : Ctx) (s : State) : Nat := (s.die cx.die).cyc

/-- A member enters Halted with a cause it reports (R341): its lines are written back when the halt entry completes. -/
def haltMember (code : Option Nat) (t : Thread) : Thread :=
  { t with st := .halted, haltReq := true, brkCode := code, lines := vset t.lines 0 .dirty }

/-- BUSY of a device's debug block. -/
def debugBusy (s : State) (v : Nat) : Bool := bit (vget (s.vd v).dbg 6 0) 0
def setDebugBusy (s : State) (v : Nat) (b : Bool) : State :=
  s.modVd v (fun d => { d with dbg := vset d.dbg 6 (setBits (vget d.dbg 6 0) 0 0 (b2n b)) })

/-- Whether a thread asked to halt has yet to reach Halted, Exited or one of the waits of R341. -/
def halting (t : Thread) : Bool := t.haltReq && (t.st == .unstarted || t.st == .runnable)

/-- The live threads of some teams that have not halted are asked to halt, and BUSY is set while one has yet to (R340, R341). -/
def askHalt (s : State) (v : Nat) (mine : TeamKey → Bool) : State :=
  let s := { s with threads := s.threads.map (fun t =>
    if mine t.key.team && t.st != .exited && t.st != .halted then { t with haltReq := true } else t) }
  if s.threads.any (fun t => mine t.key.team && halting t) then setDebugBusy s v true else s

/-- Under TEAMHALT the halt of one thread acts as command 1 for its team (R340, R342). -/
def teamHalt (s : State) (v : Nat) (k : ThrKey) : State :=
  if bit (vget (s.vd v).dbg 1 0) 1 then askHalt s v (· == k.team) else s

/-- brk (R217): halted past the instruction where breakpoints are armed, else the breakpoint trap. -/
def execBrk (f : FS) (s : State) : Out :=
  issue s (fun cx => .brk (cx.fs f)) (fun cx =>
    eachMember s cx (fun s t =>
      if !enabled t f.g then (s, .adv)
      else if breakArmed s cx.vd then
        (teamHalt (s.putThr (haltMember (some f.code.toNat) (passAt (cx.cyc s) cx.g.h (hCount cx.hdr) cx.g.pos t))) cx.vd t.key, .gone)
      else completeAndTrap cx 0x21 f.code.toNat s t))

/-- eret (R218): with TACT 0 it raises illegal-instruction; else the member returns, and with its clause so ended a pending yield starts
(R188). Its target is checked when its clause is fetched. -/
def execEret (f : FS) (s : State) : Out :=
  issue s (fun cx => .eret (cx.fs f)) (fun cx =>
    eachMember s cx (fun s t =>
      if !enabled t f.g then (s, .adv)
      else if !t.tact then trapMember s cx t 0x02
      else (s.modThr t.key (fun t => startYield (cx.cyc s) (returnFromTrap t)), .gone)))

/-- The value of a special register for a member (R29, R214). -/
def sregValue (s : State) (cx : Ctx) (t : Thread) (code : Nat) : Nat :=
  let d := s.vd cx.vd
  match code with
  | 0x0001 => t.key.tid
  | 0x0002 => t.key.team.num
  | 0x0003 => if t.key.team.spawned then 0 else cx.launch.grid
  | 0x0004 => b2n t.consumer
  | 0x0005 => t.key.tid % 32
  | 0x0006 => cx.die
  | 0x0007 => cx.cluster
  | 0x0010 => s.gtime cx.vd
  | 0x0011 => ((s.die cx.die).cyc + (d.word (9 + cx.die)).toNat) % 2 ^ 64
  | 0x0012 => ((s.die cx.die).ncyc + (d.word (11 + cx.die)).toNat) % 2 ^ 64 / 2 ^ 16
  | _ => cx.vd

/-- movs (R214). -/
def execMovs (f : FS) (s : State) : Out :=
  datapath s (fun cx => .movs (cx.fs f)) (fun _ _ => [])
    (fun cx t => if enabled t f.g then t.writeV (cx.fs f).d.toNat (BitVec.ofNat 64 (sregValue s cx t f.code.toNat)) else t)

/-- The offset that makes a counter read x on a die now (R215). -/
def counterOffset (s : State) (die code : Nat) (x : Word) : Word :=
  if code = 0x11 then x - BitVec.ofNat 64 (s.die die).cyc else x * 2 ^ 16 - BitVec.ofNat 64 (s.die die).ncyc

/-- The word of the virtual-device table that holds the offset of CYC (0x11) or NCYC on a group's die (R215, R268). -/
def offsetWord (cx : Ctx) (code : Nat) : Nat := (if code = 0x11 then 9 else 11) + cx.die

/-- Whether a group of a core with a higher number has written an offset of the device in this very die cycle: its write comes after this
group's, whatever the order the model steps them in (R215). -/
def laterMovt (s : State) (cx : Ctx) (w : Nat) : Bool :=
  match look w (s.vd cx.vd).lastMovt with
  | some (cyc, core) => cyc = cx.cyc s && cx.core < core
  | none => false

/-- movt (R215); it makes a logging interval ineligible (R369). -/
def execMovt (f : FS) (s : State) : Out :=
  issue s (fun cx => .movt (cx.fs f)) (fun cx =>
    let s := if cx.ts.any (fun t => enabled t f.g) then markIneligible s cx.team.key else s
    let w := offsetWord cx f.code.toNat
    let late := laterMovt s cx w
    eachMember s cx (fun s t =>
      if enabled t f.g && !late then
        let x := counterOffset s cx.die f.code.toNat (s.readV t.key (cx.fs f).a.toNat)
        (s.modVd cx.vd (fun d => { d with w := vset d.w w x, lastMovt := put w (cx.cyc s, cx.core) d.lastMovt }), .adv)
      else (s, .adv)))

end Sys2Proof.Machine
end

