-- ==== Sys2Proof/Machine/Faults.lean ====
section
/-!
DEFINITION. Faults on translation (R76, R114, R115, R326, R333, R334): which cause an access raises, where its record goes, what
is held, and how a held tier fault asks for the promotion of its plot (R285, R352, R353).
-/

namespace Sys2Proof.Machine

/-! Plots. -/

/-- The state with a plot changed. -/
def State.modPlot (s : State) (h : Nat) (f : Plot → Plot) : State :=
  { s with mg := { s.mg with plots := s.mg.plots.map (fun p => if p.1 = h then (p.1, f p.2) else p) } }

/-- A plot's PSTATE changed (R285). -/
def State.setPstate (s : State) (h st : Nat) : State := s.modPlot h (fun p => p.set 0 63 61 st)

/-- Sixteen leaves of one mapper rewritten, their other bits kept (R285): to the handle, or to the frame. Leaves in a poisoned sector, of
which no bit can be kept, stay as they are (R347, R348). -/
def rewriteLeaves (s : State) (leaf : Nat) (held : Bool) (x : Nat) : State :=
  let s := partialPoison s 0 (sectorsOf leaf 128) []
  (List.range 16).foldl (fun s i =>
    let w := s.dpaWord (leaf + 8 * i)
    let addr := if held then x else 16 * x + i
    if s.poisoned (leaf + 8 * i) then s else s.pokeBytes (leaf + 8 * i) (leBytes 8 (setBits (setBits w 51 12 addr) 1 0 (if held then 3 else 2)).toNat)) s

/-- Whether a home that holds a mapper's leaves is in time fault and takes no write of them (R351). -/
def leavesHeld (s : State) (p : Plot) : Bool := p.mappers.any (fun m => homeHolds s m.2)

/-- Every mapper's leaves to KIND 0b11 with the handle, or back to KIND 0b10 with the frame (R285). -/
def mapPlot (s : State) (h : Nat) (held : Bool) : State :=
  match look h s.mg.plots with
  | none => s
  | some p => p.mappers.foldl (fun s m => rewriteLeaves s m.2 held (if held then h else p.frame)) s

/-- The half of a 64 KiB frame, whose number is DPA[51:16] (R111). -/
def halfOfFrame (frame : Nat) : Nat := if frame < 0x300000 then 0 else 1

/-! Causes. -/

/-- The cause an access's translation failure raises and whether it is replayable (R326, R353). A walk that its home holds waits with
cause 0 and no record (R351; log entry 64); one that meets a poisoned descriptor raises poisoned-data (R348; log entry 63). -/
def xCause (s : State) : XErr → Nat × Bool
  | .homeHolds _ => (0, true)
  | .poison _ => (0x1C, false)
  | .s1Trans _ => (0x30, true)
  | .s1Perm _ => (0x13, false)
  | .s2Trans _ => (0x33, true)
  | .s2Perm _ => (0x14, false)
  | .reservedDpa _ => (0x15, false)
  | .tier _ h => match (look h s.mg.plots).map Plot.state with
    | some 5 => (0x1C, false)
    | some 6 => (0x1D, false)
    | _ => (0x34, true)

/-- The guest-physical address a record to Pelelo names (R332). -/
def xGpa : XErr → Nat
  | .s1Trans a | .s1Perm a | .s2Trans a | .s2Perm a | .reservedDpa a | .tier a _ | .homeHolds a | .poison a => a

/-- What a permission fault or a reserved address posts beside its trap: the fault-queue record of a stage-1 permission fault
(R333), and the record Pelelo receives of a stage-2 one or a reserved address (R111, R332). Where the trap itself ends its member, its
record is that of the permission fault too (log entry 57). -/
def permReport (s : State) (v : Nat) (info : TrapInfo) (k : ThrKey) (e : XErr) : State :=
  match e with
  | .s1Perm _ => if (info.src = 0 || info.src = 5) && trapEnds s k then s
      else fqPost s v (mkRec { info with cause := 0x13 } false k.tid k.team.num) none
  | .s2Perm g => s.toStream v (mkRec { info with cause := 0x14, addr := g } false k.tid k.team.num)
  | .reservedDpa g => s.toStream v (mkRec { info with cause := 0x15, addr := g } false k.tid k.team.num)
  | _ => s

/-! Retrying what a fault held (R334). -/

/-- A thread goes on from Parked at its position (R30), back in the Barrier wait it stood in when a context line faulted (R76); where an
access was held, its next one is the retry. -/
def unpark (retry : Bool) (t : Thread) : Thread :=
  if t.st == .parked then
    { t with st := if t.barrier.isSome then .barrierWait else if t.haltReq then .halted else .runnable, retrying := retry, lines := touched t.lines }
  else t

/-- Releases a held fault for another try (R333, R334). A command rejoins the end of its engine's rotation. -/
def retryHeld (s : State) (id : Nat) : State :=
  match s.ms.held.find? (fun h => h.id == id) with
  | none => s
  | some h =>
    let s := { s with ms := { s.ms with held := s.ms.held.filter (fun x => x.id != id) } }
    match h.what with
    | .member k | .musts k => s.modThr k (unpark true)
    | .vectorLine k _ => s.modThr k (unpark false)
    | .members ks => ks.foldl (fun s k => s.modThr k (unpark true)) s
    | .fetch ks => ks.foldl (fun s k => s.modThr k (unpark false)) s
    | .controlLine k => s.modThr k (fun t => { t with faultPending := false })
    | .command op =>
      let (a, b) := s.ops.partition (fun o => o.id != op)
      { s with ops := a ++ b.map (fun o => if o.phase == .held then { o with phase := .queued } else o) }
    | _ => s

/-- Holds an operation: the id it is held under. -/
def addHeld (s : State) (v : Nat) (what : HeldWhat) (info : TrapInfo) (tid team : Nat) : Nat × State :=
  (s.nextId, { s with nextId := s.nextId + 1,
                      ms := { s.ms with held := s.ms.held ++ [{ id := s.nextId, vd := v, what := what, info := info, tid := tid,
                                                                team := team, index := none }] } })

/-- Whether something is held under a mark. -/
def isHeld (s : State) (what : HeldWhat) : Bool := s.ms.held.any (fun h => h.what == what)

/-- Whether a home of a frame's lines is in time fault and serves nothing (R351). -/
def frameHeld (s : State) (frame : Nat) : Bool :=
  (List.range 4).any (fun m => mdHolds s (4 * halfOfFrame frame + m))

/-- The promotions of a half that wait for a frame (R285), and the frame the next of them is given: one that can be zeroed now. -/
def frameWaiters (s : State) (half : Nat) : List (Nat × Plot) :=
  s.mg.plots.filter (fun p => p.2.state = 4 && !p.2.alloc && halfOfFrame p.2.frame = half)
def freeFrame (s : State) (half : Nat) : Option Nat := s.mg.freeFrames.find? (fun f => halfOfFrame f = half && !frameHeld s f)

/-- A frame of HBM written with zero (R282). -/
def zeroFrame (s : State) (frame : Nat) : State :=
  { s with ms := { s.ms with mem := s.ms.mem.filter (fun c => c.1 / 65536 ≠ frame), poison := s.ms.poison.filter (fun x => x / 1024 ≠ frame),
                             badSymbols := s.ms.badSymbols.filter (fun b => b.1 / 1024 ≠ frame) } }

/-- A plot on its way to a new frame stays dirty where its last frame was (R287, R288; log entry 75). -/
def carryDirty (frame : Nat) (p : Plot) (s : State) (m : Nat × Nat) : State :=
  let d := s.vd m.1
  if d.dben && !s.poisoned (d.dbbase + p.frame / 8) && (memRead s.ms.mem (d.dbbase + p.frame / 8)).getLsbD (p.frame % 8) then s.markDirty m.1 (frame * 65536) else s

/-- A promotion is given its frame (R285), zeroed before any device maps it (R282). -/
def giveFrame (s : State) (h frame : Nat) : State :=
  let s := match look h s.mg.plots with
    | some p => p.mappers.foldl (carryDirty frame p) (zeroFrame s frame)
    | none => zeroFrame s frame
  let s := s.modPlot h (fun p => { p.set 0 35 0 frame with alloc := true })
  { s with mg := { s.mg with freeFrames := s.mg.freeFrames.erase frame } }

/-- The promotion of a half that began to wait first. -/
def firstWaiter (s : State) (half : Nat) : Option Nat :=
  ((frameWaiters s half).foldl (fun (b : Option (Nat × Plot)) p => match b with
    | some q => if q.2.askedAt ≤ p.2.askedAt then some q else some p
    | none => some p) none).map (·.1)

/-- Freed frames of a half go to its waiting promotions in the order in which they began to wait (R285). -/
def grantFrames (half : Nat) : Nat → State → State
  | 0, s => s
  | n + 1, s =>
    match firstWaiter s half, freeFrame s half with
    | some h, some f => grantFrames half n (giveFrame s h f)
    | _, _ => s

/-- The promotions of a device that are under way, whose frames its HBM quota must hold (R285). -/
def promoting (s : State) (v : Nat) : Nat :=
  (s.mg.plots.filter (fun p => p.2.state = 4 && !p.2.shared && p.2.mappers.any (fun m => m.1 = v))).length

/-- The request that pulls a plot of a device from its migration source (R289, R293). -/
def pullRequest (s : State) (p : Plot) : State :=
  match p.mappers with
  | m :: _ =>
    let r : MigRecord := { kind := 9, gpa := p.gpaIn m.1, poison := false, payload := [], crc := 0 }
    { s with mg := { s.mg with sent := s.mg.sent ++ [((s.vd m.1).transport, r)] } }
  | [] => s

/-- A held plot's promotion for a device, quota permitting (R285): state 4, or none; a frame of its half is allocated, or frame pressure
reported. -/
def startPromotion (s : State) (v h : Nat) : Option State :=
  match look h s.mg.plots with
  | none => none
  | some p =>
    let d := s.vd v
    if !p.shared && bits (d.word 5) 31 0 < bits (d.word 6) 31 0 + promoting s v + 1 then none
    else
      let half := halfOfFrame p.frame
      let first := (frameWaiters s half).isEmpty
      let none_ := !(s.mg.freeFrames.any (fun f => halfOfFrame f = half))
      let s := (s.setPstate h 4).modPlot h (fun p => { p with askedAt := s.now, attempts := 0, pulled := false, alloc := false })
      let s := if p.remote then pullRequest s p else s
      some (match (if first then freeFrame s half else none) with
        | some f => giveFrame s h f
        | none => if none_ || !first then s.event v 4 half h else s)

/-- An eviction that a promotion withdrew goes to the tail of the queue (R285). -/
def requeueEviction (s : State) (h : Nat) : State :=
  let s := s.modPlot h (fun p => { p.set 0 63 61 0 with notBefore := s.now + 4096 })
  { s with mg := { s.mg with evictions := s.mg.evictions.filter (· != h) ++ [h] } }

/-- A promotion withdraws an active eviction (R285): the leaves are restored to the frame, which is intact, once their homes take them
(R351). -/
def withdrawEviction (s : State) (h : Nat) : State :=
  match s.plot? h with
  | some p => if leavesHeld s p then s.modPlot h (fun p => { p with withdrawn := true })
      else requeueEviction ((mapPlot s h false).modPlot h (fun p => { p with withdrawn := false })) h
  | none => s

/-- A promotion request meets the state of its plot (R285), for a device; the state says whether it is refused. -/
def requestPromotion (s : State) (v h : Nat) : Bool × State :=
  match (look h s.mg.plots).map Plot.state with
  | some 1 => (true, requeueEviction s h)
  | some 2 => (true, withdrawEviction s h)
  | some 3 => (match startPromotion s v h with
      | some s => (true, s)
      | none => (false, s.event v 3 h 0))
  | some 0 => (true, s)
  | some 4 => (true, s)
  | _ => (false, s)

/-- What a released access is known by until it has performed (R285): progress of a command, the kick, the count of records. -/
def owedMark (s : State) : HeldWhat → Nat
  | .command op => (match s.ops.find? (fun o => o.id = op) with
      | some o => o.prog
      | none => 0)
  | .kickRead v j => (match ((s.vd v).queue j).kicks with
      | k :: _ => k.addr.toNat
      | [] => 0)
  | .fqWrite v => (s.vd v).fqhead.toNat
  | .dependence v j _ => (((s.vd v).queue j).pend.head?).getD 0
  | _ => 0

/-- Whether a released access has yet to perform (R285); the read of a counter has when its report says so (`depRead`). -/
def stillOwed (s : State) (frame : Nat) (x : HeldWhat × Nat) : Bool :=
  let runs := fun (k : ThrKey) => (match s.thr? k with
    | some t => t.st != .exited && t.st != .parked && t.retrying
    | none => false) || s.ms.reqs.any (fun q => q.thr == k && q.retried && q.phase == .issued && q.dpa / 65536 = frame)
  let stands := fun (k : ThrKey) => (match s.thr? k with
    | some t => t.st == .runnable && !(s.cores.any (fun c => match c.2.slot with
        | some g => g.team == k.team && g.members.contains k.tid
        | none => false))
    | none => false)
  match x.1 with
  | .member k | .musts k => runs k
  | .members ks => ks.any runs
  | .fetch ks => ks.any stands
  | .vectorLine k n => (match s.thr? k with
      | some t => t.st != .exited && t.st != .parked && !lineHeld t n
      | none => false)
  | .controlLine k => (match s.thr? k with
      | some t => t.st != .exited && !t.faultPending && !lineHeld t 0
      | none => false)
  | .command op => s.ops.any (fun o => o.id = op && o.phase == .queued && o.prog = x.2)
  | .kickRead v j => (match ((s.vd v).queue j).kicks with
      | k :: _ => k.addr.toNat = x.2
      | [] => false)
  | .dependence v j n => s.launches.any (fun l => l.lid = x.2 && l.vd = v && l.j = j && l.phase == .pending && !vget l.deps n true)
  | .outside id => s.mg.bar2.any (fun w => w.id = id)
  | .completion lid => s.launches.any (fun l => l.lid = lid && l.phase == .counting)
  | .mustOfLaunch lid => s.launches.any (fun l => l.lid = lid && l.phase == .pending && !l.mustOk)
  | .writeBack id => s.ms.wbs.any (fun w => w.id = id && w.tw = 0)
  | .blockRead k => s.teams.any (fun t => t.key == k && t.cluster.isNone)
  | .binRead lid n => s.launches.any (fun l => l.lid = lid && l.savedBins.contains n)
  | .fqWrite v => !(s.vd v).fqWait.isEmpty && (s.vd v).fqhead.toNat = x.2

/-- The plots whose released accesses have all performed: 4,096 ns from now their evictions may reach the engine (R285). -/
def settleWaiters (s : State) : State :=
  if s.mg.plots.all (fun p => p.2.waiters.isEmpty) then s
  else
    let one := fun (p : Plot) =>
      if p.waiters.isEmpty then p
      else
        let left := p.waiters.filter (stillOwed s p.frame)
        { p with waiters := left, notBefore := if left.isEmpty then s.now + 4096 else p.notBefore }
    { s with mg := { s.mg with plots := s.mg.plots.map (fun p => (p.1, one p.2)) } }

/-- The read of a counter has performed: no eviction waits for it any more (R285). -/
def depRead (s : State) (v j n : Nat) : State :=
  let keep := fun (x : HeldWhat × Nat) => x.1 != HeldWhat.dependence v j n
  if s.mg.plots.all (fun p => p.2.waiters.all keep) then s
  else
    let one := fun (p : Plot) =>
      let left := p.waiters.filter keep
      { p with waiters := left, notBefore := if left.isEmpty && !p.waiters.isEmpty then s.now + 4096 else p.notBefore }
    { s with mg := { s.mg with plots := s.mg.plots.map (fun p => (p.1, one p.2)) } }

/-- The accesses held on a plot are retried (R285); where its eviction was withdrawn for them, they are awaited. -/
def releasePlot (s : State) (h : Nat) : State :=
  match look h s.mg.plots with
  | none => s
  | some p =>
    let whats := s.ms.held.filter (fun x => p.requesters.contains x.id)
    let outside := (s.mg.bar2.filter (fun w => w.plot == some h)).map (fun w => (HeldWhat.outside w.id, 0))
    let owed := if s.mg.evictions.contains h then whats.map (fun x => (x.what, owedMark s x.what)) ++ outside else []
    (p.requesters.foldl retryHeld s).modPlot h (fun p => { p with requesters := [], waiters := p.waiters ++ owed })

/-- The pending requests of one kind for a plot come to an end with a status. -/
def tierAnswer (s : State) (h : Nat) (evict : Bool) (st : Nat) : State :=
  { s with vds := s.vds.map (fun p => if p.2.tierreq == some (h, evict) then (p.1, { p.2 with tierst := BitVec.ofNat 2 st, tierreq := none }) else p) }

/-- Withdrawn evictions whose leaves' homes take them now. -/
def settleRecalls (s : State) : State :=
  ((s.mg.plots.filter (fun p => p.2.withdrawn && !leavesHeld s p.2)).map (·.1)).foldl (fun s h =>
    releasePlot (tierAnswer (withdrawEviction s h) h false 0) h) s

/-- What a step leaves due at the plots: leaves restored, freed frames given out, released accesses seen to perform. -/
def settlePlots (s : State) : State :=
  let s := settleRecalls s
  let s := grantFrames 0 (frameWaiters s 0).length s
  settleWaiters (grantFrames 1 (frameWaiters s 1).length s)

/-- A tier fault's request (R285, R334): the access waits on its plot; its record reaches Pelelo only where the promotion is not
started at once. A withdrawn eviction leaves the frame intact, and the access is retried. -/
def tierFault (s : State) (v h id : Nat) (r : Rec) : State :=
  let s := s.modPlot h (fun p => { p with requesters := p.requesters ++ [id] })
  let (ok, s) := requestPromotion s v h
  let s := if ok then s else s.toStream v r
  match (look h s.mg.plots).map Plot.state with
  | some 0 => releasePlot s h
  | _ => s

/-- Holds a replayable fault and posts its record: stage 1 to the fault queue, stage 2 to Pelelo, a tier fault to the tier
engine (R76, R333, R334). -/
def holdFault (s : State) (v : Nat) (what : HeldWhat) (info : TrapInfo) (tid team : Nat) (e : XErr) : State :=
  let info := { info with cause := (xCause s e).1 }
  let (id, s) := addHeld s v what info tid team
  match e with
  | .s1Trans _ => fqPost s v (mkRec info true tid team) (some id)
  | .tier g h => tierFault s v h id (mkRec { info with addr := g } true tid team)
  | .homeHolds _ => s
  | e => s.toStream v (mkRec { info with addr := xGpa e } true tid team)

/-- A member Parked at its instruction (R30, R76). -/
def park (t : Thread) : Thread := { t with st := .parked, lines := touched t.lines }

/-! The debug ring and watchpoints (R340, R355 to R357). -/

/-- Posts a record to a device's debug ring, or drops it and sets LOST; signals DVEC of the management function where DIRQ is 1. -/
def ringPost (s : State) (v : Nat) (r : Rec) : State :=
  let d := s.vd v
  let w := fun i => vget d.dbg i 0
  if bits (w 0) 63 12 = 0 then s
  else if (bits (w 2) 31 0 + 2 ^ 32 - bits (w 3) 31 0) % 2 ^ 32 = 16 * 2 ^ bits (w 0) 3 0 then
    s.modVd v (fun d => { d with dbg := vset d.dbg 6 (setBits (w 6) 1 1 1) })
  else
    let s := { s with mg := { s.mg with ring := s.mg.ring ++ [(v, r)] } }
    let s := s.modVd v (fun d => { d with dbg := vset d.dbg 2 (setBits (w 2) 31 0 (bits (w 2) 31 0 + 1)) })
    if bit (w 1) 2 then { s with mg := s.mg.post 0 (bits (w 1) 31 16) } else s

/-- Whether watchpoint i of a device matches an access of some guest-physical bytes (R356). -/
def watchHit (d : VDev) (i gpa len : Nat) (rd wr : Bool) : Bool :=
  let w0 := vget d.wp (2 * i) 0
  let w1 := vget d.wp (2 * i + 1) 0
  let size := 2 ^ bits w1 8 4
  let base := bits w0 47 3 * 8 / size * size
  bit w1 0 && ((rd && bit w1 1) || (wr && bit w1 2)) && decide (gpa < base + size) && decide (base < gpa + len)

/-- Sets HIT of the watchpoints a core access matches (R357): whether one matched, and whether one asks for a halt. -/
def watchCore (s : State) (v gpa len : Nat) (rd wr : Bool) : Bool × Bool × State :=
  let hits := (List.range 4).filter (fun i => watchHit (s.vd v) i gpa len rd wr)
  if hits.isEmpty then (false, false, s)
  else
    (true, hits.any (fun i => bit (vget (s.vd v).wp (2 * i + 1) 0) 3),
     s.modVd v (fun d => { d with wp := hits.foldl (fun w i => vset w (2 * i + 1) (setBits (vget w (2 * i + 1) 0) 62 62 1)) d.wp }))

/-- An external match (R357): EXTHIT is set, ORIG latched, and a 0x24 record posted when `tw` has passed. -/
def watchExternal (s : State) (v gpa len : Nat) (rd wr : Bool) (orig src tid team : Nat) (tw : Nat) : State :=
  let hits := (List.range 4).filter (fun i => watchHit (s.vd v) i gpa len rd wr)
  if hits.isEmpty then s
  else
    let latch := fun (w : Vector Word 8) (i : Nat) =>
      let x := vget w (2 * i + 1) 0
      vset w (2 * i + 1) (if bit x 63 then x else setBits (setBits x 61 50 orig) 63 63 1)
    let s := s.modVd v (fun d => { d with wp := hits.foldl latch d.wp })
    let r := mkRec { cause := 0x24, detail := 0, addr := gpa, wr := wr, src := src, rp := 0, rc := 0, repa := false, repc := 0 } false tid team
    { s with mg := { s.mg with ringDue := s.mg.ringDue ++ [(tw, v, r)] } }

/-! Aperture limits (R297, R301). -/

/-- What an access does, for the checks of an aperture. -/
inductive AccessKind where
  | load | store | atomic
  deriving DecidableEq, Repr

/-- Whether an endpoint entry allows an access at an offset (R302). -/
def endpointAllows (w : Word × Word) (k : AccessKind) (off : Nat) : Bool :=
  let log := max 12 (min 40 (bits w.2 5 0))
  bit w.1 63 && decide (off < 2 ^ log) && (match k with
    | .load => bit w.1 62
    | .store => bit w.1 61
    | .atomic => bit w.1 60)

/-- Whether an aperture address may be accessed (R297, R302): a PCI Express window, a CXL window below the expander's capacity,
or a Furrow window whose entry allows it. The PCI Express window of a port that boot has put in CXL mode is let through like any other, of
which the rule says nothing (the model's choice; log entry 88). -/
def apertureOk (s : State) (v dpa : Nat) (k : AccessKind) : Bool :=
  if dpa < 0xC000000000000 then true
  else if dpa < 0xD000000000000 then
    (match look ((dpa - 0xC000000000000) / 0x400000000000) s.mg.cxl with
      | some cap => dpa % 0x400000000000 < cap
      | none => false)
  else if 0xE000000000000 ≤ dpa && dpa < 0xF000000000000 then
    endpointAllows (endpointWords s v (endpointOf dpa).1) k (endpointOf dpa).2
  else false

end Sys2Proof.Machine
end

