-- ==== Sys2Proof/Machine/Memory.lean ====
section
/-!
DEFINITION. The memory instructions of the core path as they issue (R190 to R202): addresses, checks, the accesses they start, fences
and prefetch. What becomes of an access is in Home.lean.
-/

namespace Sys2Proof.Machine

/-- The address a die serves a line of a replicated page at (R133). Of a REPL leaf whose frame lies outside the CD0 half, which the rule
forbids software, the offset is added all the same (the model's choice; log entry 71). -/
def servedDpa (die dpa : Nat) (repl : Bool) : Nat := if repl && die = 1 then dpa + replicaOffset else dpa

/-! Addresses and checks. -/

/-- Bytes of one element of ld, st and ldu, and of the whole access (R194). -/
def elemBytes (f : FM) : Nat := 2 ^ (f.sub.toNat / 2)
def accessBytes (f : FM) : Nat := elemBytes f * 2 ^ (f.cnt.toNat % 4)

/-- Bytes of an atomic type (R146). -/
def atomBytes (f : FM) : Nat := if f.cnt == 0 || f.cnt == 1 || f.cnt == 4 then 4 else 8

/-- The effective address (R190), `extra` bytes on under REP (R193). -/
def effAddr (s : State) (team : TeamKey) (e : FM) (t : Thread) (extra : Nat) : Nat :=
  let base := if e.ub then s.readS team e.a.toNat else s.readV t.key e.a.toNat
  (base + e.off.signExtend 64 + BitVec.ofNat 64 extra).toNat

/-- How far REP moves the address at this repeat (R193): i × s × E, s the step of the data field. -/
def repExtra (cx : Ctx) (step : BitVec 2) (bytes : Nat) : Nat := cx.inc step * bytes

/-- A checked access: where it goes. -/
structure Located where
  space : Space
  gva : Nat
  gpa : Nat
  dpa : Nat
  lcls : Nat
  repl : Bool

/-- Steps 1 and 2 of R191, which ignore the guard. -/
def kindCheck (cx : Ctx) (e : FM) (t : Thread) : Option Nat :=
  if e.sp && scratchBytes cx.team.key cx.launch = 0 then some 0x05
  else if e.ub && t.detached then some 0x06 else none

/-- The effective lease class: the shorter of the page's and the hint's (R146). -/
def hinted (lcls : Nat) (lh : BitVec 2) : Nat :=
  match lh.toNat with
  | 1 => shorter lcls 1
  | 2 => 3
  | _ => lcls

/-- Why an access cannot be made. -/
inductive Denied where
  | trap (cause : Nat)
  | xlat (e : XErr)

/-- Steps 3 to 6 of R191 for an access of `len` bytes at EA. One through a Furrow window waits where its endpoint's entry is held by its
home (R351). -/
def locate (s : State) (cx : Ctx) (e : FM) (v : Nat) (ea len : Nat) (need : Need) : Except Denied Located :=
  if !e.sp && 2 ^ 48 ≤ ea then .error (.trap 0x10)
  else if ea % len ≠ 0 then .error (.trap 0x11)
  else if e.sp then
    if scratchBytes cx.team.key cx.launch < ea + len then .error (.trap 0x12)
    else .ok { space := .scratch, gva := ea, gpa := 0, dpa := ea, lcls := 3, repl := false }
  else match translate s (.core cx.core) v ea need with
    | .error x => .error (.xlat x)
    | .ok x =>
      if endpointHeld s v x.dpa then .error (.xlat (.homeHolds (endpointAddr s v (endpointOf x.dpa).1)))
      else
        .ok { space := if apertureDpa x.dpa then .aperture else .hbm, gva := ea, gpa := x.gpa, dpa := x.dpa,
              lcls := hinted x.lcls e.lh, repl := x.repl }

/-- The outcome of a denied access for a set of members: parked together under one held fault, or each trapped (R191, R334). -/
def deny (s : State) (cx : Ctx) (ms : List Thread) (what : HeldWhat) (ea : Nat) (wr : Bool) (src : Nat) (d : Denied) : State :=
  match ms with
  | [] => s
  | t0 :: _ =>
    let info := fun (t : Thread) (c : Nat) => { cx.info t c with addr := ea, wr := wr, src := src }
    match d with
    | .trap c => ms.foldl (fun s t => raise s t.key (info t c)) s
    | .xlat e =>
      let (c, replay) := xCause s e
      if replay then
        let s := ms.foldl (fun s t => s.modThr t.key park) s
        holdFault s cx.vd what (info t0 c) t0.key.tid cx.team.key.num e
      else
        let s := permReport s cx.vd (info t0 c) t0.key e
        ms.foldl (fun s t => raise s t.key (info t c)) s

/-- Whether an aperture access is refused at issue, and with which cause (R199, R297, R302). -/
def apertureRefusal (s : State) (v : Nat) (i : Instr) (x : Located) (kind : AccessKind) : Option Nat :=
  let carried := match i with
    | .atom f => f.sub == 0 || f.sub == 6 || f.sub == 7
    | .red f => f.sub == 0
    | .atomFadd _ => false
    | _ => true
  if x.space ≠ .aperture then none
  else if !furrowDpa x.dpa && !carried then some 0x16
  else if !furrowDpa x.dpa && !pcieDpa x.dpa && kind == .atomic then some 0x16
  else if !apertureOk s v x.dpa kind then some 0x17
  else none

/-! The write window and combining (R119, R125). -/

/-- The windows with the bytes of a store of a generation merged into its cluster's, later over earlier (R125): a byte stands in one
entry of a cluster and sector, the one of the device that stored it last. -/
def windowAdd (w : List WinEntry) (gen : Nat) (q : Req) (cells : List Host.Cell) : List WinEntry :=
  let sector := q.dpa / 64
  let mine := fun (e : WinEntry) => e.vd = q.vd && e.gen = gen && e.cluster = q.cluster && e.sector = sector
  let w := w.map (fun e => if e.cluster = q.cluster && e.sector = sector then
    { e with cells := e.cells.filter (fun c => !(cells.any (fun d => d.1 = c.1))),
             owns := e.owns.filter (fun o => !(cells.any (fun d => d.1 = o.1))) } else e)
  let owns := cells.map (fun c => (c.1, q.id, 0))
  if w.any mine then
    w.map (fun e => if mine e then
      { e with cells := e.cells ++ cells, owns := e.owns ++ owns, unacked := e.unacked + 1 } else e)
  else w ++ [{ vd := q.vd, gen := gen, cluster := q.cluster, sector := sector, cells := cells, owns := owns, unacked := 1, tw := 0 }]

/-- A store's bytes merged into the die's combining entry of its line, or a new entry (R119). -/
def combine256 (s : State) (die v : Nat) (req : Nat) (cells : List Host.Cell) (line : Nat) : State :=
  let fits := fun (m : StoreMsg) => m.die = die && m.vd = v && m.line = line && (match m.stage with
    | .combining _ => true
    | _ => false)
  if s.ms.stores.any fits then
    { s with ms := { s.ms with stores := s.ms.stores.map (fun m => if fits m then
        { m with cells := m.cells.filter (fun c => !(cells.any (fun d => d.1 = c.1))) ++ cells, reqs := m.reqs ++ [req] } else m) } }
  else
    { s with nextId := s.nextId + 1,
             ms := { s.ms with stores := s.ms.stores ++ [{ id := s.nextId, die := die, vd := v, line := line, cells := cells, reqs := [req],
                                                           repl := false, stage := .combining (s.die die).cyc, poisoned := false }] } }

/-- A store to HBM on its way (R119): into the window and the combining entry, the 64 B line dropped from the other L1s of the
cluster; to a replicated page straight to the sequencer. -/
def startStore (s : State) (cx : Ctx) (q : Req) : State :=
  let cells := cellsAt q.dpa q.data
  if q.repl then
    { s with nextId := s.nextId + 1,
             ms := { s.ms with stores := s.ms.stores ++ [{ id := s.nextId, die := cx.die, vd := cx.vd, line := q.dpa / 256, cells := cells,
                                                           reqs := [q.id], repl := true, stage := .toHome, poisoned := false }] } }
  else
    let dropped := fun (c : LeasedCopy) => c.level = 1 && c.line = q.dpa / 64 && c.place / 4 = cx.cluster && c.place ≠ cx.core
    combine256 { s with ms := { s.ms with window := windowAdd s.ms.window (s.vd q.vd).gen q cells,
                                          copies := s.ms.copies.filter (fun c => !dropped c) } } cx.die cx.vd q.id cells (q.dpa / 256)

/-- Whether an outbound request is made for a member. -/
def OutReq.serves (o : OutReq) (k : ThrKey) : Bool := o.thr == k || (o.thr.team == k.team && o.owners.contains k.tid)

/-- A non-posted outbound request of a thread for nothing in particular, and the state with a request sent (R298). -/
def outRequest (s : State) (k : ThrKey) (v gva gpa dpa : Nat) : OutReq :=
  { id := s.nextId, req := none, op := none, fenceOf := none, launch := none, owners := [], thr := k, vd := v, gva := gva, gpa := gpa, dpa := dpa,
    data := [], posted := false, sentAt := s.now, abandoned := false }
def sendRequest (s : State) (o : OutReq) : State := { s with nextId := s.nextId + 1, ms := { s.ms with outs := s.ms.outs ++ [o] } }

/-- The outbound request of an aperture load or atomic (R131, R298). -/
def sendOut (s : State) (q : Req) : State := sendRequest s { outRequest s q.thr q.vd q.gva q.gpa q.dpa with req := some q.id }

/-- Starts one access of a member (R139, R192): its flag counts and its request is issued. -/
def startReq (s : State) (cx : Ctx) (i : Instr) (t : Thread) (owners : List Nat) (x : Located) (len order : Nat) (data : List Byte)
    (opB opB2 : Nat) (rd wr : Bool) (isStore : Bool) : State × Fin :=
  let fl := flagOfInstr cx.hdr i
  let (hit, halt, s) := if x.space = .scratch then (false, false, s) else watchCore s cx.vd x.gpa len rd wr
  let q : Req := { id := s.nextId, thr := t.key, owners := owners, vd := cx.vd, cluster := cx.cluster, core := cx.core, i := i, flag := fl,
                   space := x.space, gva := x.gva, gpa := x.gpa, dpa := x.dpa, len := len, lcls := x.lcls, repl := x.repl, data := data,
                   opB := opB, opB2 := opB2, phase := .issued, tw := 0, poisoned := false, failed := false, retried := t.retrying,
                   watch := hit && wr && x.space = .hbm, pc := cx.g.h, cpos := cx.g.pos, repa := t.repActive, repc := t.repc, order := order }
  let s := { s with nextId := s.nextId + 1, ms := { s.ms with reqs := s.ms.reqs ++ [q] } }
  let s := if isStore && x.space = .hbm then startStore s cx q else s
  let s := if x.space = .aperture then markIneligible (if isStore then s else sendOut s q) cx.team.key else s
  let up := fun (s : State) (n : Nat) => s.modThr { t.key with tid := n } (fun t => { t.flagUp fl with retrying := false })
  let s := (if owners.isEmpty then [t.key.tid] else owners).foldl up s
  let s := if hit && !q.watch then
      ringPost s cx.vd (mkRec { cx.info t 0x23 with addr := x.gva, wr := wr } false t.key.tid cx.team.key.num)
    else s
  if halt then
    let s := s.modThr t.key (fun t => haltMember none (advance cx.g.h (hCount cx.hdr) cx.g.pos t))
    (teamHalt s cx.vd t.key, .gone)
  else (s, .adv)

/-- A translation an access has made, held by the caches of its core (R116). -/
def keepXlat (s : State) (cx : Ctx) (v ea : Nat) (need : Need) (x : Located) : State :=
  if x.space = .scratch then s else match translate s (.core cx.core) v ea need with
    | .ok y => s.cacheXlat (.core cx.core) v ea y
    | .error _ => s

/-- An interval with an access that translates to a system aperture is ineligible (R369), be the access refused or not. -/
def noteAperture (s : State) (cx : Ctx) (x : Located) : State := if x.space = .aperture then markIneligible s cx.team.key else s

/-- A retried access that meets poison traps at its instruction (R348) and is compared all the same (R356): its match is posted, and halts it
where the watchpoint says so. -/
def watchPoisoned (s : State) (cx : Ctx) (t : Thread) (x : Located) (len : Nat) (rd wr : Bool) : State :=
  let (hit, halt, s) := watchCore s cx.vd x.gpa len rd wr
  let s := if hit then ringPost s cx.vd (mkRec { cx.info t 0x23 with addr := x.gva, wr := wr } false t.key.tid cx.team.key.num) else s
  if halt then teamHalt (s.modThr t.key (fun t => { t with haltReq := true })) cx.vd t.key else s

/-- The state at the access of a member whose address passed steps 3 and 4 of R191: the homes have read the words of its walk. -/
def wayTo (s : State) (cx : Ctx) (e : FM) (t : Thread) (ea len : Nat) : State :=
  if e.sp || decide (2 ^ 48 ≤ ea) || decide (ea % len ≠ 0) then s else s.walked (.core cx.core) t.vd ea

/-- What one member does for an instruction that makes one access (R191, R192). A retried load or atomic that meets a poisoned sector
traps at its instruction (R348); a retried store writes it. -/
def memberAccess (cx : Ctx) (i : Instr) (f e : FM) (len extra order : Nat) (need : Need) (kind : AccessKind)
    (data : State → Thread → List Byte) (opB opB2 : State → Thread → Nat) (s : State) (t : Thread) : State × Fin :=
  match kindCheck cx e t with
  | some c => trapMember s cx t c
  | none =>
    if !enabled t f.g then (s, .adv)
    else
      let ea := effAddr s cx.team.key e t extra
      let wr := need == .write
      let s := wayTo s cx e t ea len
      match locate s cx e t.vd ea len need with
      | .error d => (deny s cx [t] (.member t.key) ea wr 0 d, .gone)
      | .ok x =>
        let a := if kind == .load then servedDpa cx.die x.dpa x.repl else x.dpa
        let again := t.retrying && x.space = .hbm && kind ≠ .store
        let s := if again then decodeRange s a len else noteAperture s cx x
        let spoilt := again && anyPoison s a len
        let s := if spoilt then watchPoisoned s cx t x len true wr else s
        match (if spoilt then some 0x1C else apertureRefusal s t.vd i x kind) with
        | some c => (deny s cx [t] (.member t.key) ea wr 0 (.trap c), .gone)
        | none =>
          startReq (keepXlat s cx t.vd ea need x) cx i t [] x len order (data s t) (opB s t) (opB2 s t) (kind ≠ .store) wr (kind == .store)

/-- Whether two byte ranges overlap. -/
def overlaps (a n b m : Nat) : Bool := decide (a < b + m) && decide (b < a + n)

/-- Whether an access is a thread's own: it made it, or it is one of the members of a ldu (R196). -/
def Req.servesThread (q : Req) (k : ThrKey) : Bool :=
  q.thr.team == k.team && (if q.owners.isEmpty then q.thr.tid == k.tid else q.owners.contains k.tid)

/-- Whether two accesses have a thread in common. -/
def Req.shares (q p : Req) : Bool :=
  if p.owners.isEmpty then q.servesThread p.thr else p.owners.any (fun n => q.servesThread { p.thr with tid := n })

/-- Whether a store must wait (R121, R125): for an earlier access of its own thread to its bytes that has not performed, or, to a page
that is not replicated, for room in the cluster's write window. -/
def storeStalls (s : State) (cx : Ctx) (f e : FM) (len extra : Nat) : Bool :=
  let places := cx.ts.filterMap (fun t =>
    if !enabled t f.g || e.sp then none
    else match translate s (.core cx.core) t.vd (effAddr s cx.team.key e t extra) .write with
      | .ok x => if hbmDpa x.dpa then some (t, x) else none
      | .error _ => none)
  let waits := places.any (fun p => s.ms.reqs.any (fun q => q.servesThread p.1.key && q.space == .hbm && q.phase == .issued &&
    overlaps q.dpa q.len p.2.dpa len && (match q.i with
      | .st _ => false
      | _ => true)))
  let used := (s.ms.window.filter (fun w => w.cluster = cx.cluster)).map (·.sector)
  let fresh := (((places.filter (fun p => !p.2.repl)).map (fun p => p.2.dpa / 64)).filter (fun x => !used.contains x)).eraseDups
  waits || (!fresh.isEmpty && decide (128 < used.length + fresh.length))

/-- The bytes a store writes: the low bytes of v.b, or of a run of registers (R195). -/
def storeBytes (s : State) (e : FM) (t : Thread) : List Byte :=
  if e.sub == 6 then (List.range (2 ^ (e.cnt.toNat % 4))).flatMap (fun j => leBytes 8 (s.readV t.key (e.b.toNat + j)).toNat)
  else leBytes (elemBytes e) (s.readV t.key e.b.toNat).toNat

/-- ld (R194). -/
def execLd (f : FM) (s : State) : Out :=
  issue s (fun cx => .ld (cx.fm f)) (fun cx =>
    let e := cx.fm f
    eachMember s cx (memberAccess cx (.ld e) f e (accessBytes e) (repExtra cx cx.t0.repsd (elemBytes e)) s.nextId .read .load
      (fun _ _ => []) (fun _ _ => 0) (fun _ _ => 0)))

/-- st (R195). -/
def execSt (f : FM) (s : State) : Out :=
  issue s (fun cx => .st (cx.fm f)) (fun cx =>
    let e := cx.fm f
    let extra := repExtra cx cx.t0.repsb (elemBytes e)
    if storeStalls s cx f e (accessBytes e) extra then s
    else eachMember s cx (memberAccess cx (.st e) f e (accessBytes e) extra s.nextId .write .store
      (fun s t => storeBytes s e t) (fun _ _ => 0) (fun _ _ => 0)))

/-- The operand of an atomic: v.b, and v(b + 1) for .cas, at the type's width (R197). -/
def atomOperand (e : FM) (j : Nat) (s : State) (t : Thread) : Nat := (s.readV t.key (e.b.toNat + j)).toNat % 2 ^ (8 * atomBytes e)

/-- What the atomics share (R197 to R199, R369). -/
def atomicIssue (s : State) (mk : FM → Instr) (f : FM) : Out :=
  issue s (fun cx => mk (cx.fm f)) (fun cx =>
    let e := cx.fm f
    let s := if !e.sp && cx.ts.any (fun t => enabled t f.g) then markIneligible s cx.team.key else s
    eachMember s cx (memberAccess cx (mk e) f e (atomBytes e) 0 s.nextId .write .atomic
      (fun _ _ => []) (atomOperand e 0) (fun s t => if e.sub == 7 then atomOperand e 1 s t else 0)))

/-- atom (R197). -/
def execAtom (f : FM) (s : State) : Out := atomicIssue s .atom f

/-- atom.fadd (R197). -/
def execAtomFadd (f : FM) (s : State) : Out := atomicIssue s .atomFadd f

/-- red (R198). -/
def execRed (f : FM) (s : State) : Out := atomicIssue s .red f

/-- ldu (R196): one access for the group; every enabled member's flag counts. -/
def execLdu (f : FM) (s : State) : Out :=
  issue s (fun cx => .ldu (cx.fm f)) (fun cx =>
    let e := cx.fm f
    let gone := cx.ts.filter (fun t => (kindCheck cx e t).isSome || t.detached)
    let s := gone.foldl (fun s t => raise s t.key (cx.info t ((kindCheck cx e t).getD 0x06))) s
    let rest := cx.ts.filter (fun t => !((kindCheck cx e t).isSome || t.detached))
    let on := rest.filter (fun t => enabled t f.g)
    let off := rest.filter (fun t => !enabled t f.g)
    let fin := fun (x : Fin) (l : List Thread) => l.map (fun t => (t.key.tid, x))
    match on with
    | [] => commit s cx (fin .gone gone ++ fin .adv off)
    | t :: _ =>
      let ea := effAddr s cx.team.key e t (repExtra cx cx.t0.repsd (elemBytes e))
      let s := wayTo s cx e t ea (accessBytes e)
      let denied := fun (s : State) d => commit (deny s cx on (.members (on.map (·.key))) ea false 0 d) cx (fin .gone (gone ++ on) ++ fin .adv off)
      match locate s cx e t.vd ea (accessBytes e) .read with
      | .error d => denied s d
      | .ok x =>
        let a := servedDpa cx.die x.dpa x.repl
        let again := t.retrying && x.space = .hbm
        let s := if again then decodeRange s a (accessBytes e) else noteAperture s cx x
        let spoilt := again && anyPoison s a (accessBytes e)
        let s := if spoilt then watchPoisoned s cx t x (accessBytes e) true false else s
        match (if spoilt then some 0x1C else apertureRefusal s t.vd (.ldu e) x .load) with
          | some c => denied s (.trap c)
          | none =>
            let r := startReq (keepXlat s cx t.vd ea .read x) cx (.ldu e) t (on.map (·.key.tid)) x (accessBytes e) s.nextId [] 0 0 true false false
            commit r.1 cx (fin .gone gone ++ [(t.key.tid, r.2)] ++ fin .adv (on.tail ++ off)))

/-! Fences and prefetch. -/

/-- A fence held pending (R200, R201): its scope and masks, and whether it is a fence.x. -/
def setFence (id : Nat) (x : Bool) (sc : Nat) (src dst : BitVec 4) (t : Thread) : Thread :=
  { t with pfen := true, pfid := id, pfx := x, pfsc := sc, pfsrc := src, pfdst := dst, lines := vset t.lines 0 .dirty }

/-- The zero-length read that follows a member's posted writes to a PCI Express port for its system-scope fence (R298). -/
def fenceRead (k : ThrKey) (s : State) (port : Nat) : State :=
  let v := match s.thr? k with
    | some t => t.vd
    | none => 0
  sendRequest s { outRequest s k v 0 0 (port * 2 ^ 48) with fenceOf := some k }

/-- Those of every port that holds posted writes of the member as its fence issues. -/
def fenceReads (s : State) (k : ThrKey) : State :=
  (((s.ms.outs.filter (fun o => o.posted && o.serves k && !o.abandoned && pcieDpa o.dpa)).map (fun o => o.dpa / 2 ^ 48)).eraseDups).foldl
    (fenceRead k) s

/-- What fence and fence.x do for an enabled member. -/
def fenceMember (x : Bool) (f : FM) (src dst : BitVec 4) (s : State) (t : Thread) : State × Fin :=
  if !enabled t f.g then (s, .adv)
  else
    let s := (s.modThr t.key (setFence s.nextId x f.scope.toNat src dst))
    let s := { s with nextId := s.nextId + 1 }
    (if f.scope == 4 then fenceReads s t.key else s, .adv)

/-- fence (R200). -/
def execFence (f : FM) (s : State) : Out :=
  issue s (fun cx => .fence (cx.fm f)) (fun cx => eachMember s cx (fenceMember false f 15 15))

/-- fence.x (R201). -/
def execFenceX (f : FM) (s : State) : Out :=
  issue s (fun cx => .fenceX (cx.fm f)) (fun cx =>
    eachMember s cx (fenceMember true f (BitVec.ofNat 4 f.off.toNat) (BitVec.ofNat 4 (f.off.toNat / 16))))

/-! Leases (R123). -/

/-- The lease of a level by class and heat: level 1 the L1, 2 the L2, 3 the RDC. -/
def leaseOf (lcls level heat : Nat) : Nat :=
  let base := match lcls, level with
    | 0, 1 => 128 | 0, 2 => 256 | 0, _ => 1000
    | 1, 1 => 32 | 1, 2 => 64 | 1, _ => 256
    | 2, 1 => 512 | 2, 2 => 1024 | 2, _ => 4096
    | _, _ => 0
  base / 2 ^ heat

/-- The earliest write time still to come on a line: a pending store caps every lease at it. -/
def pendingTw (s : State) (line : Nat) : Option Nat :=
  s.ms.versions.foldl (fun b v => if s.now < v.tw && v.cells.any (fun c => c.1 / 256 = line) then
    some (match b with
      | some x => min x v.tw
      | none => v.tw) else b) none

/-- Whether a home grants a lease on a line: none on a poisoned sector (R347), on a plot being demoted (R132), or of class 3. -/
def mayLease (s : State) (dpa lcls : Nat) : Bool :=
  lcls ≠ 3 && !(sectorsOf (dpa / 256 * 256) 256).any s.ms.poison.contains &&
    !(s.mg.plots.any (fun p => p.2.state = 2 && p.2.frame = dpa / 65536)) &&
    !homeHolds s dpa

/-- Whether an address is homed in a die's own half, so that the die holds it in its L2 and not its RDC (R118). -/
def ownHalf (die a : Nat) : Bool := (if a < replicaOffset then 0 else 1) = die

/-- Lines of a level that one place holds (R11, R24): 192 KiB of an L1, 128 MiB of a die's L2, 32 MiB of its RDC. -/
def copyRoom (c : LeasedCopy) : Nat := if c.level = 1 then 3072 else if ownHalf c.place (256 * c.line) then 524288 else 131072

/-- A leased copy takes its place, over an older copy of its line, and where its level is full over a victim. -/
def addCopy (s : State) (c : LeasedCopy) : State :=
  let near := fun (x : LeasedCopy) => x.level = c.level && x.place = c.place &&
    (c.level = 1 || ownHalf c.place (256 * x.line) = ownHalf c.place (256 * c.line))
  let rest := s.ms.copies.filter (fun x => !(x.level = c.level && x.place = c.place && x.line = c.line))
  { s with ms := { s.ms with copies := bounded (Config.victim s.free c.line) (copyRoom c) near rest c } }

/-- Whether a leased copy is of the device's present generation (R77). -/
def copyOf (s : State) (v level place line : Nat) (c : LeasedCopy) : Bool :=
  c.level = level && c.place = place && c.line = line && c.vd = v && c.gen = (s.vd v).gen

/-- Whether a leased copy serves a core's read now (R123): unexpired by the guard band, on a die whose time is good (R351). -/
def copyHit (s : State) (v level place line : Nat) : Bool :=
  !(s.die (if level = 1 then dieOfCluster (clusterOfCore place) else place)).timeFault &&
    s.ms.copies.any (fun c => copyOf s v level place line c && s.now + 4 < c.expiry)

/-- Whether a copy of a line is held at all, expired or not. -/
def copyHeld (s : State) (v level place line : Nat) : Bool := s.ms.copies.any (copyOf s v level place line)

/-- An L1 copy filled from the die's L2 or RDC takes the smaller of its parent's expiry and the L1 lease (R123). -/
def fillL1 (s : State) (die core v a lcls : Nat) : State :=
  match s.ms.copies.find? (copyOf s v 2 die (a / 256)) with
  | none => s
  | some c =>
    addCopy s { vd := v, gen := (s.vd v).gen, level := 1, place := core, line := a / 64, tw := c.tw,
                expiry := min c.expiry (s.now + leaseOf lcls 1 (s.home (a / 256)).heat) }

/-- A read served at the home grants a lease on its line, which the home reads through its decoder (R344), and fills the die's L2 or RDC
and the core's L1 (R123, R133). -/
def grantLease (s : State) (die core v dpa lcls : Nat) (repl : Bool) : State :=
  let a := servedDpa die dpa repl
  let s := if lcls = 3 then s else decodeRange s (a / 256 * 256) 256
  if !mayLease s a lcls then s
  else
    let line := a / 256
    let h := s.home line
    let cap := fun x => let x := if repl then min x (s.now + 1024) else x
      match pendingTw s line with
      | some tw => min x tw
      | none => x
    let e := cap (s.now + leaseOf lcls (if ownHalf die a then 2 else 3) h.heat)
    let l1 := min e (s.now + leaseOf lcls 1 h.heat)
    let s := s.putHome line { h with lmax := max h.lmax e }
    let g := (s.vd v).gen
    addCopy (addCopy s { vd := v, gen := g, level := 2, place := die, line := line, expiry := e, tw := h.tlast })
      { vd := v, gen := g, level := 1, place := core, line := a / 64, expiry := l1, tw := h.tlast }

/-- What a prefetch requests (R202): what a load would fetch and lease, from the level that would serve it (R123). -/
def prefetch (s : State) (cx : Ctx) (x : Xlat) (lcls : Nat) : State :=
  let a := servedDpa cx.die x.dpa x.repl
  if !hbmDpa x.dpa || lcls = 3 || copyHit s cx.vd 1 cx.core (a / 64) then s
  else if copyHit s cx.vd 2 cx.die (a / 256) then fillL1 s cx.die cx.core cx.vd a lcls
  else grantLease s cx.die cx.core cx.vd x.dpa lcls x.repl

/-- pref (R202): leases the line as a load would, and never faults. -/
def execPref (f : FM) (s : State) : Out :=
  issue s (fun cx => .pref (cx.fm f)) (fun cx =>
    let e := cx.fm f
    eachMember s cx (fun s t =>
      match kindCheck cx e t with
      | some c => trapMember s cx t c
      | none =>
        let ea := effAddr s cx.team.key e t 0
        if !enabled t f.g || 2 ^ 48 ≤ ea then (s, .adv)
        else
          let s := s.walked (.core cx.core) t.vd ea
          match translate s (.core cx.core) t.vd ea .read with
          | .ok x =>
            let s := if apertureDpa x.dpa then markIneligible s cx.team.key else s
            (prefetch (s.cacheXlat (.core cx.core) t.vd ea x) cx x (hinted x.lcls e.lh), .adv)
          | .error _ => (s, .adv)))

end Sys2Proof.Machine
end

