-- ==== Sys2Proof/Machine/Create.lean ====
section
/-!
DEFINITION. Creating and moving threads and declaring a must-save set: spawn with its seed bins (R49 to R51, R62, R210), migr (R52,
R53, R211) and musts (R212).
-/

namespace Sys2Proof.Machine

/-! Seed bins. -/

/-- The root launch of a team is the launch its key names (R49). -/
def rootOf (s : State) (k : TeamKey) : Option Launch := s.launch? k.lid

/-- A team that is not placed yet, with nothing in its storage. -/
def newTeam (k : TeamKey) (v gen tcnt pcnt : Nat) (seeds : List Seed) (now : Nat) : Team :=
  { key := k, vd := v, gen := gen, cluster := none, tcnt := tcnt, pcnt := pcnt, frame := 0, s := Vector.replicate 32 0,
    bars := Vector.replicate 16 Barrier.zero, met := 0, msat := 0, accs := 0, acck := 0, tgen := Vector.replicate 32 0, tiles := [], acc := [],
    hv := [], mc := [], ms := [], scr := [], seeds := seeds, placed := now, firstPlacement := true, snap := none,
    integrity := false, row := 0, ahead := false, lastEng := none }

/-- Whether the spawned-team frame of the next spawned team of a launch is free (R62). -/
def spawnFrameFree (s : State) (l : Launch) : Bool :=
  !(s.teams.any (fun t => t.key.lid = l.lid && t.key.spawned && t.key.num % l.frames = l.spawnNext % l.frames))

/-- Whether a bin's release condition holds on a cluster (R50). -/
def binDue (s : State) (cluster : Nat) (b : Bin) : Bool :=
  b.held || decide (32 ≤ b.seeds.length) || decide (b.dueCyc ≤ (s.die (dieOfCluster cluster)).cyc)

/-- Releases a bin as a spawned team, or holds it until its frame is free (R50, R62). -/
def releaseBin (s : State) (cluster bin : Nat) : State :=
  match look bin (s.cluster cluster).bins with
  | none => s
  | some b =>
    match s.launch? b.lid with
    | none => s
    | some l =>
      if !spawnFrameFree s l then s.modCluster cluster (fun c => { c with bins := put bin { b with held := true } c.bins })
      else
        let k : TeamKey := { lid := l.lid, spawned := true, num := l.spawnNext }
        let t := newTeam k b.vd (s.vd b.vd).gen b.seeds.length 0 b.seeds s.now
        let s := { s with teams := s.teams ++ [{ t with frame := l.spawnNext % l.frames }] }
        let s := s.modLaunch l.lid (fun l => { l with spawnNext := l.spawnNext + 1, spawnLive := l.spawnLive + 1 })
        s.modCluster cluster (fun c => { c with bins := drop bin c.bins })

/-- Places a seed in a bin of a cluster (R49 steps 1 to 3): a bin that is due accepts none (R50, R62), and none where
every bin is taken. The 32nd seed releases its bin. -/
def placeSeed (s : State) (cluster v lid : Nat) (stimer : Nat) (x : Seed) : Option State :=
  let bins := (s.cluster cluster).bins
  let fits := fun (p : Nat × Bin) =>
    p.2.vd = v && p.2.lid = lid && p.2.entry = x.entry && !binDue s cluster p.2
  match bins.find? (fun p => fits p) with
  | some (n, b) =>
    let b := { b with seeds := b.seeds ++ [x] }
    let s := s.modCluster cluster (fun c => { c with bins := put n b c.bins })
    some (if b.seeds.length = 32 then releaseBin s cluster n else s)
  | none =>
    match (List.range 16).find? (fun n => (look n bins).isNone) with
    | none => none
    | some n =>
      let b : Bin := { vd := v, lid := lid, entry := x.entry, seeds := [x], dueCyc := (s.die (dieOfCluster cluster)).cyc + stimer, held := false }
      some (s.modCluster cluster (fun c => { c with bins := put n b c.bins }))

/-- Whether a waiting spawner still stands at its spawn: one that has halted or gone into its handler issues the spawn again (R210, R330,
R341). -/
def stands (s : State) (w : Spawner) : Bool :=
  (s.thr? w.thr).any (fun t => t.st == .runnable && t.pc == w.pc && t.cpos = w.cpos && t.tact == w.tact)

/-- The waiting spawners that no longer stand at their spawn are forgotten. -/
def settleSpawners (s : State) : State :=
  if s.clusters.all (fun p => p.2.spawners.all (stands s)) then s
  else { s with clusters := s.clusters.map (fun p => (p.1, { p.2 with spawners := p.2.spawners.filter (stands s) })) }

/-- The oldest waiting spawner of a cluster that now finds a bin completes its spawn. -/
def retryOne (s : State) (cluster : Nat) : List Spawner → Option State
  | [] => none
  | w :: rest =>
    match (if stands s w then s.launch? w.thr.team.lid else none).bind (fun l => placeSeed s cluster w.vd w.thr.team.lid l.stimer w.seed) with
    | none => retryOne s cluster rest
    | some s =>
      let s := s.modCluster cluster (fun c => { c with spawners := c.spawners.filter (fun x => x.thr != w.thr) })
      some (s.modThr w.thr (fun t => (pass (s.die (dieOfCluster cluster)).cyc w.count t).changed))

/-- The waiting spawners of a cluster retry in age order at a bin release (R49 step 4). -/
def retryLoop (cluster : Nat) : Nat → State → State
  | 0, s => s
  | n + 1, s => match retryOne s cluster (s.cluster cluster).spawners with
    | some s => retryLoop cluster n s
    | none => s
def retrySpawners (s : State) (cluster : Nat) : State := retryLoop cluster (s.cluster cluster).spawners.length s

/-- The seed a member captures (R210). -/
def seedOf (s : State) (e : FR) (t : Thread) : Seed :=
  { entry := BitVec.ofNat 64 ((s.readV t.key e.a.toNat).toNat / 8 * 8),
    args := (Vector.range 4).map (fun j => s.readV t.key (e.b.toNat + j)) }

/-- spawn (R49, R210); it makes a logging interval ineligible (R369). -/
def execSpawn (f : FR) (s : State) : Out :=
  issue s (fun cx => .spawn (cx.fr f)) (fun cx =>
    let s := if cx.ts.any (fun t => enabled t f.g) then markIneligible s cx.team.key else s
    eachMember s cx (fun s t =>
      if !enabled t f.g then (s, .adv)
      else
        let x := seedOf s (cx.fr f) t
        match placeSeed s cx.cluster cx.vd cx.launch.lid cx.launch.stimer x with
        | some s' => (if (s'.cluster cx.cluster).bins.length < (s.cluster cx.cluster).bins.length then retrySpawners s' cx.cluster else s', .adv)
        | none =>
          let w : Spawner := { thr := t.key, vd := cx.vd, seed := x, count := hCount cx.hdr, pc := cx.g.h, cpos := cx.g.pos, tact := t.tact }
          (s.modCluster cx.cluster (fun c => { c with spawners := c.spawners ++ [w] }), .stay)))

/-! migr. -/

/-- Whether a team's threads may migrate (R53). -/
def mayMigrate (cx : Ctx) : Bool := cx.team.key.spawned || cx.launch.migr

/-- What an enabled member of migr does (R211): parked or trapped on its translation; past the instruction where it need not move;
else Migrating toward the other die, past the instruction. -/
def migrMember (cx : Ctx) (e : FM) (s : State) (t : Thread) : State × Fin :=
  let ea := effAddr s cx.team.key e t 0
  if 2 ^ 48 ≤ ea then (deny s cx [t] (.member t.key) ea false 0 (.trap 0x10), .gone)
  else
    let s := s.walked (.core cx.core) t.vd ea
    match translate s (.core cx.core) t.vd ea .any with
    | .error x => (deny s cx [t] (.member t.key) ea false 0 (.xlat x), .gone)
    | .ok x =>
      let die := if x.dpa < replicaOffset then 0 else 1
      if apertureDpa x.dpa || die = cx.die then (s, .adv)
      else
        (s.modThr t.key (fun t =>
          { passAt (s.die cx.die).cyc cx.g.h (hCount cx.hdr) cx.g.pos t with st := .migrating, migTo := some die, migSince := s.now, lines := vset t.lines 0 .dirty }),
         .gone)

/-- migr (R52, R53, R211). -/
def execMigr (f : FM) (s : State) : Out :=
  issue s (fun cx => .migr (cx.fm f)) (fun cx =>
    let s := if mayMigrate cx && cx.ts.any (fun t => enabled t f.g) then markIneligible s cx.team.key else s
    eachMember s cx (fun s t =>
      if !mayMigrate cx then trapMember s cx t 0x07
      else match kindCheck cx (cx.fm f) t with
        | some c => trapMember s cx t c
        | none => if enabled t f.g then migrMember cx (cx.fm f) s t else (s, .adv)))

/-! musts. -/

/-- A member's must-save list on its way to the hold-up save controller (R212). -/
def mustsReq (s : State) (cx : Ctx) (i : Instr) (t : Thread) (ea order : Nat) : Req :=
  { id := s.nextId, thr := t.key, owners := [], vd := cx.vd, cluster := cx.cluster, core := cx.core, i := i, flag := none, space := .hbm,
    gva := ea, gpa := 0, dpa := 0, len := 0, lcls := 3, repl := false, data := [], opB := 0, opB2 := 0, phase := .issued, tw := 0,
    poisoned := false, failed := false, retried := t.retrying, watch := false, pc := cx.g.h, cpos := cx.g.pos, repa := t.repActive,
    repc := t.repc, order := order }

/-- Whether a request is a must-save list of a member of a group. -/
def isMusts (cx : Ctx) (q : Req) : Bool := (match q.i with
  | .musts _ => true
  | _ => false) && cx.ts.any (fun t => t.key == q.thr)

/-- musts (R212): the lists go to the controller, and the group stalls until every enabled member has its status. -/
def execMusts (f : FM) (s : State) : Out :=
  issue s (fun cx => .musts (cx.fm f)) (fun cx =>
    let e := cx.fm f
    if s.ms.reqs.any (isMusts cx) then s
    else
      let bad := cx.ts.filterMap (fun t =>
        match kindCheck cx e t with
        | some c => some (t, c)
        | none => if enabled t f.g && 2 ^ 48 ≤ effAddr s cx.team.key e t 0 then some (t, 0x10) else none)
      let good := cx.ts.filter (fun t => !(bad.any (fun p => p.1.key == t.key)))
      let s := if good.any (fun t => enabled t f.g) then markIneligible s cx.team.key else s
      let order := s.nextId
      let s := bad.foldl (fun s p => raise s p.1.key { cx.info p.1 p.2 with addr := if p.2 = 0x10 then effAddr s cx.team.key e p.1 0 else 0 }) s
      let ask := good.filter (fun t => enabled t f.g)
      if ask.isEmpty then commit s cx (bad.map (fun p => (p.1.key.tid, .gone)) ++ good.map (fun t => (t.key.tid, .adv)))
      else
        let s := ask.foldl (fun s t =>
          { s with nextId := s.nextId + 1,
                   ms := { s.ms with reqs := s.ms.reqs ++ [mustsReq s cx (.musts e) t (effAddr s cx.team.key e t 0) order] } }) s
        s.putCore cx.core { (s.core cx.core) with slot := some { cx.g with members := good.map (·.key.tid) } })

end Sys2Proof.Machine
end

