-- ==== Sys2Proof/Machine/Home.lean ====
section
/-!
DEFINITION. What becomes of core accesses (R117 to R133, R194 to R202, R298, R344 to R350): caches and homes, write times, atomics,
acknowledgements, returned data, fences, apertures, and the corrections and poison of HBM.
-/

namespace Sys2Proof.Machine

/-! Time passing on versions (R121, R125). -/

/-- Whether a window's byte comes from a store later than a write time: one whose own is later, or not given yet (R125). -/
def newerOwn (e : WinEntry) (a tw : Nat) : Bool := e.owns.any (fun o => o.1 = a && (o.2.2 = 0 || decide (tw < o.2.2)))

/-- The pending launch at the head of a queue (R252). -/
def headLaunch (s : State) (v j : Nat) : Option Launch := ((s.vd v).queue j).pend.head?.bind s.launch?

/-- The counter address and the required value of dependence pair j (R246). -/
def Launch.depAddr (l : Launch) (j : Nat) : Nat := (l.word (8 + 2 * j)).toNat
def Launch.depNeed (l : Launch) (j : Nat) : Nat := (l.word (9 + 2 * j)).toNat

/-- What a head record's watches report of a version of some bytes (R252): a pair whose counter now has its value is satisfied. -/
def reportWatch (s : State) (cells : List Host.Cell) (l : Launch) : Launch :=
  let hit := fun (j : Nat) => decide (j < l.dcnt) && (match translate s .iod l.vd (l.depAddr j) .read with
    | .ok x => cells.any (fun c => c.1 / 8 = x.dpa / 8) && !s.poisoned x.dpa && decide (l.depNeed j ≤ (s.dpaWord x.dpa).toNat)
    | .error _ => false)
  let deps := (List.range 4).foldl (fun d j => if hit j then vset d j true else d) l.deps
  { l with deps := deps, depsAt := if deps == l.deps then l.depsAt else s.now }

/-- Whether a used pair is still unsatisfied. -/
def depDue (l : Launch) (n : Nat) : Bool := decide (n < l.dcnt) && !vget l.deps n true

/-- The reads of counters that a fault holds, of pairs satisfied meanwhile, are over (R252). -/
def settleDeps (s : State) : State :=
  let past := fun (h : Held) => (match h.what with
    | .dependence v j n => !((headLaunch s v j).any (fun l => depDue l n))
    | _ => false)
  { s with ms := { s.ms with held := s.ms.held.filter (fun h => !past h) } }

/-- The watches of every head record. -/
def reportWatches (s : State) (cells : List Host.Cell) : State :=
  settleDeps { s with launches := s.launches.map (fun l =>
      if l.phase == .pending && l.dcnt != 0 && ((s.vd l.vd).queue l.j).pend.head? == some l.lid then reportWatch s cells l else l) }

/-- A version whose write time has passed becomes memory's content; what windows hold of its bytes is superseded, unless a later
store of the window's own is there (R121, R125). A sector one write covers whole is clean again (R347); one it covers in part is read
through the decoder and merged. -/
def applyVersion (s : State) (v : Version) : State :=
  let keep := fun (e : WinEntry) (a : Nat) => !(v.cells.any (fun d => d.1 = a)) || newerOwn e a v.tw
  let merged := ((v.cells.map (fun c => c.1 / 64)).eraseDups).filter (fun x => !v.clears.contains x)
  let s := merged.foldl decodeSector s
  reportWatches { s with ms := { s.ms with
      mem := memWriteCells s.ms.mem v.cells,
      window := s.ms.window.map (fun e => { e with cells := e.cells.filter (fun c => keep e c.1), owns := e.owns.filter (fun o => keep e o.1) }),
      poison := s.ms.poison.filter (fun x => !v.clears.contains x),
      badSymbols := s.ms.badSymbols.filter (fun b => !v.clears.contains b.1) } } v.cells

/-- The pending version with the least write time. -/
def nextVersion : List Version → Option Version
  | [] => none
  | v :: rest => match nextVersion rest with
    | some w => if w.tw < v.tw then some w else some v
    | none => some v

/-- Every version whose write time has passed is applied in the order of write times (R121). -/
def settleLoop : Nat → State → State
  | 0, s => s
  | n + 1, s => match nextVersion s.ms.versions with
    | some v =>
      if v.tw ≤ s.now then
        settleLoop n (applyVersion { s with ms := { s.ms with versions := s.ms.versions.erase v } } v)
      else s
    | none => s

/-- Watch records whose write has become visible are posted (R357). -/
def settleRing (s : State) : State :=
  let ready := s.mg.ringDue.filter (fun r => r.1 < s.now)
  ready.foldl (fun s r => ringPost s r.2.1 r.2.2) { s with mg := { s.mg with ringDue := s.mg.ringDue.filter (fun r => !(r.1 < s.now)) } }

/-- Events of interrupt-remapping entries whose write has become visible are signalled, those of one source in order (R274), once their table's home serves
reads (R351). -/
def settleSignals (s : State) : State :=
  let go := fun (acc : State) (x : Nat × Nat × Nat × Nat) =>
    if x.1 < acc.now && mayAnnounce acc x.2.1 x.2.2.1 x.2.2.2 then acc.signal x.2.1 x.2.2.2 else { acc with mg := { acc.mg with signalDue := acc.mg.signalDue ++ [x] } }
  s.mg.signalDue.foldl go { s with mg := { s.mg with signalDue := [] } }

def settle (s : State) : State := settleSignals (settleRing (settleLoop s.ms.versions.length s))

/-! Performing (R121). -/

/-- Whether an earlier access of its thread, or of a lower member in the same instruction, to the same bytes has yet to perform
(R121, R192). A load reads its own thread's stores from the window (R125). -/
def blockedBy (q p : Req) : Bool :=
  p.id < q.id && p.phase == .issued && p.space == q.space &&
    (if q.space == .scratch then q.shares p || (p.thr.team == q.thr.team && p.order = q.order && overlaps p.dpa p.len q.dpa q.len)
     else overlaps p.dpa p.len q.dpa q.len && (q.shares p || p.order = q.order) && !(isLoadReq q && isStoreReq p && !p.repl))

/-- Whether a request may perform now: nothing earlier of its own is in its way, and its own atomics and replicated stores to the
same bytes have become visible (R121). -/
def mayPerform (s : State) (q : Req) : Bool :=
  q.phase == .issued && !(s.ms.reqs.any (blockedBy q)) &&
    (!isLoadReq q || !(s.ms.versions.any (fun v => v.writer.any q.servesThread && v.cells.any (fun c => overlaps c.1 1 q.dpa q.len))))

/-- The bytes a load of a cluster reads now (R121, R125, R133). -/
def readNow (s : State) (q : Req) : List Byte :=
  let a := servedDpa (dieOfCluster q.cluster) q.dpa q.repl
  if q.repl then memReadN s.ms.mem a q.len else (List.range q.len).map (fun i => coreByte s q.cluster (a + i))

/-- Where a load is served above the home: its L1, or its die's L2 or RDC. -/
def l1Hit (s : State) (q : Req) : Bool :=
  q.lcls ≠ 3 && copyHit s q.vd 1 q.core (servedDpa (dieOfCluster q.cluster) q.dpa q.repl / 64)
def l2Hit (s : State) (q : Req) : Bool :=
  q.lcls ≠ 3 && copyHit s q.vd 2 (dieOfCluster q.cluster) (servedDpa (dieOfCluster q.cluster) q.dpa q.repl / 256)

/-- TWOWED raised by an acknowledged write time (R122), and with it the launch's largest (R265). -/
def raiseTwowed (s : State) (k : ThrKey) (tw : Nat) : State :=
  (s.modThr k (fun t => { t with twowed := max t.twowed tw, lines := touched t.lines })).modLaunch k.team.lid
    (fun l => { l with maxTw := max l.maxTw tw })

/-- The flags of a request fall (R127, R139). -/
def fallFlags (s : State) (q : Req) : State :=
  let ids := if q.owners.isEmpty then [q.thr.tid] else q.owners
  ids.foldl (fun s n => s.modThr { q.thr with tid := n } (fun t => t.flagDown q.flag)) s

/-- A deferred trap falls due for a member (R330); of one that has exited, only the record is posted. -/
def makeDue (s : State) (k : ThrKey) (i : TrapInfo) : State :=
  match s.thr? k with
  | none => s
  | some t =>
    if t.st == .exited then fqPost s t.vd (mkRec i false k.tid k.team.num) none
    else s.modThr k (fun t => { t with due := t.due ++ [i] })

/-- What a failed access reports (R330, R348): poisoned data, or a system-access fault at its instruction. -/
def reqInfo (q : Req) (cause : Nat) : TrapInfo :=
  { cause := cause, detail := 0, addr := q.gva, wr := !isLoadReq q, src := 0, rp := q.pc, rc := q.cpos, repa := q.repa, repc := q.repc }

/-- A failed request ends (R298, R348): no register is written, its flags fall, and its trap is due. -/
def failReq (s : State) (q : Req) (cause : Nat) : State :=
  let ids := if q.owners.isEmpty then [q.thr.tid] else q.owners
  ids.foldl (fun s n => makeDue s { q.thr with tid := n } (reqInfo q cause)) (fallFlags (s.dropReq q.id) q)

/-- A load performs (R121): its data are read, or it meets poison (R348). -/
def performLoad (s : State) (q : Req) : State :=
  let a := servedDpa (dieOfCluster q.cluster) q.dpa q.repl
  let s := decodeRange s a q.len
  if anyPoison s a q.len then s.modReq q.id (fun q => { q with phase := .performed, poisoned := true })
  else s.modReq q.id (fun r => { r with phase := .performed, data := readNow s q })

/-- HOME_READ_REQUEST (R123): a load that misses above is served at its home, and leased copies are filled. -/
def execHomeReadRequest (id : Nat) (s : State) : Out :=
  match s.req? id with
  | none => .next s
  | some q =>
    let a := servedDpa (dieOfCluster q.cluster) q.dpa q.repl
    if isLoadReq q && q.space == .hbm && mayPerform s q && !l1Hit s q && !l2Hit s q && !homeHolds s a &&
        !(q.lcls ≠ 3 && copyHeld s q.vd 2 (dieOfCluster q.cluster) (a / 256)) then
      .next (grantLease (performLoad s q) (dieOfCluster q.cluster) q.core q.vd q.dpa q.lcls q.repl)
    else .next s

/-- LEASE_RENEWAL (R123): an expired copy is renewed, unchanged or with the current version, and the load performs at the home. -/
def execLeaseRenewal (id : Nat) (s : State) : Out :=
  match s.req? id with
  | none => .next s
  | some q =>
    let a := servedDpa (dieOfCluster q.cluster) q.dpa q.repl
    if isLoadReq q && q.space == .hbm && mayPerform s q && !l1Hit s q && !l2Hit s q && !homeHolds s a && q.lcls ≠ 3 &&
        copyHeld s q.vd 2 (dieOfCluster q.cluster) (a / 256) then
      .next (grantLease (performLoad s q) (dieOfCluster q.cluster) q.core q.vd q.dpa q.lcls q.repl)
    else .next s

/-! Scratchpad (R117). -/

/-- The bytes of a team's scratchpad. -/
def scrRead (s : State) (k : TeamKey) (a n : Nat) : List Byte := match s.team? k with
  | some t => memReadN t.scr a n
  | none => List.replicate n 0
def scrWrite (s : State) (k : TeamKey) (a : Nat) (bs : List Byte) : State := s.modTeam k (fun t => { t with scr := memWriteN t.scr a bs })

/-! Atomics (R126, R197, R199). -/

/-- The value an atomic writes, from the old one: SUB, whether it is .fadd, ATY, B and the .cas value. -/
def atomicNew (fadd : Bool) (sub aty : Nat) (old b b2 : Nat) : Nat :=
  let w := if aty = 0 || aty = 1 || aty = 4 then 32 else 64
  let signed := aty = 1 || aty = 3
  let val := fun (x : Nat) => if signed then sgn w x else ((x % 2 ^ w : Nat) : Int)
  if fadd then
    let f := if aty = 4 then fp32 else fp64
    rnd f .rne false 0 (xadd false (f.value old) (f.value b))
  else match sub with
    | 0 => (old + b) % 2 ^ w
    | 1 => if val b < val old then b else old
    | 2 => if val old < val b then b else old
    | 3 => Nat.land old b
    | 4 => Nat.lor old b
    | 5 => Nat.xor old b
    | 6 => b
    | _ => if old = b then b2 else old

/-- The value a request's atomic writes. -/
def atomicResult (q : Req) (old : Nat) : Nat :=
  match q.i with
  | .atom f => atomicNew false f.sub.toNat f.cnt.toNat old q.opB q.opB2
  | .atomFadd f => atomicNew true 0 f.cnt.toNat old q.opB q.opB2
  | .red f => atomicNew (f.sub == 6) f.sub.toNat f.cnt.toNat old q.opB q.opB2
  | _ => old

/-- A scratchpad atomic: one indivisible read and write at the array (R199). The data are the old value's bytes. -/
def scratchAtomic (s : State) (q : Req) : List Byte × State :=
  let old := scrRead s q.thr.team q.dpa q.len
  (old, scrWrite s q.thr.team q.dpa (leBytes q.len (atomicResult q (leNat old))))

/-- HOME_ATOMIC (R126): an atomic or reduction executes at its home, or at the sequencer of a replicated page (R133). -/
def execHomeAtomic (id : Nat) (s : State) : Out :=
  match s.req? id with
  | none => .next s
  | some q =>
    if (isAtomReq q || isRedReq q) && q.space == .hbm && mayPerform s q && !writeHolds s q.vd q.dpa q.repl then
      let s := decodeRange s q.dpa q.len
      if anyPoison s q.dpa q.len then .next (s.modReq id (fun q => { q with phase := .acked, poisoned := true }))
      else
        let old := (List.range q.len).map (fun i => newestByte s (q.dpa + i))
        let (tw, s) := if q.repl then assignTwRepl s (q.dpa / 256) else assignTw s (q.dpa / 256)
        let s := (if q.repl then (s.markDirty q.vd q.dpa).markDirty q.vd (q.dpa + replicaOffset) else s.markDirty q.vd q.dpa)
        let s := s.addVersion tw (bothCopies q.repl (cellsAt q.dpa (leBytes q.len (atomicResult q (leNat old))))) [] (some q.thr) []
        let s := s.modReq id (fun q => { q with phase := if q.repl then .performed else .acked, data := old, tw := tw })
        if q.repl then
          .next { s with nextId := s.nextId + 1,
                         ms := { s.ms with stores := s.ms.stores ++ [{ id := s.nextId, die := 0, vd := q.vd, line := q.dpa / 256, cells := [],
                                                                       reqs := [id], repl := true, stage := .replica tw, poisoned := false }] } }
        else .next s
    else .next s

/-! Stores (R119, R122, R133). -/

/-- A store on its way. -/
def State.store? (s : State) (id : Nat) : Option StoreMsg := s.ms.stores.find? (fun m => m.id = id)

/-- Whether a combining entry may go home now: it has aged 64 die cycles, a fence of one of its threads waits, or the package or the
device is being stopped (R119, R277, R379). -/
def mayFlush (s : State) (m : StoreMsg) (since : Nat) : Bool :=
  decide (since + 64 ≤ (s.die m.die).cyc) || (match s.power with
    | .on => false
    | _ => true) ||
    m.reqs.any (fun r => match s.req? r with
      | some q => (match s.thr? q.thr with
          | some t => t.pfen
          | none => false) || (s.cluster q.cluster).preempting.isSome
      | none => false)

/-- COMBINING_FLUSH (R119): a combining entry goes to its home. -/
def execCombiningFlush (id : Nat) (s : State) : Out :=
  match s.store? id with
  | some m => (match m.stage with
      | .combining since =>
        if mayFlush s m since then
          .next { s with ms := { s.ms with stores := s.ms.stores.map (fun x => if x.id = id then { x with stage := .toHome } else x) } }
        else .next s
      | _ => .next s)
  | none => .next s

/-- The requests a store message answers, still outstanding. -/
def answered (s : State) (m : StoreMsg) : List Req := s.ms.reqs.filter (fun q => m.reqs.contains q.id)

/-- The watch records a store's write announces, to be posted once its write time has passed (R357). -/
def announceWatch (s : State) (q : Req) (tw : Nat) : State :=
  if q.watch then
    { s with mg := { s.mg with ringDue := s.mg.ringDue ++ [(tw, q.vd, mkRec { reqInfo q 0x23 with wr := true } false q.thr.tid q.thr.team.num)] } }
  else s

/-- The windows once a store's home has given it its write time (R125). -/
def windowTw (s : State) (q : Req) (tw : Nat) : State :=
  { s with ms := { s.ms with window := s.ms.window.map (fun e =>
      if e.cluster = q.cluster && e.sector = q.dpa / 64 then { e with owns := e.owns.map (fun o => if o.2.1 = q.id then (o.1, q.id, tw) else o) }
      else e) } }

/-- HOME_STORE_ARRIVAL (R122): the home, or a replicated page's sequencer, assigns the write time; the dirty bit is set before the
acknowledgement (R287). Stores merged in one combining entry arrive as one write and have one version and one write time: that two stores
to one line share none (R121) holds of what reaches the home (the model's choice; log entry 70). -/
def execHomeStoreArrival (id : Nat) (s : State) : Out :=
  match s.store? id with
  | some m =>
    let first := !(s.ms.stores.any (fun x => x.id < id && x.line = m.line && x.die = m.die && x.stage == .toHome))
    if m.stage == .toHome && first && !writeHolds s m.vd (m.line * 256) m.repl then
      let qs := answered s m
      let (tw, s) := if m.repl then assignTwRepl s m.line else assignTw s m.line
      let s := s.markDirty m.vd (m.line * 256)
      let s := if m.repl then s.markDirty m.vd (m.line * 256 + replicaOffset) else s
      let whole := if m.poisoned then [] else bothSectors m.repl (qs.flatMap (fun q => wholeSectors q.dpa q.len))
      let sectors := bothSectors m.repl (m.cells.map (fun c => c.1 / 64)).eraseDups
      let s := if m.poisoned then markPoison s sectors else partialPoison s m.vd sectors whole
      let s := s.addVersion tw (if m.poisoned then [] else bothCopies m.repl m.cells) (if m.repl then [] else (qs.map (·.cluster)).eraseDups)
        (if m.repl then (qs.map (·.thr)).head? else none) whole
      let s := qs.foldl (fun s q => announceWatch (windowTw s q tw) q tw) s
      let s := qs.foldl (fun s q => s.modReq q.id (fun q => { q with phase := if m.repl then .performed else .acked, tw := tw })) s
      let rest := s.ms.stores.filter (fun x => x.id ≠ id)
      .next { s with ms := { s.ms with stores := if m.repl then rest ++ [{ m with stage := .replica tw }] else rest } }
    else .next s
  | none => .next s

/-- REPLICA_UPDATE (R133): the multicast reaches the replica's home, and both homes have acknowledged. Only the sequencer's line gains heat
by a store; the multicast is not taken as a store that arrives at the replica's line (R123; the model's choice; log entry 87). -/
def execReplicaUpdate (id : Nat) (s : State) : Out :=
  match s.store? id with
  | some m => (match m.stage with
      | .replica _ =>
        if homeHolds s (m.line * 256 + replicaOffset) then .next s else
        let s := m.reqs.foldl (fun s r => s.modReq r (fun q => { q with phase := .acked })) s
        .next { s with ms := { s.ms with stores := s.ms.stores.filter (fun x => x.id ≠ id) } }
      | _ => .next s)
  | none => .next s

/-- The window entry of an acknowledged store takes its write time (R125). -/
def windowAck (s : State) (q : Req) : State :=
  { s with ms := { s.ms with window := s.ms.window.map (fun e =>
      if e.vd = q.vd && e.cluster = q.cluster && e.sector = q.dpa / 64 then { e with unacked := e.unacked - 1, tw := max e.tw q.tw } else e) } }

/-- WINDOW_RETIRE (R125): an entry leaves 4 ns after its last acknowledged write time. -/
def execWindowRetire (cluster sector : Nat) (s : State) : Out :=
  let gone := fun (e : WinEntry) => e.cluster = cluster && e.sector = sector && e.unacked = 0 && e.tw + 4 ≤ s.now
  .next { s with ms := { s.ms with window := s.ms.window.filter (fun e => !gone e) } }

/-- HEAT_DECAY (R123): a line that received no store for 4,096 ns cools. -/
def execHeatDecay (line : Nat) (s : State) : Out :=
  let h := s.home line
  if h.heat ≠ 0 && h.lastStore + 4096 ≤ s.now then .next (s.putHome line { h with heat := h.heat - 1, lastStore := s.now }) else .next s

/-- SCRUB (R345): a sector is read and corrected. -/
def execScrub (sector : Nat) (s : State) : Out := .next (if hbmDpa (64 * sector) then decodeSector s sector else s)

/-- LEASE_ENTRY_ERROR (R350). -/
def execLeaseEntryError (line : Nat) (s : State) : Out := .next (s.putHome line { s.home line with lmax := s.now + 4096 })

/-! Completion at the core (R127). -/

/-- Registers written by a returned load (R194, R196); nothing of an exited thread is written (R187). -/
def writeLoaded (s : State) (q : Req) : State :=
  match q.i with
  | .ldu f =>
    let put := fun (r : Vector Word 32) (j : Nat) => vset r (f.d.toNat + j) (loadedWord q.i q.data (f.d.toNat + j))
    s.modTeam q.thr.team (fun t => { t with s := (List.range (2 ^ (f.cnt.toNat % 4))).foldl put t.s })
  | i =>
    let (d, n) := longDest i
    s.modThr q.thr (fun t => if t.st == .exited then t else t.writeRun d ((List.range n).map (fun j => loadedWord i q.data (d + j))))

/-- A load's data return (R194): registers are written and the flags fall. -/
def returnLoad (s : State) (q : Req) : State :=
  if q.poisoned then failReq s q 0x1C else if q.failed then failReq s q 0x17 else fallFlags (writeLoaded (s.dropReq q.id) q) q

/-- LOAD_RETURN (R194, R196): a load served above the home or at the scratchpad performs and returns; one that has performed
returns. -/
def execLoadReturn (id : Nat) (s : State) : Out :=
  match s.req? id with
  | none => .next s
  | some q =>
    if !isLoadReq q then .next s
    else if q.phase != .issued then .next (returnLoad s q)
    else if !mayPerform s q then .next s
    else if q.space == .scratch then .next (returnLoad s { q with data := scrRead s q.thr.team q.dpa q.len })
    else if q.space == .hbm && (l1Hit s q || l2Hit s q) then
      let s := if l1Hit s q then s
        else fillL1 s (dieOfCluster q.cluster) q.core q.vd (servedDpa (dieOfCluster q.cluster) q.dpa q.repl) q.lcls
      .next (returnLoad s { q with data := readNow s q })
    else .next s

/-- A posted aperture store the IOD accepts (R131, R195); where a system-scope fence of its thread waits for it, a zero-length read follows
it to its PCI Express port (R298). -/
def acceptPosted (s : State) (q : Req) : State :=
  let s := sendRequest s { outRequest s q.thr q.vd q.gva q.gpa q.dpa with data := q.data, posted := true }
  let followed := pcieDpa q.dpa && (match s.thr? q.thr with
    | some t => t.pfen && t.pfsc = 4 && decide (q.id < t.pfid)
    | none => false)
  fallFlags ((if followed then fenceRead q.thr s (q.dpa / 2 ^ 48) else s).dropReq q.id) q

/-- STORE_ACK (R195, R198): a store or reduction completes; a global one raises TWOWED. -/
def execStoreAck (id : Nat) (s : State) : Out :=
  match s.req? id with
  | none => .next s
  | some q =>
    if !(isStoreReq q || isRedReq q) then .next s
    else if q.space == .scratch then
      if !mayPerform s q then .next s
      else if isStoreReq q then .next (fallFlags ((scrWrite s q.thr.team q.dpa q.data).dropReq id) q)
      else .next (fallFlags ((scratchAtomic s q).2.dropReq id) q)
    else if q.space == .aperture then
      if isStoreReq q then
        (if s.ms.reqs.any (fun p => p.id < id && isStoreReq p && p.thr == q.thr && p.space == .aperture) then .next s
         else .next (acceptPosted s q))
      else if q.phase == .acked then
        .next (if q.poisoned then failReq s q 0x1C else if q.failed then failReq s q 0x17 else fallFlags (s.dropReq id) q)
      else .next s
    else if q.phase == .acked then
      if q.poisoned then .next (failReq (announceWatch s q 0) q 0x1C)
      else
        let s := if isRedReq q then announceWatch s q q.tw else if q.repl then s else windowAck s q
        .next (fallFlags (raiseTwowed (s.dropReq id) q.thr q.tw) q)
    else .next s

/-- ATOM_RETURN (R197): an atomic's old value is written and its flag falls. -/
def execAtomReturn (id : Nat) (s : State) : Out :=
  match s.req? id with
  | none => .next s
  | some q =>
    if !isAtomReq q then .next s
    else if q.space == .scratch then
      if mayPerform s q then
        (let (old, s) := scratchAtomic s q
         .next (returnLoad s { q with data := old }))
      else .next s
    else if q.phase == .acked then
      if q.poisoned then .next (failReq (announceWatch s q 0) q 0x1C)
      else
        let s := announceWatch s q q.tw
        .next (returnLoad (if q.space == .hbm then raiseTwowed s q.thr q.tw else s) q)
    else .next s

/-! Apertures (R131, R297, R298). -/

/-- The outbound requests without one. -/
def dropOut (s : State) (id : Nat) : State := { s with ms := { s.ms with outs := s.ms.outs.filter (fun o => o.id ≠ id) } }

/-- A system-access fault of a thread at its present position, of an outbound request that failed (R298, R332). -/
def systemAccess (s : State) (o : OutReq) : State :=
  match s.thr? o.thr with
  | some t => makeDue s o.thr { cause := 0x17, detail := 0, addr := o.gva, wr := o.posted, src := 0, rp := t.pc, rc := t.cpos, repa := t.repActive, repc := t.repc }
  | none => s

/-- Sets CAUSE, ERR and QREJ and signals IVEC where IRQR is 1 (R249, R251). -/
def rejectKick (s : State) (v j cause : Nat) (x : Word) (signals : Bool) : State :=
  let q := (s.vd v).queue j
  let s := s.modQueue v j (fun q => { q with cause := cause, err := true, qrej := BitVec.ofNat 64 (bits x 47 8 * 256) })
  if signals && q.irqr then s.announce v (j + 1) q.ivec.toNat 0 else s

/-- An increment of a completion counter that has failed at its destination (R265 step 2); its launch completes all the same. -/
def incrementFails (s : State) (lid : Nat) : State :=
  match s.launch? lid with
  | some l => rejectKick s l.vd l.j 0x0A l.addr true
  | none => s

/-- An outbound request ends: well, with its data; with poison, of which its origin sees none (R348); or refused or timed out (R298,
R302). -/
def endOut (s : State) (o : OutReq) (ok poison : Bool) (data : List Byte) : State :=
  let s := dropOut s o.id
  if o.abandoned then s
  else if let some lid := o.launch then (if ok && !poison then s else incrementFails s lid)
  else match o.req, o.op, o.fenceOf with
    | some r, _, _ => s.modReq r (fun q => { q with phase := .acked, failed := !ok, poisoned := poison, data := (data ++ List.replicate q.len 0).take q.len })
    | _, some op, _ =>
      if s.ops.any (fun x => x.id = op) then
        { s with ops := s.ops.map (fun x => if x.id ≠ op then x else if poison then { x with phase := .failed 0x1C o.gva false }
            else if ok then { x with apt := x.apt ++ [(o.dpa, data)] } else { x with phase := .failed 0x17 o.gva o.posted }) }
      else if ok then s else systemAccess s o
    | _, _, some k =>
      let s := { s with ms := { s.ms with outs := s.ms.outs.filter (fun p => !(p.posted && p.serves k && p.id < o.id && p.dpa / 2 ^ 48 = o.dpa / 2 ^ 48)) } }
      if ok then s else systemAccess s o
    | _, _, _ => if ok then s else systemAccess s o

/-- APERTURE_COMPLETION (R298). -/
def execApertureCompletion (id : Nat) (r : OutReply) (data : List Byte) (s : State) : Out :=
  match s.ms.outs.find? (fun o => o.id = id) with
  | some o => .next (endOut s o r.ok r.poison data)
  | none => .next s

/-- APERTURE_TIMEOUT (R298): 10 ms without a PCI Express completion, 200 µs without a Furrow acknowledgement. -/
def execApertureTimeout (id : Nat) (s : State) : Out :=
  match s.ms.outs.find? (fun o => o.id = id) with
  | some o =>
    let limit := if furrowDpa o.dpa then 200000 else 10000000
    if o.sentAt + limit ≤ s.now && (!o.posted || furrowDpa o.dpa) then .next (endOut s o false false []) else .next s
  | none => .next s

/-! Fences (R128, R130, R200, R201). -/

/-- The engine path of an operation, if it is a memory instruction (R127). -/
def memPath (i : Instr) : Option Nat := pathOf i

/-- Whether a memory instruction a member issued before its fence, on a path of a mask, has yet to complete (R127, R128). -/
def sourcesBusy (s : State) (t : Thread) : Bool :=
  let onPath := fun (i : Instr) => (memPath i).any (fun p => t.pfsrc.getLsbD p)
  s.ms.reqs.any (fun q => q.id < t.pfid && onPath q.i && (q.thr == t.key || (q.thr.team == t.key.team && q.owners.contains t.key.tid))) ||
    s.ops.any (fun o => (o.id < t.pfid || o.recorded) && onPath o.i && o.team == t.key.team && (o.owners.contains t.key.tid || o.tid = t.key.tid))

/-- Whether a member's pending fence has its condition (R128, R130): a fence.x waits for TWOWED where the core is a source, at whatever
scope; one restored from a context slot waits for it at a scope of die or wider too (R200). -/
def fenceDone (s : State) (t : Thread) : Bool :=
  let device := if t.pfx then t.pfsrc.getLsbD 0 else 2 ≤ t.pfsc || (!(t.pfsrc == 15 && t.pfdst == 15) && t.pfsrc.getLsbD 0)
  !sourcesBusy s t && (!device || t.twowed + 4 ≤ s.now) &&
    (t.pfsc ≠ 1 || t.pfx || !(s.ms.versions.any (fun v => v.writer == some t.key))) &&
    (t.pfsc ≠ 4 || !(s.ms.outs.any (fun o => o.serves t.key && (o.posted || o.fenceOf.isSome) && !o.abandoned) ||
      s.ms.reqs.any (fun q => q.id < t.pfid && isStoreReq q && q.space == .aperture && q.thr == t.key)))

/-- FENCE_COMPLETE (R200): PFEN clears. -/
def execFenceComplete (k : ThrKey) (s : State) : Out :=
  match s.thr? k with
  | some t =>
    if t.pfen && fenceDone s t then .next (s.modThr k (fun t => { t with pfen := false, pfx := false, lines := touched t.lines })) else .next s
  | none => .next s

end Sys2Proof.Machine
end

