-- ==== Sys2Proof/Machine/Engine.lean ====
section
/-!
DEFINITION. What the cluster engines share (R203 to R205, R220 to R222, R238, R260): operations in team issue order, the accesses
they make on their own paths, how a fault holds or ends one, and how a group starts one.
-/

namespace Sys2Proof.Machine

/-! Bulk state of a team: sparse areas read and written in runs. -/

/-- The cells of a memory from an address on. -/
def memFrom (m : Mem) (a : Nat) : Mem := m.dropWhile (fun c => c.1 < a)

/-- n bytes from address a, of cells that start no lower. -/
def takeBytes : Nat → Mem → Nat → List Byte
  | 0, _, _ => []
  | n + 1, [], a => 0 :: takeBytes n [] (a + 1)
  | n + 1, (k, b) :: rest, a => if k = a then b :: takeBytes n rest (a + 1) else 0 :: takeBytes n ((k, b) :: rest) (a + 1)

/-- n bytes from address a, in one walk. -/
def memRange (m : Mem) (a n : Nat) : List Byte := takeBytes n (memFrom m a) a

/-- A memory with a run of bytes replaced, in one walk. -/
def memSplice (m : Mem) (a : Nat) (bs : List Byte) : Mem :=
  m.filter (fun c => c.1 < a) ++ (cellsAt a bs).filter (fun c => c.2 != 0) ++ m.filter (fun c => a + bs.length ≤ c.1)

/-- The number a run of bytes spells. -/
def memNat (m : Mem) (a n : Nat) : Nat := leNat (memRange m a n)

/-! Team resources and their order (R220). -/

/-- Numbers of the resources an operation reads and writes: tiles 0 to 31, hypervectors 48 to 55, counters 56 to 59, the match
store 60, and quarter q of accumulator a at 100 + 4 a + q, and the ACCS bit of accumulator a at 400 + a. -/
def tileRes (t : Nat) : Nat := t
def hvRes (h : Nat) : Nat := 48 + h
def counterRes (m : Nat) : Nat := 56 + m
def storeRes : Nat := 60
def accRes (a q : Nat) : Nat := 100 + 4 * a + q
def accsRes (a : Nat) : Nat := 400 + a

/-- Whether an operation has yet to take its effect on team state. -/
def effectDue (o : EngOp) : Bool := match o.phase with
  | .queued | .held => true
  | _ => false

/-- Whether two operations touch a common resource and one writes it. -/
def conflicts (p o : EngOp) : Bool :=
  p.wr.any (fun r => o.wr.contains r || o.rd.contains r) || p.rd.any (fun r => o.wr.contains r)

/-- Whether an operation may take effect: queued, its issue cycle over, and no earlier one of its team conflicts (R220). -/
def opReady (s : State) (o : EngOp) : Bool :=
  o.phase == .queued && decide (o.enterCyc < (s.die (dieOfCluster o.cluster)).cyc) && !(s.ops.any (fun p => p.team == o.team && p.ord < o.ord && effectDue p && conflicts p o))

/-- An operation in the table. -/
def State.op? (s : State) (id : Nat) : Option EngOp := s.ops.find? (fun o => o.id = id)
def State.modOp (s : State) (id : Nat) (f : EngOp → EngOp) : State :=
  { s with ops := s.ops.map (fun o => if o.id = id then f o else o) }

/-- An operation that has just been served goes to the end of its rotation (R260). -/
def rotate (s : State) (id : Nat) : State :=
  { s with ops := s.ops.filter (fun o => o.id ≠ id) ++ s.ops.filter (fun o => o.id = id) }

/-- The issuing thread of an operation, and its device. -/
def opThread (o : EngOp) : ThrKey := { team := o.team, tid := o.tid }
def opVd (s : State) (o : EngOp) : Nat := match s.team? o.team with
  | some t => t.vd
  | none => 0

/-- SRC of an operation (R332): 1 the copy engine, 2 the tile path, 3 the hypervector path. -/
def opSrc (i : Instr) : Nat :=
  match i with
  | .cpy _ => 1
  | .tld _ | .tst _ | .ast _ | .mma _ | .acl _ | .adrn _ | .abyp _ => 2
  | _ => 3

/-- The unit that serves an operation chunk by chunk (R205, R228, R243); none for those of the reservation table. -/
def unitOf (i : Instr) : Option EngineUnit :=
  match i with
  | .cpy _ | .hscan _ => some .copy
  | .tld _ | .tst _ => some .tile
  | .acl _ | .mma _ | .adrn _ | .abyp _ | .ast _ => none
  | _ => some .hyper

/-- Whether an operation takes one of its team's 32 command places and is recorded at a write-back (R70, R238). -/
def takesPlace (i : Instr) : Bool :=
  match i with
  | .cpy _ | .tld _ | .hscan _ => true
  | _ => false

/-! Accesses on an engine path. -/

/-- Why an access of an operation does not go on: a translation failure or an ended command, each with its address and direction;
data to be fetched from a system aperture; or a home that holds every request. -/
inductive EngStop where
  | xlat (e : XErr) (gva : Nat) (wr : Bool)
  | ended (cause gva : Nat) (wr : Bool)
  | ask (gva gpa dpa : Nat)
  | later
  deriving DecidableEq, Repr

/-- One translated piece, inside a 64 B sector, of an engine access. -/
def engLocate (s : State) (o : EngOp) (a : Nat) (wr : Bool) : Except EngStop Xlat :=
  match translate s (.cluster o.cluster) (opVd s o) a (if wr then .write else .read) with
  | .error e => .error (.xlat e a wr)
  | .ok x =>
    if apertureDpa x.dpa then
      (if endpointHeld s (opVd s o) x.dpa then .error .later
       else if apertureOk s (opVd s o) x.dpa (if wr then .store else .load) then .ok x else .error (.ended 0x17 a wr))
    else if (if wr then writeHolds s (opVd s o) x.dpa x.repl else homeHolds s (servedDpa (dieOfCluster o.cluster) x.dpa x.repl)) then .error .later
    else .ok x

/-- What an access leaves on its way, made or not: its walk's reads, and the mark of one that translates to a system aperture (R369). -/
def engWay (s : State) (o : EngOp) (a : Nat) (wr : Bool) : State :=
  let s := s.walked (.cluster o.cluster) (opVd s o) a
  match translate s (.cluster o.cluster) (opVd s o) a (if wr then .write else .read) with
  | .ok x => if apertureDpa x.dpa then markIneligible s o.team else s
  | .error _ => s

/-- What an access leaves beside its data: the cached translation and a watch match (R357). -/
def engNote (s : State) (o : EngOp) (a len : Nat) (x : Xlat) (wr : Bool) (tw : Nat) : State :=
  let s := s.cacheXlat (.cluster o.cluster) (opVd s o) a x
  watchExternal s (opVd s o) x.gpa len (!wr) wr (opSrc o.i) (opSrc o.i) o.tid o.team.num tw

/-- One piece read: at the home with no lease and no window (R204, R228, R240), or from an aperture once its data have come. A sector
found uncorrectable is marked, and the access compared, though no data come of it (R346, R347, R356). -/
def engReadPiece (s : State) (o : EngOp) (a len : Nat) : State × Except EngStop (List Byte) :=
  let s := engWay s o a false
  match engLocate s o a false with
  | .error e => (s, .error e)
  | .ok x =>
    if apertureDpa x.dpa then
      match look x.dpa o.apt with
      | some bs => (engNote s o a len x false s.now, .ok ((bs ++ List.replicate len 0).take len))
      | none => (s, .error (.ask a x.gpa x.dpa))
    else
      let d := servedDpa (dieOfCluster o.cluster) x.dpa x.repl
      let s := decodeRange (engNote s o a len x false s.now) d len
      (s, if anyPoison s d len then .error (.ended 0x1C a false) else .ok (memReadN s.ms.mem d len))

/-- The pieces of a run of bytes, each inside one 64 B sector; addresses are taken mod 2^64. -/
def sectorPieces : Nat → Nat → Nat → List (Nat × Nat)
  | 0, _, _ => []
  | fuel + 1, a, len =>
    if len = 0 then []
    else
      let n := min len (64 - a % 64)
      (a, n) :: sectorPieces fuel ((a + n) % 2 ^ 64) (len - n)
def piecesOf (a len : Nat) : List (Nat × Nat) := sectorPieces (len / 64 + 2) (a % 2 ^ 64) len

/-- A run of bytes read on an engine path: what the accesses leave, and the bytes or what stopped them. -/
def engRead (s : State) (o : EngOp) (sp : Bool) (a len : Nat) : State × Except EngStop (List Byte) :=
  if sp then (s, .ok (scrRead s o.team (a % 2 ^ 64) len))
  else
    let one := fun (acc : State × Except EngStop (List Byte)) (p : Nat × Nat) =>
      match acc.2 with
      | .error _ => acc
      | .ok bs =>
        let r := engReadPiece acc.1 o p.1 p.2
        (r.1, r.2.map (bs ++ ·))
    (piecesOf a len).foldl one (s, .ok [])

/-- The members of an operation whose system-scope fence, issued after it, waits for its posted writes (R298). -/
def fenceWaiters (s : State) (o : EngOp) : List ThrKey :=
  (((if o.owners.isEmpty then [o.tid] else o.owners).map (fun n => ({ team := o.team, tid := n } : ThrKey)))).filter (fun k =>
    (s.thr? k).any (fun t => t.pfen && t.pfsc = 4 && (o.recorded || decide (o.id < t.pfid))))

/-- One piece written: it takes its write time at the home, or is posted to an aperture (R122, R131, R204). The operation
remembers its latest write time. -/
def engWritePiece (s : State) (o : EngOp) (a : Nat) (bs : List Byte) : State × Option EngStop :=
  let s := engWay s o a true
  match engLocate s o a true with
  | .error e => (s, some e)
  | .ok x =>
    if apertureDpa x.dpa then
      let out := { outRequest s (opThread o) (opVd s o) a x.gpa x.dpa with op := some o.id, owners := o.owners, data := bs, posted := true }
      let s := engNote (sendRequest s out) o a bs.length x true s.now
      (if pcieDpa x.dpa then (fenceWaiters s o).foldl (fun s k => fenceRead k s (x.dpa / 2 ^ 48)) s else s, none)
    else
      let (tw, s) := homeWrite s (opVd s o) x.repl x.dpa bs
      ((engNote s o a bs.length x true tw).modOp o.id (fun o => { o with lastTw := max o.lastTw tw }), none)

/-- A run of bytes written on an engine path, sector by sector: the state with the sectors written, and what stopped it. -/
def engWrite (s : State) (o : EngOp) (sp : Bool) (a : Nat) (bs : List Byte) : State × Option EngStop :=
  if sp then (scrWrite s o.team (a % 2 ^ 64) bs, none)
  else
    let one := fun (acc : State × Option EngStop × List Byte) (p : Nat × Nat) =>
      match acc.2.1 with
      | some _ => acc
      | none => match engWritePiece acc.1 o p.1 (acc.2.2.take p.2) with
        | (s, some e) => (s, some e, [])
        | (s, none) => (s, none, acc.2.2.drop p.2)
    let r := (piecesOf a bs.length).foldl one (s, none, bs)
    (r.1, r.2.1)

/-- What a stopped chunk leaves (R205, R222, R334): a replayable fault holds the command; another ends it; an aperture read is sent
out once; a home that holds requests leaves everything for later. `s0` is the state before the chunk. -/
def engStop (s0 s : State) (o : EngOp) (e : EngStop) : State :=
  match e with
  | .later => s0
  | .ask a g d =>
    if s0.ms.outs.any (fun x => x.op == some o.id && !x.posted && x.dpa = d) then s0
    else markIneligible (sendRequest s0 { outRequest s0 (opThread o) (opVd s0 o) a g d with op := some o.id }) o.team
  | .ended c a wr => s.modOp o.id (fun o => { o with phase := .failed c a wr, apt := [] })
  | .xlat e a wr =>
    let (c, replay) := xCause s e
    let info : TrapInfo := { cause := c, detail := 0, addr := a, wr := wr, src := opSrc o.i, rp := o.pc, rc := o.cpos, repa := o.repa,
                             repc := o.repc }
    if replay then
      holdFault (s.modOp o.id (fun o => { o with phase := .held, apt := [] })) (opVd s o) (.command o.id) info o.tid o.team.num e
    else
      (permReport s (opVd s o) info { team := o.team, tid := o.tid } e).modOp o.id (fun o => { o with phase := .failed c a wr, apt := [] })

/-- An operation whose work is done: it completes when its last write time has passed (R127). -/
def opDone (s : State) (id : Nat) : State :=
  s.modOp id (fun o => { o with phase := .done (max o.lastTw s.now), apt := [] })

/-- Registers of a member written by an operation; nothing of an exited thread is written (R187). -/
def writeOpRegs (s : State) (k : ThrKey) (d : Nat) (ws : List Word) : State :=
  s.modThr k (fun t => if t.st == .exited then t else t.writeRun d ws)

/-! Issue. -/

/-- What a group asks an engine for: one operation with its acting lanes, quarter, the members whose flags it counts, the
resources it reads and writes, and its captured operands. -/
structure Ask where
  tid : Nat
  lanes : List Nat
  quarter : Nat
  owners : List Nat
  rd : List Nat
  wr : List Nat
  vals : List Nat
  deriving DecidableEq, Repr

/-- The instruction word of an operation as issued, for its record (R238). -/
def opWord (i : Instr) : Word := (encodeWord i).getD 0

/-- An operation's place in team issue order (R220): by die cycle, then core, then as issued; a restored command precedes them all. -/
def issueOrder (cyc core n : Nat) : Nat := ((cyc + 1) * 1024 + core) * 2 ^ 64 + n

/-- Starts an operation: it joins the rotation, and its owners' flags count (R139, R221). -/
def startOp (s : State) (cx : Ctx) (i : Instr) (k : Ask) : State :=
  let fl := flagOfInstr cx.hdr i
  let o : EngOp := { id := s.nextId, i := i, word := opWord i, team := cx.team.key, tid := k.tid, lanes := k.lanes, quarter := k.quarter,
                     owners := k.owners, flag := fl, cluster := cx.cluster, ord := issueOrder (s.die cx.die).cyc cx.core s.nextId, rd := k.rd, wr := k.wr, vals := k.vals,
                     prog := 0, best := [], enterCyc := (s.die cx.die).cyc, lastTw := 0, phase := .queued, pc := cx.g.h, cpos := cx.g.pos,
                     repa := cx.t0.repActive, repc := cx.t0.repc, recorded := false, apt := [] }
  let s := { s with nextId := s.nextId + 1, ops := s.ops ++ [o] }
  k.owners.foldl (fun s n => s.modThr { team := cx.team.key, tid := n } (fun t => t.flagUp fl)) s

/-- Commands of a team that hold a place (R70). -/
def placesUsed (s : State) (k : TeamKey) : Nat := (s.ops.filter (fun o => o.team == k && takesPlace o.i)).length

/-- Reservation-table entries in use on a cluster (R234). -/
def entriesUsed (s : State) (cluster : Nat) : Nat :=
  (s.ops.filter (fun o => o.cluster = cluster && (unitOf o.i).isNone && effectDue o)).length

/-- What issuing decides: the members that trap, each with its record; the operations to start; and effects made at once. -/
structure Verdict where
  traps : List (Thread × TrapInfo)
  asks : List Ask
  now_ : State → State

/-- Whether an instruction takes its place in team issue order (R220): all of the matrix and hypervector chapter, which cpy is not of. -/
def teamOrdered : Instr → Bool
  | .cpy _ => false
  | _ => true

/-- Whether an engine instruction of the team has issued on a core of a higher number in this very die cycle: this one comes before it in
team issue order, and as it has not, it issues in a later cycle (R220). -/
def behindTeam (s : State) (cx : Ctx) (i : Instr) : Bool :=
  teamOrdered i && match cx.team.lastEng with
    | some (cyc, core) => cyc = (s.die cx.die).cyc && cx.core < core
    | none => false

/-- The issue of an engine instruction noted (R220). -/
def noteEng (s : State) (cx : Ctx) (i : Instr) : State :=
  if teamOrdered i then s.modTeam cx.team.key (fun t => { t with lastEng := some ((s.die cx.die).cyc, cx.core) }) else s

/-- Issues an engine instruction from its verdict: it stalls in place where a command place or a table entry is missing, or its turn in team
issue order is over for this cycle. -/
def issueEngine (s : State) (cx : Ctx) (i : Instr) (v : Verdict) : State :=
  let full := if takesPlace i then decide (!v.asks.isEmpty ∧ 32 < placesUsed s cx.team.key + v.asks.length)
    else if (unitOf i).isNone then decide (!v.asks.isEmpty ∧ 16 < entriesUsed s cx.cluster + v.asks.length)
    else false
  if full || behindTeam s cx i then s
  else
    let s := v.now_ (noteEng s cx i)
    let s := v.asks.foldl (fun s k => startOp s cx i k) s
    let s := v.traps.foldl (fun s p => raise s p.1.key p.2) s
    commit s cx (cx.ts.map (fun t => (t.key.tid, if v.traps.any (fun p => p.1.key == t.key) then .gone else .adv)))

/-- Checks made of every member (R222 steps 1 to 3, R327): a spawned team, a missing match store, a detached member, a kind
mismatch. -/
def kindTrap (cx : Ctx) (store mismatch : Bool) (t : Thread) : Option Nat :=
  if cx.team.key.spawned || (store && !cx.launch.mstr) then some 0x05
  else if t.detached then some 0x06
  else if mismatch then some 0x08
  else none

/-- Members that fail the checks of every member, with their records, and the others. -/
def kindTraps (cx : Ctx) (store mismatch : Bool) : List (Thread × TrapInfo) × List Thread :=
  (cx.ts.filterMap (fun t => (kindTrap cx store mismatch t).map (fun c => (t, cx.info t c))),
   cx.ts.filter (fun t => (kindTrap cx store mismatch t).isNone))

/-- Whether a memory operand names a scratchpad the team does not own: step 1 of R191, within step 5 of R222. -/
def noScratch (cx : Ctx) (sp : Bool) : Bool := sp && scratchBytes cx.team.key cx.launch = 0

/-- Whether a run of bytes fails R191 steps 3 and 5: an address above 48 bits, or outside the team's scratchpad. -/
def runTrap (cx : Ctx) (sp : Bool) (a len : Nat) : Option Nat :=
  if len = 0 then none
  else if sp then (if scratchBytes cx.team.key cx.launch < a % 2 ^ 64 + len then some 0x12 else none)
  else if 2 ^ 48 < a % 2 ^ 64 + len then some 0x10 else none

/-- The first run that fails, of those given in order. -/
def firstRunTrap (cx : Ctx) (sp : Bool) : List (Nat × Nat) → Option (Nat × Nat)
  | [] => none
  | (a, n) :: rest => match runTrap cx sp a n with
    | some c => some (c, a % 2 ^ 64)
    | none => firstRunTrap cx sp rest

/-- A vector register of a member as a number. -/
def regN (s : State) (t : Thread) (r : Nat) : Nat := (s.readV t.key r).toNat

/-! cpy (R203). -/

/-- Bit [23], the destination space, and bit [22], the source space, of cpy: 1 is the scratchpad. -/
def cpyDstScr (f : FM) : Bool := f.sp
def cpySrcScr (f : FM) : Bool := f.cnt.getLsbD 2

end Sys2Proof.Machine
end

