-- ==== Sys2Proof/Machine/Copy.lean ====
section
/-!
DEFINITION. The copy engine (R203 to R205, R243): cpy and hscan as they issue, and the chunks of both.
-/

namespace Sys2Proof.Machine

/-! cpy (R203). -/

/-- Bytes or elements of a copy; a copy of none completes at issue. -/
def cpyCount (f : FM) (b : Nat) : Nat :=
  match f.sub.toNat with
  | 0 => b % 2 ^ 32
  | 1 => if b % 2 ^ 32 = 0 then 0 else b / 2 ^ 32
  | _ => b / 2 ^ 32

/-- Whether a copy's descriptor breaks the table of R203. -/
def badDescriptor (f : FM) (b b1 : Nat) : Bool :=
  match f.sub.toNat with
  | 0 => b / 2 ^ 32 != 0
  | 1 => false
  | _ => !([1, 2, 4, 8, 16, 32, 64].contains (b % 2 ^ 32)) || b1 % 4 != 0

/-- Whether some row of a side of a .2d copy fails a run check: rows are at base + q × stride, so for at most 2^32 rows the first
and the last decide unless addresses pass 2^64, and then some row lies above 48 bits as well. -/
def rowsTrap (cx : Ctx) (sp : Bool) (base stride rb nr : Nat) : Option Nat :=
  if rb = 0 || nr = 0 then none
  else
    let last := base % 2 ^ 64 + (nr - 1) * stride
    let limit := if sp then scratchBytes cx.team.key cx.launch else 2 ^ 48
    if limit < base % 2 ^ 64 + rb || limit < last + rb then some (if sp then 0x12 else 0x10) else none

/-- The run checks of one kind of space for a copy (R203 steps 3 and 5): both sides of .1d and .2d, the non-indexed side of .gather
and .scatter, and the index table. The answer is the cause, the address of the range and whether it is written. -/
def cpyRuns (cx : Ctx) (f : FM) (scr : Bool) (d a b b1 : Nat) : Option (Nat × Nat × Bool) :=
  let n := b / 2 ^ 32
  let lo := b % 2 ^ 32
  let dst := fun (c : Option Nat) => if cpyDstScr f = scr then c.map (fun c => (c, d, true)) else none
  let src := fun (c : Option Nat) => if cpySrcScr f = scr then c.map (fun c => (c, a, false)) else none
  let table := if scr then none else (runTrap cx false b1 (4 * n)).map (fun c => (c, b1, false))
  match f.sub.toNat with
  | 0 => (dst (runTrap cx scr d lo)).or (src (runTrap cx scr a lo))
  | 1 => (dst (rowsTrap cx scr d (b1 / 2 ^ 32) lo n)).or (src (rowsTrap cx scr a (b1 % 2 ^ 32) lo n))
  | 2 => (dst (runTrap cx scr d (n * lo))).or table
  | _ => (src (runTrap cx scr a (n * lo))).or table

/-- The checks of one enabled member's copy, in the order of R203 from step 2. -/
def cpyCheck (cx : Ctx) (f : FM) (d a b b1 : Nat) : Option (Nat × Nat × Bool) :=
  let (indexed, wr) := if f.sub = 2 then (a, false) else (d, true)
  if badDescriptor f b b1 then some (0x18, 0, false)
  else match cpyRuns cx f false d a b b1 with
    | some c => some c
    | none =>
      if 2 ≤ f.sub.toNat && indexed % (b % 2 ^ 32) ≠ 0 then some (0x11, indexed, wr) else cpyRuns cx f true d a b b1

/-- cpy (R203). -/
def execCpy (f : FM) (s : State) : Out :=
  issue s (fun cx => .cpy (cx.fm f)) (fun cx =>
    let e := cx.fm f
    let two := e.sub != 0
    let kindBad := (cpyDstScr e || cpySrcScr e) && scratchBytes cx.team.key cx.launch = 0
    let ops := fun (t : Thread) => (regN s t e.d.toNat, regN s t e.a.toNat, regN s t e.b.toNat, if two then regN s t (e.b.toNat + 1) else 0)
    let trapOf := fun (t : Thread) =>
      if kindBad then some (t, cx.info t 0x05)
      else if !enabled t f.g then none
      else
        let (d, a, b, b1) := ops t
        (cpyCheck cx e d a b b1).map (fun c => (t, { cx.info t c.1 with addr := c.2.1, wr := c.2.2 }))
    let go := cx.ts.filter (fun t => enabled t f.g && (trapOf t).isNone)
    let asks := go.filterMap (fun t =>
      let (d, a, b, b1) := ops t
      if cpyCount e b = 0 then none
      else some { tid := t.key.tid, lanes := [t.key.tid], quarter := 0, owners := [t.key.tid], rd := [], wr := [], vals := [d, a, b, b1] })
    issueEngine s cx (.cpy e) { traps := cx.ts.filterMap trapOf, asks := asks, now_ := id })

/-! Chunks of a copy (R204, R205). -/

/-- One transfer of a chunk: source, destination, bytes. -/
structure Xfer where
  src : Nat
  dst : Nat
  len : Nat
  deriving DecidableEq, Repr

/-- The destination sectors of a transfer, each with its own run of the source. -/
def xferPieces (x : Xfer) : List Xfer :=
  let step := fun (acc : Nat × List Xfer) (p : Nat × Nat) =>
    (acc.1 + p.2, acc.2 ++ [{ src := x.src + acc.1, dst := p.1, len := p.2 : Xfer }])
  ((piecesOf x.dst x.len).foldl step (0, [])).2

/-- The bytes of a source run: as they stand in the state, or, for a scratchpad source that the same command also writes, each
either as it stood at the start of the chunk or as it stands now (R204). -/
def xferRead (s0 s : State) (o : EngOp) (sp : Bool) (x : Xfer) : State × Except EngStop (List Byte) :=
  let old := if sp then scrRead s0 o.team (x.src % 2 ^ 64) x.len else []
  let either := fun (now_ : List Byte) => if sp then
      (List.range x.len).map (fun i => if Config.copySeesOwn (s0.free + x.src) i then now_.getD i 0 else old.getD i 0)
    else now_
  let r := engRead s o sp x.src x.len
  (r.1, r.2.map either)

/-- Transfers made one after another, destination sector by destination sector, until one stops. -/
def runXfers (s0 : State) (o : EngOp) (srcScr dstScr : Bool) (xs : List Xfer) (s : State) : State × Option EngStop :=
  let one := fun (acc : State × Option EngStop) (x : Xfer) =>
    match acc.2 with
    | some _ => acc
    | none => match xferRead s0 acc.1 o srcScr x with
      | (s, .error e) => (s, some e)
      | (s, .ok bs) => engWrite s o dstScr x.dst bs
  (xs.flatMap xferPieces).foldl one (s, none)

/-- The bytes a chunk may still move of n, from a place. -/
def chunkLen (n at_ : Nat) : Nat := min (n - at_) 32768

/-- An indexed element's failure (R203): outside the team's scratchpad, or above 48 bits. -/
def elemTrap (s : State) (o : EngOp) (sp : Bool) (a e : Nat) : Option Nat :=
  match s.launch? o.team.lid with
  | none => none
  | some l =>
    if sp then (if scratchBytes o.team l < a + e then some 0x12 else none) else if 2 ^ 48 < a + e then some 0x10 else none

/-- Elements lo to lo + n - 1 of a gather or scatter: each index is read, its element checked and moved (R203, R204). -/
def runElems (s0 : State) (o : EngOp) (f : FM) (d a x e : Nat) (lo n : Nat) (s : State) : State × Option EngStop :=
  let gather := f.sub = 2
  let one := fun (acc : State × Option EngStop) (i : Nat) =>
    match acc.2 with
    | some _ => acc
    | none =>
      let j := lo + i
      match engRead acc.1 o false (x + 4 * j) 4 with
      | (s, .error e) => (s, some e)
      | (s, .ok ib) =>
        let k := leNat ib
        let place := ((if gather then a else d) + k * e) % 2 ^ 64
        match elemTrap s o (if gather then cpySrcScr f else cpyDstScr f) place e with
        | some c => (s, some (.ended c place (!gather)))
        | none =>
          let t : Xfer := if gather then { src := place, dst := (d + j * e) % 2 ^ 64, len := e } else { src := (a + j * e) % 2 ^ 64, dst := place, len := e }
          runXfers s0 o (cpySrcScr f) (cpyDstScr f) [t] s
  (List.range n).foldl one (s, none)

/-- The end of a chunk: the cursor recorded, the operation done where it has reached the end, and its turn passed on. -/
def chunkEnd (s : State) (o : EngOp) (prog : Nat) (last : Bool) : State :=
  let s := rotate (s.modOp o.id (fun o => { o with prog := prog, apt := [] })) o.id
  if last then opDone s o.id else s

/-- One chunk of a copy (R205). -/
def cpyChunk (s : State) (o : EngOp) (f : FM) : State :=
  let v := fun i => o.vals.getD i 0
  let lo := v 2 % 2 ^ 32
  let n := v 2 / 2 ^ 32
  let finish := fun (r : State × Option EngStop) (prog : Nat) (last : Bool) =>
    match r.2 with
    | some e => rotate (engStop s r.1 o e) o.id
    | none => chunkEnd r.1 o prog last
  match f.sub.toNat with
  | 0 =>
    let len := chunkLen lo o.prog
    finish (runXfers s o (cpySrcScr f) (cpyDstScr f) [{ src := v 1 + o.prog, dst := v 0 + o.prog, len := len }] s) (o.prog + len)
      (decide (lo ≤ o.prog + len))
  | 1 =>
    let row := o.prog / 2 ^ 32
    let at_ := o.prog % 2 ^ 32
    let len := chunkLen lo at_
    let x : Xfer := { src := v 1 + row * (v 3 % 2 ^ 32) + at_, dst := v 0 + row * (v 3 / 2 ^ 32) + at_, len := len }
    let next := if at_ + len < lo then row * 2 ^ 32 + at_ + len else (row + 1) * 2 ^ 32
    finish (runXfers s o (cpySrcScr f) (cpyDstScr f) [x] s) next (decide (n * 2 ^ 32 ≤ next))
  | _ =>
    let k := min (n - o.prog) 256
    finish (runElems s o f (v 0) (v 1) (v 3) lo o.prog k s) (o.prog + k) (decide (n ≤ o.prog + k))

/-! Nearest matches (R242, R243). -/

/-- Set bits of a byte, and of a run of bytes. -/
def popByte (b : Byte) : Nat := (List.range 8).foldl (fun n i => n + (if b.getLsbD i then 1 else 0)) 0
def popBytes (bs : List Byte) : Nat := bs.foldl (fun n b => n + popByte b) 0

/-- The distance of two runs of bytes. -/
def hamming (a b : List Byte) : Nat := popBytes (List.zipWith (· ^^^ ·) a b)

/-- A list of (index, distance) sorted by distance, then by index, with one more pair: at most k stay. -/
def bestInsert (k : Nat) (x : Nat × Nat) (best : List (Nat × Nat)) : List (Nat × Nat) :=
  let before := best.filter (fun p => p.2 < x.2 || (p.2 = x.2 && p.1 < x.1))
  let after := best.filter (fun p => !(p.2 < x.2 || (p.2 = x.2 && p.1 < x.1)))
  (before ++ x :: after).take k

/-- The result words of a best list of k places. -/
def bestWords (k : Nat) (best : List (Nat × Nat)) : List Word :=
  (List.range k).map (fun r => match best[r]? with
    | some p => BitVec.ofNat 64 (p.2 * 2 ^ 32 + p.1)
    | none => BitVec.ofNat 64 (2 ^ 64 - 1))

/-- Hypervector h of a team. -/
def hvBytes (s : State) (k : TeamKey) (h : Nat) : List Byte :=
  match s.team? k with
  | some t => memRange t.hv (1024 * h) 1024
  | none => List.replicate 1024 0

/-! hscan (R243). -/

/-- The checks of one enabled member's scan: the operand's range before the memory operand (R222). -/
def hscanCheck (cx : Ctx) (sp : Bool) (table c : Nat) : Option Nat :=
  let run := runTrap cx sp table (1024 * (c % 2 ^ 32))
  if c / 2 ^ 32 ≠ 0 then some 0x09
  else if noScratch cx sp then some 0x05
  else if run = some 0x10 then run
  else if table % 64 ≠ 0 then some 0x11
  else run

/-- hscan (R243): one command for each enabled member. -/
def execHscan (f : FH) (s : State) : Out :=
  issue s (fun cx => .hscan (cx.fh f)) (fun cx =>
    let e := cx.fh f
    let (bad, rest) := kindTraps cx false false
    let on := rest.filter (fun t => enabled t f.g)
    let off := if noScratch cx e.sp then (rest.filter (fun t => !enabled t f.g)).map (fun t => (t, cx.info t 0x05)) else []
    let check := fun (t : Thread) => hscanCheck cx e.sp (regN s t e.a.toNat) (regN s t e.c.toNat)
    let traps := on.filterMap (fun t => (check t).map (fun c => (t, { cx.info t c with addr := if c = 0x09 || c = 0x05 then 0 else regN s t e.a.toNat })))
    let go := on.filter (fun t => (check t).isNone)
    let empty := go.filter (fun t => regN s t e.c.toNat = 0)
    let asks := (go.filter (fun t => regN s t e.c.toNat ≠ 0)).map (fun t =>
      { tid := t.key.tid, lanes := [t.key.tid], quarter := 0, owners := [t.key.tid], rd := [hvRes e.b.toNat], wr := [],
        vals := [regN s t e.a.toNat, regN s t e.c.toNat] : Ask })
    let zero := fun (s : State) => empty.foldl (fun s t => writeOpRegs s t.key e.d.toNat (bestWords (e.kn.toNat + 1) [])) s
    issueEngine s cx (.hscan e) { traps := bad ++ off ++ traps, asks := asks, now_ := zero })

/-- One chunk of a scan: at most 32 entries against the query as it stands (R243). -/
def hscanChunk (s : State) (o : EngOp) (f : FH) : State :=
  let table := o.vals.getD 0 0
  let n := o.vals.getD 1 0 % 2 ^ 32
  let count := min (n - o.prog) 32
  let query := hvBytes s o.team f.b.toNat
  let k := f.kn.toNat + 1
  let one := fun (acc : State × Option EngStop × List (Nat × Nat)) (i : Nat) =>
    match acc.2.1 with
    | some _ => acc
    | none => match engRead acc.1 o f.sp (table + 1024 * (o.prog + i)) 1024 with
      | (s, .error e) => (s, some e, acc.2.2)
      | (s, .ok bs) => (s, none, bestInsert k (o.prog + i, hamming bs query) acc.2.2)
  let r := (List.range count).foldl one (s, none, o.best)
  match r.2.1 with
  | some e => rotate (engStop s r.1 o e) o.id
  | none =>
    let s := r.1.modOp o.id (fun o => { o with best := r.2.2 })
    if n ≤ o.prog + count then
      chunkEnd (writeOpRegs s (opThread o) f.d.toNat (bestWords k r.2.2)) o (o.prog + count) true
    else chunkEnd s o (o.prog + count) false

end Sys2Proof.Machine
end

