-- ==== Sys2Proof/Machine/Tile.lean ====
section
/-!
DEFINITION. Tiles (R223, R224, R228, R229): their layout by slot kind, tld and tst as they issue, and their chunks.
-/

namespace Sys2Proof.Machine

/-! Layout (R223). -/

/-- Depth rows and columns of a tile of a kind. -/
def Kind.depth : Kind → Nat
  | .mxfp4 | .bs4 => 128 | .fp16 | .bf16 => 32 | .fp64 => 4 | _ => 64
def Kind.cols : Kind → Nat
  | .tern => 64 | _ => 16

/-- Bytes of one column of a tile's data, and scale blocks of one column. -/
def Kind.colBytes (k : Kind) : Nat := k.depth * k.width / 8
def Kind.blocks (k : Kind) : Nat := if k.block = 0 then 0 else k.depth / k.block

/-- The scale code of 1.0. -/
def oneScale (x : Slot) : Nat := if x.sfmt = 1 then 0x7F else 0x3C

/-- The 1,280 bytes of a tile from its columns as numbers and its scale bytes in order of column, then block. -/
def tileBytes (k : Kind) (cols : List Nat) (scales : List Byte) : List Byte :=
  let data := cols.flatMap (fun c => leBytes k.colBytes c)
  ((data ++ List.replicate 1024 0).take 1024) ++ ((scales ++ List.replicate 256 0).take 256)

/-- Bytes of tile t of a team. -/
def tileOf (s : State) (k : TeamKey) (t : Nat) : List Byte :=
  match s.team? k with
  | some tm => memRange tm.tiles (1280 * t) 1280
  | none => List.replicate 1280 0
def setTile (s : State) (k : TeamKey) (t : Nat) (bs : List Byte) : State :=
  s.modTeam k (fun tm => { tm with tiles := memSplice tm.tiles (1280 * t) bs })

/-- Column n of a tile as a number, and its scale byte of block b. -/
def tileCol (k : Kind) (tile : List Byte) (n : Nat) : Nat := leNat ((tile.drop (k.colBytes * n)).take k.colBytes)
def tileScale (k : Kind) (tile : List Byte) (n b : Nat) : Nat := (tile.getD (1024 + k.blocks * n + b) 0).toNat

/-! The memory operand of tld and tst (R228). -/

/-- The descriptor v.c: KT, k0 and the count of tiles. -/
def descKT (c : Nat) : Nat := c % 2 ^ 24
def descK0 (c : Nat) : Nat := c / 2 ^ 24 % 2 ^ 24
def descCnt (c : Nat) : Nat := c / 2 ^ 48 % 32 + 1

/-- G of a slot. -/
def tileGrain (x : Slot) : Nat := if x.kind.block ≠ 0 then x.kind.block else if x.kind == .tern then 4 else 1

/-- Bits of an element as stored in memory: FP32 under smoothing. tst takes XFORM as none. -/
def storedWidth (x : Slot) (load : Bool) : Nat := if load && x.xform = 1 then 32 else x.kind.width

/-- Where the elements and the scales of memory row n start. -/
def memRow (x : Slot) (load : Bool) (va va1 kt n : Nat) : Nat × Nat :=
  let elems := kt * storedWidth x load / 8
  let blk := if x.kind.block = 0 then 0 else kt / x.kind.block
  if x.splace = 1 then
    let stride := kt * x.kind.width / 8 + blk
    (va + n * stride, va + n * stride + elems)
  else (va + n * elems, va1 + n * blk)

/-- The runs a command reads or writes, elements and scales of each row, for the checks at issue. -/
def tileRuns (x : Slot) (load : Bool) (va va1 c : Nat) : List (Nat × Nat) :=
  let kt := descKT c
  let k0 := descK0 c
  let g1 := min kt (k0 + descCnt c * x.kind.depth)
  let w := storedWidth x load
  if g1 ≤ k0 then []
  else (List.range x.kind.cols).flatMap (fun n =>
    let (ra, sa) := memRow x load va va1 kt n
    (ra + k0 * w / 8, (g1 - k0) * w / 8) :: (if x.kind.block = 0 then [] else [(sa + k0 / x.kind.block, (g1 - k0) / x.kind.block)]))

/-- The leader's checks (R228): the operand range, then the runs. -/
def tileCheck (cx : Ctx) (x : Slot) (load sp : Bool) (b va va1 c : Nat) : Option (Nat × Nat) :=
  let g := tileGrain x
  if c / 2 ^ 53 ≠ 0 || 31 < b + descCnt c - 1 || descKT c % g ≠ 0 || descK0 c % g ≠ 0 then some (0x09, 0)
  else if noScratch cx sp then some (0x05, 0)
  else firstRunTrap cx sp (tileRuns x load va va1 c)

/-- The smoothing factor of a channel as its FP32 code; 1.0 where the vector gives none (R107). -/
def smoothCode (x : Slot) (scr : Mem) (ch : Nat) : Nat :=
  if x.xk ≤ ch then 0x3F800000
  else
    let c := leNat (memReadN scr (64 * x.xrow + 4 * ch) 4)
    if 2 ^ 23 ≤ c && c < 0x7F800000 then c else 0x3F800000

/-- The factors of the channels a tld covers, read when it reads its operands (R109). -/
def smoothCodes (x : Slot) (scr : Mem) (c : Nat) : List Nat :=
  if x.xform ≠ 1 then []
  else
    let k0 := descK0 c
    (List.range (min (descKT c) (k0 + descCnt c * x.kind.depth) - k0)).map (fun i => smoothCode x scr (k0 + i))

/-- What tld and tst share at issue (R221, R228, R229): the leader alone acts, with its registers. The leader is the lowest-TID member with
enabled(0) of those the checks of every member let pass (the model's choice; log entry 83). -/
def tileIssue (s : State) (cx : Ctx) (i : Instr) (g : Guard) (e : FX) (load : Bool) : State :=
  let x := cx.launch.slot e.slb.toNat
  let (bad, rest) := kindTraps cx false (x.kind == .fp32)
  match rest.find? (fun t => enabled t g) with
  | none => issueEngine s cx i { traps := bad, asks := [], now_ := id }
  | some t =>
    let va := regN s t e.a.toNat
    let va1 := if x.kind.block ≠ 0 && x.splace = 0 then regN s t (e.a.toNat + 1) else 0
    let c := regN s t e.c.toNat
    let b := e.b.toNat
    match tileCheck cx x load e.sp b va va1 c with
    | some (k, a) => issueEngine s cx i { traps := bad ++ [(t, { cx.info t k with addr := a, wr := !load && k ≠ 0x09 && k ≠ 0x05 })], asks := [], now_ := id }
    | none =>
      let tiles := (List.range (descCnt c)).map (fun j => tileRes (b + j))
      let ask : Ask := { tid := t.key.tid, lanes := [t.key.tid], quarter := 0, owners := [t.key.tid], rd := if load then [] else tiles,
                         wr := if load then tiles else [], vals := [va, va1, c] ++ (if load then smoothCodes x cx.team.scr c else []) }
      let gen := fun (s : State) => if load then s.modTeam cx.team.key (fun tm =>
        { tm with tgen := (List.range (descCnt c)).foldl (fun v j => vset v (b + j) (vget v (b + j) 0 + 1)) tm.tgen }) else s
      issueEngine s cx i { traps := bad, asks := [ask], now_ := gen }

/-- tld (R228). -/
def execTld (f : FX) (s : State) : Out := issue s (fun cx => .tld (cx.fx f)) (fun cx => tileIssue s cx (.tld (cx.fx f)) f.g (cx.fx f) true)

/-- tst (R229). -/
def execTst (f : FX) (s : State) : Out := issue s (fun cx => .tst (cx.fx f)) (fun cx => tileIssue s cx (.tst (cx.fx f)) f.g (cx.fx f) false)

/-! Chunks: one tile each (R228). -/

/-- A format slot of an operation's launch. -/
def opSlot (s : State) (o : EngOp) (n : Nat) : Slot :=
  match s.launch? o.team.lid with
  | some l => l.slot n
  | none => { w0 := 0, w1 := 0 }

/-- The stochastic draw of element e of an operation's member (R94). -/
def opDraw (o : EngOp) (tid seed e : Nat) : Nat := draw o.pc.toNat o.cpos (if o.repa then o.repc else 0) o.team.num tid seed e

/-- The column number of elements read from memory: copied bit for bit, or each rounded after its factor (R228). -/
def loadedCol (o : EngOp) (x : Slot) (j n count : Nat) (bs : List Byte) : Nat :=
  if x.xform = 1 then
    let k := x.kind
    let el := fun (kk : Nat) =>
      let v := fp32.value (leNat ((bs.drop (4 * kk)).take 4))
      let f := fp32.value (o.vals.getD (3 + j * k.depth + kk) 0x3F800000)
      rnd x.fmt x.rmode x.satm (opDraw o o.tid x.seed ((j * k.cols + n) * k.depth + kk)) (xmul v f)
    joinW k.width ((List.range count).map el)
  else leNat bs

/-- One tile loaded (R228): nothing of it is written where a read stops. -/
def tldChunk (s : State) (o : EngOp) (f : FX) : State :=
  let x := opSlot s o f.slb.toNat
  let k := x.kind
  let c := o.vals.getD 2 0
  let j := o.prog
  let g0 := descK0 c + j * k.depth
  let g1 := min (descKT c) (g0 + k.depth)
  let w := storedWidth x true
  let count := g1 - g0
  let one := fun (acc : State × Except EngStop (List Nat × List Byte)) (n : Nat) =>
    match acc.2 with
    | .error _ => acc
    | .ok (cols, scs) =>
      let (ra, sa) := memRow x true (o.vals.getD 0 0) (o.vals.getD 1 0) (descKT c) n
      let ones := List.replicate k.blocks (BitVec.ofNat 8 (oneScale x))
      if count = 0 then (acc.1, .ok (cols ++ [0], scs ++ ones))
      else match engRead acc.1 o f.sp (ra + g0 * w / 8) (count * w / 8) with
        | (s, .error e) => (s, .error e)
        | (s, .ok bs) =>
          let cols := cols ++ [loadedCol o x j n count bs]
          if k.block = 0 then (s, .ok (cols, scs))
          else match engRead s o f.sp (sa + g0 / k.block) (count / k.block) with
            | (s, r) => (s, r.map (fun sb => (cols, scs ++ ((sb ++ ones).take k.blocks))))
  match (List.range k.cols).foldl one (s, .ok ([], [])) with
  | (s', .error e) => rotate (engStop s s' o e) o.id
  | (s, .ok (cols, scs)) => chunkEnd (setTile s o.team (f.b.toNat + j) (tileBytes k cols scs)) o (j + 1) (decide (descCnt c ≤ j + 1))

/-- One tile stored (R229): depths at and above KT, and blocks with none below, are not written. -/
def tstChunk (s : State) (o : EngOp) (f : FX) : State :=
  let x := opSlot s o f.slb.toNat
  let k := x.kind
  let c := o.vals.getD 2 0
  let j := o.prog
  let g0 := descK0 c + j * k.depth
  let count := min (descKT c) (g0 + k.depth) - g0
  let tile := tileOf s o.team (f.b.toNat + j)
  let writes := if count = 0 then [] else (List.range k.cols).flatMap (fun n =>
    let (ra, sa) := memRow x false (o.vals.getD 0 0) (o.vals.getD 1 0) (descKT c) n
    (ra + g0 * k.width / 8, leBytes (count * k.width / 8) (tileCol k tile n)) ::
      (if k.block = 0 then [] else [(sa + g0 / k.block, (List.range (count / k.block)).map (fun b => BitVec.ofNat 8 (tileScale k tile n b)))]))
  let one := fun (acc : State × Option EngStop) (p : Nat × List Byte) =>
    match acc.2 with
    | some _ => acc
    | none => engWrite acc.1 o f.sp p.1 p.2
  let r := writes.foldl one (s, none)
  match r.2 with
  | some e => rotate (engStop s r.1 o e) o.id
  | none => chunkEnd r.1 o (j + 1) (decide (descCnt c ≤ j + 1))

end Sys2Proof.Machine
end

