-- ==== Sys2Proof/Machine/Hyper.lean ====
section
/-!
DEFINITION. The hypervector instructions (R239 to R242) as they issue and take effect, the chunks of R260, and the completion of
engine operations (R127, R205, R222).
-/

namespace Sys2Proof.Machine

/-! Hypervectors, counters and the match store of a team. -/

def setHv (s : State) (k : TeamKey) (h : Nat) (bs : List Byte) : State :=
  s.modTeam k (fun t => { t with hv := memSplice t.hv (1024 * h) bs })

/-- The 8,192 counters of m. -/
def counterBytes (s : State) (k : TeamKey) (m : Nat) : List Byte :=
  match s.team? k with
  | some t => memRange t.mc (8192 * m) 8192
  | none => List.replicate 8192 0
def setCounters (s : State) (k : TeamKey) (m : Nat) (bs : List Byte) : State :=
  s.modTeam k (fun t => { t with mc := memSplice t.mc (8192 * m) bs })

/-- The bits of a run of bytes, lowest first, and the bytes of a list of bits. -/
def bitsOfBytes (bs : List Byte) : List Bool := bs.flatMap (fun b => (List.range 8).map b.getLsbD)
def byteOfBits : List Bool → Nat
  | [] => 0
  | b :: rest => (if b then 1 else 0) + 2 * byteOfBits rest
def bytesOfBits : Nat → List Bool → List Byte
  | 0, _ => []
  | n + 1, l => BitVec.ofNat 8 (byteOfBits (l.take 8)) :: bytesOfBits n (l.drop 8)

/-- hperm (R241): rotation toward higher bits. -/
def rotated (bs : List Byte) (r : Nat) : List Byte :=
  let x := leNat bs
  leBytes 1024 (x * 2 ^ r % 2 ^ 8192 + x / 2 ^ (8192 - r))

/-- hbun (R241): each counter with a bit bundled into it, and whether some counter left the range. -/
def bundled (cs : List Byte) (bs : List Bool) : List Byte × Bool :=
  let xs := List.zipWith (fun (c : Byte) (b : Bool) => c.toInt + (if b then 1 else -1)) cs bs
  (xs.map (fun x => BitVec.ofInt 8 (max (-127) (min 127 x))), xs.any (fun x => x < -127 || 127 < x))

/-- hmaj (R241). -/
def majority (cs : List Byte) (ties : List Bool) : List Bool :=
  List.zipWith (fun (c : Byte) (t : Bool) => if c.toInt = 0 then t else decide (0 < c.toInt)) cs ties

/-! Issue (R221, R222). -/

/-- Issues an instruction that acts once for the group with the leader's operands: `regs` are the leader's, `check` its operand
checks; when one fails every enabled member traps. The leader is the lowest-TID member with enabled(0) of those the checks of every member
let pass: where a lower one is detached and traps, the next leads (the model's choice; log entry 83). -/
def groupIssue (s : State) (cx : Ctx) (i : Instr) (g : Guard) (store : Bool) (rd wr : List Nat) (regs : Thread → List Nat)
    (check : List Nat → Option (Nat × Nat × Bool)) : State :=
  let (bad, rest) := kindTraps cx store false
  let on := rest.filter (fun t => enabled t g)
  match on with
  | [] => issueEngine s cx i { traps := bad, asks := [], now_ := id }
  | t :: _ =>
    let vals := regs t
    match check vals with
    | some (c, a, w) =>
      issueEngine s cx i { traps := bad ++ on.map (fun t => (t, { cx.info t c with addr := a, wr := w })), asks := [], now_ := id }
    | none =>
      let tids := on.map (·.key.tid)
      issueEngine s cx i { traps := bad, now_ := id,
                           asks := [{ tid := t.key.tid, lanes := tids, quarter := 0, owners := tids, rd := rd, wr := wr, vals := vals }] }

/-- The checks of the 1,024 bytes of hld and hst (R240). -/
def hvRunCheck (cx : Ctx) (sp wr : Bool) (vals : List Nat) : Option (Nat × Nat × Bool) :=
  let a := vals.getD 0 0
  let run := runTrap cx sp a 1024
  if noScratch cx sp then some (0x05, 0, false)
  else if run = some 0x10 then some (0x10, a, wr)
  else if a % 64 ≠ 0 then some (0x11, a, wr)
  else run.map (fun c => (c, a, wr))

/-- hld (R240). -/
def execHld (f : FH) (s : State) : Out :=
  issue s (fun cx => .hld (cx.fh f)) (fun cx => let e := cx.fh f
    groupIssue s cx (.hld e) f.g false [] [hvRes e.d.toNat] (fun t => [regN s t e.a.toNat]) (hvRunCheck cx e.sp false))

/-- hst (R240). -/
def execHst (f : FH) (s : State) : Out :=
  issue s (fun cx => .hst (cx.fh f)) (fun cx => let e := cx.fh f
    groupIssue s cx (.hst e) f.g false [hvRes e.b.toNat] [] (fun t => [regN s t e.a.toNat]) (hvRunCheck cx e.sp true))

/-- hclr (R240). -/
def execHclr (f : FH) (s : State) : Out :=
  issue s (fun cx => .hclr (cx.fh f)) (fun cx => let e := cx.fh f
    groupIssue s cx (.hclr e) f.g false [] [if e.d.toNat < 8 then hvRes e.d.toNat else counterRes (e.d.toNat - 8)]
      (fun _ => []) (fun _ => none))

/-- hbind (R241). -/
def execHbind (f : FH) (s : State) : Out :=
  issue s (fun cx => .hbind (cx.fh f)) (fun cx => let e := cx.fh f
    groupIssue s cx (.hbind e) f.g false [hvRes e.a.toNat, hvRes e.b.toNat] [hvRes e.d.toNat] (fun _ => []) (fun _ => none))

/-- hperm (R241). -/
def execHperm (f : FH) (s : State) : Out :=
  issue s (fun cx => .hperm (cx.fh f)) (fun cx => let e := cx.fh f
    groupIssue s cx (.hperm e) f.g false [hvRes e.a.toNat] [hvRes e.d.toNat] (fun _ => []) (fun _ => none))

/-- hbun (R241). -/
def execHbun (f : FH) (s : State) : Out :=
  issue s (fun cx => .hbun (cx.fh f)) (fun cx => let e := cx.fh f
    groupIssue s cx (.hbun e) f.g false [hvRes e.a.toNat] [counterRes e.mc.toNat] (fun _ => []) (fun _ => none))

/-- hmaj (R241). -/
def execHmaj (f : FH) (s : State) : Out :=
  issue s (fun cx => .hmaj (cx.fh f)) (fun cx => let e := cx.fh f
    groupIssue s cx (.hmaj e) f.g false [counterRes e.mc.toNat, hvRes e.tb.toNat] [hvRes e.d.toNat] (fun _ => []) (fun _ => none))

/-- hdist (R242). -/
def execHdist (f : FH) (s : State) : Out :=
  issue s (fun cx => .hdist (cx.fh f)) (fun cx => let e := cx.fh f
    groupIssue s cx (.hdist e) f.g false [hvRes e.a.toNat, hvRes e.b.toNat] [] (fun _ => []) (fun _ => none))

/-- hpop (R242). -/
def execHpop (f : FH) (s : State) : Out :=
  issue s (fun cx => .hpop (cx.fh f)) (fun cx => let e := cx.fh f
    groupIssue s cx (.hpop e) f.g false [hvRes e.a.toNat] [] (fun _ => []) (fun _ => none))

/-- An operand of the match store above a limit (R242). -/
def aboveCheck (n : Nat) (vals : List Nat) : Option (Nat × Nat × Bool) := if n < vals.getD 0 0 then some (0x09, 0, false) else none

/-- hams (R242). -/
def execHams (f : FH) (s : State) : Out :=
  issue s (fun cx => .hams (cx.fh f)) (fun cx => let e := cx.fh f
    groupIssue s cx (.hams e) f.g true [hvRes e.a.toNat] [storeRes] (fun t => [regN s t e.b.toNat]) (aboveCheck 255))

/-- hnear (R242). -/
def execHnear (f : FH) (s : State) : Out :=
  issue s (fun cx => .hnear (cx.fh f)) (fun cx => let e := cx.fh f
    groupIssue s cx (.hnear e) f.g true [hvRes e.a.toNat, storeRes] [] (fun t => [regN s t e.b.toNat]) (aboveCheck 256))

/-- hnear.k (R242). -/
def execHnearK (f : FH) (s : State) : Out :=
  issue s (fun cx => .hnearK (cx.fh f)) (fun cx => let e := cx.fh f
    groupIssue s cx (.hnearK e) f.g true [hvRes e.a.toNat, storeRes] [] (fun t => [regN s t e.b.toNat]) (aboveCheck 256))

/-! Effects. -/

/-- The best k entries of the first n of a match store against a query (R242). -/
def nearest (s : State) (team : TeamKey) (query : List Byte) (n k : Nat) : List (Nat × Nat) :=
  let entry := fun (x : Nat) => match s.team? team with
    | some t => memRange t.ms (1024 * x) 1024
    | none => []
  (List.range n).foldl (fun best x => bestInsert k (x, hamming (entry x) query) best) []

/-- Words written to the registers of every acting lane. -/
def writeLanes (s : State) (o : EngOp) (d : Nat) (ws : List Word) : State :=
  o.lanes.foldl (fun s n => writeOpRegs s { team := o.team, tid := n } d ws) s

/-- The effect of a hypervector operation, or what stopped it (R240 to R242). -/
def hyperEffect (s : State) (o : EngOp) : State × Option EngStop :=
  let v := o.vals.getD 0 0
  let k := o.team
  let h := hvBytes s k
  let ok := fun (x : State) => (x, none)
  match o.i with
  | .hld f => (match engRead s o f.sp v 1024 with
      | (s, .error e) => (s, some e)
      | (s, .ok bs) => ok (setHv s k f.d.toNat bs))
  | .hst f => engWrite s o f.sp v (h f.b.toNat)
  | .hclr f =>
      if f.d.toNat < 8 then ok (setHv s k f.d.toNat (List.replicate 1024 0))
      else
        let m := f.d.toNat - 8
        ok ((setCounters s k m (List.replicate 8192 0)).modTeam k (fun t => { t with msat := t.msat &&& ~~~(BitVec.ofNat 4 (2 ^ m)) }))
  | .hbind f => ok (setHv s k f.d.toNat (List.zipWith (· ^^^ ·) (h f.a.toNat) (h f.b.toNat)))
  | .hperm f => ok (setHv s k f.d.toNat (rotated (h f.a.toNat) f.rot.toNat))
  | .hbun f =>
      let r := bundled (counterBytes s k f.mc.toNat) (bitsOfBytes (h f.a.toNat))
      let s := setCounters s k f.mc.toNat r.1
      ok (if r.2 then s.modTeam k (fun t => { t with msat := t.msat ||| BitVec.ofNat 4 (2 ^ f.mc.toNat) }) else s)
  | .hmaj f =>
      ok (setHv s k f.d.toNat (bytesOfBits 1024 (majority (counterBytes s k f.mc.toNat) (bitsOfBytes (h f.tb.toNat)))))
  | .hdist f => ok (writeLanes s o f.d.toNat [BitVec.ofNat 64 (hamming (h f.a.toNat) (h f.b.toNat))])
  | .hpop f => ok (writeLanes s o f.d.toNat [BitVec.ofNat 64 (popBytes (h f.a.toNat))])
  | .hams f => ok (s.modTeam k (fun t => { t with ms := memSplice t.ms (1024 * v) (h f.a.toNat) }))
  | .hnear f => ok (writeLanes s o f.d.toNat (bestWords 1 (nearest s k (h f.a.toNat) v 1)))
  | .hnearK f => ok (writeLanes s o f.d.toNat (bestWords (f.kn.toNat + 1) (nearest s k (h f.a.toNat) v (f.kn.toNat + 1))))
  | _ => ok s

/-- A hypervector operation served (R240 to R242). -/
def hyperChunk (s : State) (o : EngOp) : State :=
  let r := hyperEffect s o
  match r.2 with
  | some e => rotate (engStop s r.1 o e) o.id
  | none => chunkEnd r.1 o 0 true

/-! Service (R260). -/

/-- Whether engines run at all: they stop with the hold-up sequence (R379). -/
def enginesRun (s : State) : Bool := s.power == .on

/-- Whether an operation may be served now: ready, not waiting on an aperture, not a command that a pre-emption is about to
record, and, for a restored command, with its issuer's control line resident (R70, R205), and the lines its results go into (R82). -/
def servable (s : State) (o : EngOp) : Bool :=
  enginesRun s && opReady s o && !(s.ms.outs.any (fun x => x.op == some o.id && !x.posted)) &&
    !(takesPlace o.i && (s.cluster o.cluster).preempting.isSome) &&
    (!o.recorded || match s.thr? (opThread o) with
      | some t => t.st == .exited || (lineHeld t 0 && (List.range (longDest o.i).2).all (fun j => lineHeld t (((longDest o.i).1 + j) / 8 + 1)))
      | none => true)

/-- The operation a unit of a cluster serves next: the first of its rotation that may be served. -/
def nextServed (s : State) (cluster : Nat) (u : EngineUnit) : Option EngOp :=
  s.ops.find? (fun o => o.cluster = cluster && unitOf o.i == some u && servable s o)

/-- ENGINE_CHUNK (R205, R228, R240, R243, R260): one chunk of the command next in rotation. -/
def execEngineChunk (cluster : Nat) (u : EngineUnit) (s : State) : Out :=
  match nextServed s cluster u with
  | none => .next s
  | some o => match o.i with
    | .cpy f => .next (cpyChunk s o f)
    | .hscan f => .next (hscanChunk s o f)
    | .tld f => .next (tldChunk s o f)
    | .tst f => .next (tstChunk s o f)
    | _ => .next (hyperChunk s o)

/-! Completion (R127, R205, R222). -/

/-- An operation leaves the table and the flags it counts fall. -/
def endOp (s : State) (o : EngOp) : State :=
  let s := { s with ops := s.ops.filter (fun x => x.id ≠ o.id) }
  o.owners.foldl (fun s n => s.modThr { team := o.team, tid := n } (fun t => t.flagDown o.flag)) s

/-- The deferred trap of a command that ended (R205, R222): copy-fault or engine-fault, with the underlying cause in DETAIL. -/
def endedInfo (o : EngOp) (detail addr : Nat) (wr : Bool) : TrapInfo :=
  { cause := (match o.i with
      | .cpy _ => 0x19
      | _ => 0x1A), detail := detail, addr := addr, wr := wr, src := opSrc o.i, rp := o.pc, rc := o.cpos, repa := o.repa, repc := o.repc }

/-- ENGINE_COMMAND_COMPLETE (R127): its last write time has passed; where it has failed after some writes, its trap then falls due. -/
def execEngineCommandComplete (id : Nat) (s : State) : Out :=
  match s.op? id with
  | none => .next s
  | some o => match o.phase with
    | .done tw => if tw ≤ s.now then .next (endOp s o) else .next s
    | .failed detail addr wr => .next (if s.now < o.lastTw then s else makeDue (endOp s o) (opThread o) (endedInfo o detail addr wr))
    | _ => .next s

end Sys2Proof.Machine
end

