-- ==== Sys2Proof/Machine/Matrix.lean ====
section
/-!
DEFINITION. The matrix instructions acl, mma, adrn, abyp and ast as they issue (R221 to R227, R230 to R237): quarters, operand
capture and the reservation-table entries they take.
-/

namespace Sys2Proof.Machine

/-! Pairs (R102). -/

/-- The SUB of the pair two slots form (R102, R151); none for two that form no pair. -/
def pairOf (x y : Slot) : Option Nat :=
  match x.kind, y.kind with
  | .mxfp4, .mxfp4 => some 0 | .bs4, .bs4 => some 1 | .fp8, .fp8 => some 2 | .mxfp8, .mxfp8 => some 3
  | .fp16, .fp16 => some 4 | .bf16, .bf16 => some 4 | .int8, .int8 => some 5 | .int8, .tern => some 6 | .fp64, .fp64 => some 7
  | _, _ => none

/-- Depth, columns and accumulators of a pass, and whether it accumulates in INT40, by SUB. -/
def pairK (sub : Nat) : Nat :=
  match sub with
  | 0 => 128 | 1 => 128 | 4 => 32 | 7 => 4 | _ => 64
def pairN (sub : Nat) : Nat := if sub = 6 then 64 else 16
def pairInt (sub : Nat) : Bool := sub = 5 || sub = 6

/-- The accumulators an mma names from a(d). -/
def accsOf (sub d : Nat) : List Nat := if sub = 6 then [d, d + 1, d + 2, d + 3] else if sub = 7 then [d, d + 1] else [d]

/-- Whether ACCK of some named accumulator disagrees with the kind (R231). -/
def kindDisagrees (tm : Team) (accs : List Nat) (int : Bool) : Bool := accs.any (fun a => tm.acck.getLsbD a != int)

/-- The format mismatch of an mma (R231, R232). -/
def mmaMismatch (cx : Ctx) (e : FX) : Bool :=
  let x := cx.launch.slot e.sla.toNat
  let d := e.d.toNat
  let sub := e.sub.toNat
  pairOf x (cx.launch.slot e.slb.toNat) != some sub || (sub = 6 && 12 < d) || (sub = 7 && d % 2 = 1) ||
    kindDisagrees cx.team (accsOf sub d) (pairInt sub) || (e.byp && (x.kind.block ≠ 0 || x.xform = 2))

/-- The accumulators a drain reads, of a pair (R235): ternary results are drained one accumulator at a time. -/
def drainAccs (sub d : Nat) : List Nat := if sub = 7 then [d, d + 1] else [d]

/-- The format mismatch of a drain (R235). -/
def drainMismatch (cx : Ctx) (e : FX) : Bool :=
  match pairOf (cx.launch.slot e.sla.toNat) (cx.launch.slot e.slb.toNat) with
  | none => true
  | some sub => (sub = 7 && e.d.toNat % 2 = 1) || kindDisagrees cx.team (drainAccs sub e.d.toNat) (pairInt sub)

/-! Quarters (R221). -/

/-- The aligned quarters of a group, by quarter position, then TID (R220). -/
def quartersOf (ts : List Thread) : List Nat :=
  let all := (ts.map (fun t => t.key.tid / 8)).eraseDups
  (List.range 4).flatMap (fun q => all.filter (fun n => n % 4 = q))

/-- Members of an aligned quarter, and the lane of a thread in it. -/
def inQuarter (n : Nat) (ts : List Thread) : List Thread := ts.filter (fun t => t.key.tid / 8 = n)

/-- What a quarter instruction does at issue (R221, R222): each taking-part quarter whose participating lanes all pass `lane` asks for
one operation, with the operands `vals` captures; `now_` is the effect at issue of one quarter. Where `absent`, the operand names a
scratchpad the team does not own, a check of every member (R327): those not enabled trap here, the others at its place in `lane`. -/
def quarterIssue (s : State) (cx : Ctx) (i : Instr) (g : Guard) (mismatch absent : Bool) (lane : Thread → Option (Nat × Nat × Bool))
    (rd wr : Nat → List Nat) (vals : List Thread → List Nat) (now_ : Nat → State → State) : State :=
  let (bad, rest) := kindTraps cx false mismatch
  let parts := (quartersOf rest).map (fun n => (n, (inQuarter n rest).filter (fun t => enabled t g)))
  let traps := parts.flatMap (fun p => p.2.filterMap (fun t => (lane t).map (fun c => (t, { cx.info t c.1 with addr := c.2.1, wr := c.2.2 }))))
  let go := parts.filter (fun p => !p.2.isEmpty && p.2.all (fun t => (lane t).isNone))
  let asks := go.map (fun p =>
    { tid := (p.2.map (·.key.tid)).headD 0, lanes := p.2.map (·.key.tid), quarter := p.1 % 4,
      owners := (inQuarter p.1 rest).map (·.key.tid), rd := rd (p.1 % 4), wr := wr (p.1 % 4), vals := vals p.2 : Ask })
  let off := if absent then (rest.filter (fun t => !enabled t g)).map (fun t => (t, cx.info t 0x05)) else []
  issueEngine s cx i { traps := bad ++ off ++ traps, asks := asks, now_ := fun s => go.foldl (fun s p => now_ (p.1 % 4) s) s }

/-! Masks (R226). -/

/-- The mask pair of an instruction, as read at issue. -/
def maskPair (s : State) (cx : Ctx) (e : FX) : Nat × Nat :=
  ((s.readS cx.team.key (2 * e.msel.toNat)).toNat, (s.readS cx.team.key (2 * e.msel.toNat + 1)).toNat)

/-- The end of the kept depths. -/
def depthEnd (m2 k : Nat) : Nat := if m2 / 2 ^ 24 % 256 = 0 then k else m2 / 2 ^ 24 % 256

/-- Whether a mask pair is out of range for a depth. -/
def maskBad (m2 k : Nat) : Bool := m2 / 2 ^ 32 ≠ 0 || k < m2 / 2 ^ 24 % 256 || depthEnd m2 k < m2 / 2 ^ 16 % 256

/-- The depth of the pair two slots form. -/
def pairDepth (cx : Ctx) (e : FX) : Nat := match pairOf (cx.launch.slot e.sla.toNat) (cx.launch.slot e.slb.toNat) with
  | some sub => pairK sub
  | none => 0

/-- The operand-range check of a mask pair. -/
def maskTrap (s : State) (cx : Ctx) (e : FX) : Option (Nat × Nat × Bool) :=
  if e.men && maskBad (maskPair s cx e).2 (pairDepth cx e) then some (0x09, 0, false) else none

/-! acl (R230). -/

/-- The accumulators acl clears. -/
def aclAccs (x : Slot) (d : Nat) : List Nat := if x.kind == .fp64 then [d, d + 1] else [d]

/-- Bits of a header field set or cleared for some accumulators. -/
def markAccs (v : BitVec 16) (accs : List Nat) (on : Bool) : BitVec 16 :=
  let m := BitVec.ofNat 16 ((accs.map (fun a => 2 ^ a)).foldl (· + ·) 0)
  if on then v ||| m else v &&& ~~~m

/-- acl (R230): ACCK is set when it issues; the rows are cleared in team issue order. -/
def execAcl (f : FX) (s : State) : Out :=
  issue s (fun cx => .acl (cx.fx f)) (fun cx =>
    let e := cx.fx f
    let x := cx.launch.slot e.sla.toNat
    let d := e.d.toNat
    let accs := aclAccs x d
    quarterIssue s cx (.acl e) f.g (x.kind == .fp32 || x.kind == .tern || (x.kind == .fp64 && d % 2 = 1)) false (fun _ => none)
      (fun _ => []) (fun q => accs.map (fun a => accRes a q) ++ accs.map accsRes) (fun _ => [])
      (fun _ s => s.modTeam cx.team.key (fun tm => { tm with acck := markAccs tm.acck accs (x.kind == .int8) })))

/-! mma (R225 to R233). -/

/-- A row of A in registers from r (R225): eight registers, four for FP64. -/
def rowOf (s : State) (t : Thread) (r n : Nat) : Nat := joinW 64 ((List.range n).map (fun j => regN s t (r + j)))

/-- The A scale bytes of row m of a lane as a number (R225). -/
def rowScales (s : State) (t : Thread) (e : FX) (m : Nat) : Nat :=
  match e.sub.toNat with
  | 0 => regN s t e.c.toNat / 2 ^ (32 * m) % 2 ^ 32
  | 3 => regN s t e.c.toNat / 2 ^ (16 * m) % 2 ^ 16
  | 1 => rowOf s t (e.c.toNat + 2 * m) 2
  | _ => 0

/-- The operands an mma captures: sixteen A rows and their scales (zero for a lane that does not participate), the mask pair, kb and
tb, TGEN of the tile, and the duplication map (R225, R226, R233, R234). -/
def mmaVals (s : State) (cx : Ctx) (e : FX) (ts : List Thread) : List Nat :=
  let x := cx.launch.slot e.sla.toNat
  let n := if e.sub = 7 then 4 else 8
  let lane := fun (r : Nat) => ts.find? (fun t => t.key.tid % 8 = r / 2)
  let row := fun (r : Nat) => match lane r with
    | some t => if e.byp then 0 else rowOf s t (e.a.toNat + n * (r % 2)) n
    | none => 0
  let scs := fun (r : Nat) => match lane r with
    | some t => if e.byp then 0 else rowScales s t e (r % 2)
    | none => 0
  let dup := x.xform = 2 && !e.byp
  let c := match ts with
    | t :: _ => if dup then regN s t e.c.toNat else 0
    | [] => 0
  let (m1, m2) := maskPair s cx e
  (List.range 16).map row ++ (List.range 16).map scs ++ [m1, m2, c % 2 ^ 32, c / 2 ^ 32, (vget cx.team.tgen e.b.toNat 0).toNat] ++
    (if dup then (List.range x.xcnt).map (dupEntry x cx.team.scr) else [])

/-- mma (R231). -/
def execMma (f : FX) (s : State) : Out :=
  issue s (fun cx => .mma (cx.fx f)) (fun cx =>
    let e := cx.fx f
    let accs := accsOf e.sub.toNat e.d.toNat
    quarterIssue s cx (.mma e) f.g (mmaMismatch cx e) false (fun _ => maskTrap s cx e)
      (fun q => tileRes e.b.toNat :: (if e.byp then [tileRes (e.c.toNat + q)] else []) ++ accs.map accsRes)
      (fun q => accs.map (fun a => accRes a q)) (mmaVals s cx e) (fun _ s => s))

/-! Drains (R235 to R237). -/

/-- The accumulators a drain of the named slots reads. -/
def drainReads (cx : Ctx) (e : FX) (q : Nat) : List Nat :=
  (drainAccs ((pairOf (cx.launch.slot e.sla.toNat) (cx.launch.slot e.slb.toNat)).getD 0) e.d.toNat).map (fun a => accRes a q)

/-- adrn (R235). -/
def execAdrn (f : FX) (s : State) : Out :=
  issue s (fun cx => .adrn (cx.fx f)) (fun cx =>
    let e := cx.fx f
    quarterIssue s cx (.adrn e) f.g (drainMismatch cx e) false (fun _ => none) (drainReads cx e) (fun _ => []) (fun _ => []) (fun _ s => s))

/-- abyp (R236): each quarter that writes a tile advances its TGEN (R224). -/
def execAbyp (f : FX) (s : State) : Out :=
  issue s (fun cx => .abyp (cx.fx f)) (fun cx =>
    let e := cx.fx f
    quarterIssue s cx (.abyp e) f.g (drainMismatch cx e) false (fun _ => none) (drainReads cx e) (fun q => [tileRes (e.a.toNat + q)])
      (fun _ => [])
      (fun q s => s.modTeam cx.team.key (fun tm => { tm with tgen := vset tm.tgen (e.a.toNat + q) (vget tm.tgen (e.a.toNat + q) 0 + 1) })))

/-- The element width in bits of a drain type. -/
def drainW (e : FX) : Nat := match tyOfCode e.b.toNat with
  | some t => tyW t
  | none => 8

/-- Columns that one bit of CMASK keeps under the pair two slots form (R226): four for ternary. -/
def maskGrain (x y : Slot) : Nat := if pairOf x y = some 6 then 4 else 1

/-- The elements of a quarter's lane that an ast writes (R237): row m, column and address; g columns to a bit of CMASK. -/
def astElems (e : FX) (g q lane va stride m1 m2 : Nat) : List (Nat × Nat × Nat) :=
  (List.range 2).flatMap (fun m =>
    if e.men && !(Nat.testBit m1 (16 * q + 2 * lane + m)) then []
    else (List.range 16).filterMap (fun col =>
      if e.men && !(Nat.testBit m2 (col / g)) then none else some (m, col, (va + m * stride + col * (drainW e / 8)) % 2 ^ 64)))

/-- The checks of one lane's ast (R237). -/
def astTrap (s : State) (cx : Ctx) (e : FX) (t : Thread) : Option (Nat × Nat × Bool) :=
  let va := regN s t e.a.toNat
  let vc := regN s t e.c.toNat
  let w := drainW e / 8
  match maskTrap s cx e with
  | some c => some c
  | none =>
    if vc / 2 ^ 32 ≠ 0 then some (0x09, 0, false)
    else if va % w ≠ 0 || vc % w ≠ 0 then some (0x11, va, true)
    else if noScratch cx e.sp then some (0x05, 0, false)
    else
      let (m1, m2) := maskPair s cx e
      let grain := maskGrain (cx.launch.slot e.sla.toNat) (cx.launch.slot e.slb.toNat)
      let elems := astElems e grain (t.key.tid / 8 % 4) (t.key.tid % 8) va vc m1 m2
      (firstRunTrap cx e.sp (elems.map (fun x => (x.2.2, w)))).map (fun c => (c.1, c.2, true))

/-- ast (R237). -/
def execAst (f : FX) (s : State) : Out :=
  issue s (fun cx => .ast (cx.fx f)) (fun cx =>
    let e := cx.fx f
    let (m1, m2) := maskPair s cx e
    let addrs := fun (ts : List Thread) => [m1, m2] ++ (List.range 8).flatMap (fun l => match ts.find? (fun t => t.key.tid % 8 = l) with
      | some t => [regN s t e.a.toNat, regN s t e.c.toNat]
      | none => [0, 0])
    quarterIssue s cx (.ast e) f.g (drainMismatch cx e) (noScratch cx e.sp) (astTrap s cx e) (drainReads cx e) (fun _ => []) addrs (fun _ s => s))

end Sys2Proof.Machine
end

