-- ==== Sys2Proof/Machine/Pass.lean ====
section
/-!
DEFINITION. Matrix arbitration (R88, R89, R102 to R106, R231 to R237, R261, R362, R363): fused passes with their summation order
and checksum, clears, drains and partial stores, and the current-step limiter.
-/

namespace Sys2Proof.Machine

/-! Accumulators (R67, R88, R89). -/

/-- Row r of accumulator a as a number of sixteen 40-bit elements. -/
def accRow (tm : Team) (a r : Nat) : Nat := memNat tm.acc (5120 * a + 80 * r) 80
def setAccRow (tm : Team) (a r x : Nat) : Team := { tm with acc := memSplice tm.acc (5120 * a + 80 * r) (leBytes 80 x) }
def elem40 (row col : Nat) : Nat := row / 2 ^ (40 * col) % 2 ^ 40

/-- The FP64 code of a column of a pair of rows (R89). -/
def pairCode (lo hi col : Nat) : Nat := elem40 lo col + 2 ^ 40 * (elem40 hi col % 2 ^ 24)

/-! Exact sums. -/

/-- The exact sum of values whose denominators are powers of two, with the specials of R103 and the zeros of R91. -/
def xsum (xs : List XVal) : XVal :=
  if xs.any XVal.isNan then .nan
  else
    let infs := xs.filter (fun x => !x.isFin)
    if infs.any XVal.isNeg && infs.any (fun x => !x.isNeg) then .nan
    else match infs with
      | x :: _ => x
      | [] =>
        let den := xs.foldl (fun d x => match x with
          | .fin _ _ b => max d b
          | _ => d) 1
        let n := xs.foldl (fun (n : Int) x => match x with
          | .fin neg a b => if neg then n - (a * (den / b) : Nat) else n + (a * (den / b) : Nat)
          | _ => n) 0
        if n = 0 then .fin (!xs.isEmpty && xs.all (fun x => x.isZero && x.isNeg)) 0 1 else .fin (decide (n < 0)) n.natAbs den

/-- floor(|p| / 2^u) of a finite value. -/
def floorUnits (x : XVal) (u : Int) : Nat :=
  match x with
  | .fin _ a b => if 0 ≤ u then a / (b * 2 ^ u.toNat) else a * 2 ^ (-u).toNat / b
  | _ => 0

/-- The exponent of a finite, non-zero value. -/
def exponentOf (x : XVal) : Int :=
  match x with
  | .fin _ a b => log2Floor a b
  | _ => 0

/-- The greatest exponent of the finite, non-zero values. -/
def maxExponent (xs : List XVal) : Int :=
  match (xs.filter (fun x => !x.isZero)).map exponentOf with
  | [] => 0
  | e :: rest => rest.foldl max e

/-- S of R103: products truncated at 2^(emax − 47) and summed. -/
def truncatedSum (ps : List XVal) : XVal :=
  if !(ps.all XVal.isFin) || ps.all XVal.isZero then xsum ps
  else
    let u := maxExponent ps - 47
    let n := ps.foldl (fun (n : Int) p => if p.isNeg then n - (floorUnits p u : Nat) else n + (floorUnits p u : Nat)) 0
    scaled (decide (n < 0)) n.natAbs u

/-! Operands of a pass. -/

/-- Positive zero. -/
def posZero : XVal := .fin false 0 1

/-- What one quarter of a pass needs: SUB, its slots, operands, the tiles it reads, and the errors that upsets make in it: row of the
quarter, column, n, e, and whether the extra column is struck. -/
structure PassIn where
  sub : Nat
  x : Slot
  y : Slot
  f : FX
  q : Nat
  vals : List Nat
  tile : List Byte
  bypass : List Byte
  errs : List (Nat × Nat × Int × Int × Bool)

/-- Row r of A as a number, from registers or from the bypass tile (R225, R232). -/
def PassIn.aRow (p : PassIn) (r : Nat) : Nat :=
  if p.f.byp then leNat ((p.bypass.drop (64 * r)).take 64) else p.vals.getD r 0

/-- Element k of a row or column number. -/
def digit (w x k : Nat) : Nat := x / 2 ^ (w * k) % 2 ^ w

/-- Whether a depth, a row of the quarter and a column are kept (R226). -/
def PassIn.keepK (p : PassIn) (k : Nat) : Bool :=
  !p.f.men || (decide (p.vals.getD 33 0 / 2 ^ 16 % 256 ≤ k) && decide (k < depthEnd (p.vals.getD 33 0) (pairK p.sub)))
def PassIn.keepR (p : PassIn) (r : Nat) : Bool := !p.f.men || Nat.testBit (p.vals.getD 32 0) (16 * p.q + r)
def PassIn.keepC (p : PassIn) (c : Nat) : Bool := !p.f.men || Nat.testBit (p.vals.getD 33 0) (c / (pairN p.sub / 16))

/-- Whether element (k, c) of a row is kept. -/
def PassIn.kept (p : PassIn) (r c k : Nat) : Bool := p.keepR r && p.keepC c && p.keepK k

/-- The tile row depth position k multiplies, under channel duplication (R233); none is a row of zeros. -/
def PassIn.tileRow (p : PassIn) (k : Nat) : Option Nat :=
  if p.x.xform = 2 && !p.f.byp then
    let g := p.vals.getD 34 0 + k
    let tb := p.vals.getD 35 0
    if g < p.x.xk then some k
    else if g < p.x.xk + p.x.xcnt then
      let c := p.vals.getD (37 + (g - p.x.xk)) 0
      if c < p.x.xk && tb ≤ c && c - tb < 64 then some (c - tb) else none
    else none
  else some k

/-- The products of a floating-point row and column, masked ones +0 (R103, R105). -/
def PassIn.products (p : PassIn) (r c : Nat) : List XVal :=
  let row := p.aRow r
  let col := tileCol p.y.kind p.tile c
  (List.range (pairK p.sub)).map (fun k =>
    if p.kept r c k then xmul (p.x.fmt.value (digit p.x.kind.width row k)) (p.y.fmt.value (digit p.y.kind.width col k)) else posZero)

/-- An INT8 or ternary element as an integer (R85). -/
def intElem (k : Kind) (x : Nat) : Int :=
  if k == .tern then (match x with
    | 1 => 1
    | 3 => -1
    | _ => 0)
  else sgn 8 x

/-- The integer sum of a row and column (R104). -/
def PassIn.intSum (p : PassIn) (r c : Nat) : Int :=
  let row := p.aRow r
  let col := tileCol p.y.kind p.tile c
  (List.range (pairK p.sub)).foldl (fun (n : Int) k =>
    if p.kept r c k then (match p.tileRow k with
      | some j => n + sgn 8 (digit 8 row k) * intElem p.y.kind (digit p.y.kind.width col j)
      | none => n)
    else n) 0

/-- A scale code's value: E8M0, or E5M2 for BS4 (R87). -/
def scaleVal (x : Slot) (code : Nat) : XVal := if x.kind == .bs4 then e5m2.value code else e8m0 code

/-- P_k of block b of a row and column (R104). -/
def PassIn.blockTerm (p : PassIn) (ps : List XVal) (r c b : Nat) : XVal :=
  let n := p.x.kind.block
  let sum := xsum ((ps.drop (n * b)).take n)
  let live := (List.range n).any (fun i => p.kept r c (n * b + i))
  let sa := scaleVal p.x (digit 8 (p.vals.getD (16 + r) 0) b)
  let sb := scaleVal p.y (tileScale p.y.kind p.tile c b)
  if sa.isNan || sb.isNan then (if live then .nan else posZero)
  else if !(sa.isFin && sb.isFin) then
    (if !live then posZero
     else if sum.isZero then .nan
     else if sum.isNan then .nan
     else .inf ((sum.isNeg != sa.isNeg) != sb.isNeg))
  else xmul (xmul sum sa) sb

/-- The terms of an accumulator element, each folded in with its own rounding (R103, R104): one, or one per block. -/
def PassIn.terms (p : PassIn) (r c : Nat) : List XVal :=
  let ps := p.products r c
  if p.x.kind.block = 0 then [truncatedSum ps] else (List.range p.x.kind.blocks).map (p.blockTerm ps r c)

/-- An upset's error of n × 2^e; a whole number in an integer sum. -/
def PassIn.errInt (x : Nat × Nat × Int × Int × Bool) : Int := x.2.2.1 * 2 ^ x.2.2.2.1.toNat
def PassIn.errVal (p : PassIn) (x : Nat × Nat × Int × Int × Bool) : XVal :=
  if pairInt p.sub then xint (errInt x) else scaled (decide (x.2.2.1 < 0)) x.2.2.1.natAbs x.2.2.2.1

/-- The errors in what the pass adds to an element, and in V of a row. -/
def PassIn.elemErrs (p : PassIn) (r c : Nat) : List (Nat × Nat × Int × Int × Bool) :=
  p.errs.filter (fun x => !x.2.2.2.2 && x.1 = r && x.2.1 = c)
def PassIn.extraErrs (p : PassIn) (r : Nat) : List (Nat × Nat × Int × Int × Bool) := p.errs.filter (fun x => x.2.2.2.2 && x.1 = r)

/-- The integer sum, and the terms, as the engine has them. -/
def PassIn.sumHeld (p : PassIn) (r c : Nat) : Int := (p.elemErrs r c).foldl (fun n x => n + errInt x) (p.intSum r c)
def PassIn.termsHeld (p : PassIn) (r c : Nat) : List XVal :=
  match p.terms r c with
  | [] => []
  | t :: rest => (p.elemErrs r c).foldl (fun t x => xadd false t (p.errVal x)) t :: rest

/-- The clamp of INT40 (R88, R104). -/
def int40Max : Int := 2 ^ 39 - 1

/-- Whether every product and term of a row is finite, so that the checksum checks it (R362). -/
def PassIn.rowChecked (p : PassIn) (r : Nat) : Bool :=
  pairInt p.sub || (List.range (pairN p.sub)).all (fun c =>
    (p.products r c).all XVal.isFin && (p.x.kind.block = 0 || (p.terms r c).all XVal.isFin))

/-! The checksum column (R362). -/

/-- What the pass adds to an element before its rounding. -/
def PassIn.contrib (p : PassIn) (r c : Nat) : List XVal :=
  if pairInt p.sub then [xint (p.sumHeld r c)]
  else if p.sub = 7 then p.products r c ++ (p.elemErrs r c).map p.errVal
  else p.termsHeld r c

/-- U(i): the exact sum of a row's contributions. -/
def PassIn.rowU (p : PassIn) (r : Nat) : XVal := xsum ((List.range (pairN p.sub)).flatMap (p.contrib r))

/-- Elements of A and B after duplication (R233), with the scale of B's column where the pair has one. -/
def PassIn.aVal (p : PassIn) (r k : Nat) : XVal :=
  if pairInt p.sub then xint (sgn 8 (digit 8 (p.aRow r) k)) else p.x.fmt.value (digit p.x.kind.width (p.aRow r) k)
def PassIn.bVal (p : PassIn) (c k : Nat) : XVal :=
  let col := tileCol p.y.kind p.tile c
  if pairInt p.sub then (match p.tileRow k with
    | some j => xint (intElem p.y.kind (digit p.y.kind.width col j))
    | none => posZero)
  else
    let x := p.y.fmt.value (digit p.y.kind.width col k)
    if p.x.kind.block = 0 then x else xmul x (scaleVal p.y (tileScale p.y.kind p.tile c (k / p.x.kind.block)))

/-- Bsum(k) over the columns the masks keep. -/
def PassIn.bSum (p : PassIn) (k : Nat) : XVal := xsum (((List.range (pairN p.sub)).filter p.keepC).map (fun c => p.bVal c k))

/-- V(i): a row of A times Bsum, the scales of A applied, over the depths the masks keep. -/
def PassIn.rowV (p : PassIn) (r : Nat) : XVal :=
  let ks := if p.keepR r then (List.range (pairK p.sub)).filter p.keepK else []
  xsum (ks.map (fun k =>
    let x := xmul (p.aVal r k) (p.bSum k)
    if p.x.kind.block = 0 then x else xmul x (scaleVal p.x (digit 8 (p.vals.getD (16 + r) 0) (k / p.x.kind.block)))) ++
    (p.extraErrs r).map p.errVal)

/-- Whether a row mismatches: unscaled floating-point pairs but FP64 within 2^(Emax − 36), Emax the greatest exponent of the row's
products (a row of zeros has none, and no tolerance); the others exactly. -/
def PassIn.rowMismatch (p : PassIn) (r : Nat) : Bool :=
  let d := xsum [p.rowU r, (p.rowV r).negate]
  let ps := if pairInt p.sub || p.sub = 7 || p.x.kind.block ≠ 0 then [] else (List.range (pairN p.sub)).flatMap (p.products r)
  if ps.all XVal.isZero then !d.isZero
  else
    let bound := maxExponent ps - 36
    xlt (scaled false 1 bound) d || xlt d (scaled true 1 bound)

/-- The new codes of an accumulator row, and whether a clamp acted. -/
def PassIn.newElem (p : PassIn) (r c old : Nat) : Nat × Bool :=
  if pairInt p.sub then
    let x := sgn 40 old + p.sumHeld r c
    let y := max (-int40Max) (min int40Max x)
    (wrapW 40 y, x != y)
  else if p.sub = 7 then (rn64 (xsum (fp64.value old :: p.contrib r c)), false)
  else ((p.termsHeld r c).foldl (fun acc t => rn40 (xadd false (fa40.value acc) t)) old, false)

/-- A team after one participating row of a pass (R231). -/
def PassIn.runRow (p : PassIn) (tm : Team) (r : Nat) : Team :=
  let d := p.f.d.toNat
  let row := 16 * p.q + r
  if p.sub = 7 then
    let lo := accRow tm d row
    let hi := accRow tm (d + 1) row
    let new := (List.range 16).map (fun c => (p.newElem r c (pairCode lo hi c)).1)
    setAccRow (setAccRow tm d row (joinW 40 (new.map (· % 2 ^ 40)))) (d + 1) row (joinW 40 (new.map (· / 2 ^ 40)))
  else
    (List.range (pairN p.sub / 16)).foldl (fun tm e =>
      let old := accRow tm (d + e) row
      let new := (List.range 16).map (fun c => p.newElem r (16 * e + c) (elem40 old c))
      let tm := setAccRow tm (d + e) row (joinW 40 (new.map (·.1)))
      if new.any (·.2) then { tm with accs := markAccs tm.accs [d + e] true } else tm) tm

/-- The accumulator rows of the participating lanes of an operation, as rows of its quarter. -/
def opRows (o : EngOp) : List Nat := o.lanes.flatMap (fun n => [2 * (n % 8), 2 * (n % 8) + 1])

/-- The inputs of one quarter. -/
def passIn (s : State) (o : EngOp) (f : FX) : PassIn :=
  { sub := f.sub.toNat, x := opSlot s o f.sla.toNat, y := opSlot s o f.slb.toNat, f := f, q := o.quarter, vals := o.vals,
    tile := tileOf s o.team f.b.toNat, bypass := if f.byp then tileOf s o.team (f.c.toNat + o.quarter) else [],
    errs := s.upsets.filterMap (fun u => match u with
      | .pass k row col n e extra => if k = o.cluster && row / 16 = o.quarter then some (row % 16, col, n, e, extra) else none
      | .shadow _ _ _ _ _ => none) }

/-! A pass (R234, R362, R363). -/

/-- Whether a waiting entry fuses with the pass of another (R234). -/
def fuses (o p : EngOp) : Bool :=
  match o.i, p.i with
  | .mma f, .mma g => o.team == p.team && f.b == g.b && o.vals.getD 36 0 == p.vals.getD 36 0 && f.sub == g.sub && f.sla == g.sla &&
      f.slb == g.slb && f.byp == g.byp && f.men == g.men && (!f.men || (o.vals.getD 32 0 == p.vals.getD 32 0 && o.vals.getD 33 0 == p.vals.getD 33 0))
  | _, _ => false

/-- The quarters of a pass: the chosen entry and up to three that fuse and write none of its rows. -/
def fusedWith (o : EngOp) : List EngOp → List EngOp → List EngOp
  | got, [] => got
  | got, p :: rest =>
    if got.length < 4 && fuses o p && !(got.any (fun g => g.wr.any p.wr.contains)) then fusedWith o (got ++ [p]) rest
    else fusedWith o got rest

/-- One quarter's effect on its team. -/
def runQuarter (s : State) (o : EngOp) : State :=
  match o.i with
  | .mma f => s.modTeam o.team (fun tm => (opRows o).foldl (fun tm r => (passIn s o f).runRow tm r) tm)
  | _ => s

/-- Whether some row of a quarter is checked and mismatches. -/
def quarterMismatch (s : State) (o : EngOp) : Bool :=
  match o.i with
  | .mma f => (opRows o).any (fun r => (passIn s o f).rowChecked r && (passIn s o f).rowMismatch r)
  | _ => false

/-- The state without the upsets that a pass over its quarters has met. -/
def spendPassUpsets (s : State) (cluster : Nat) (os : List EngOp) : State :=
  let met := fun (row : Nat) => os.any (fun o => row / 16 = o.quarter && (opRows o).contains (row % 16))
  { s with upsets := s.upsets.filter (fun u => match u with
      | .pass k row _ _ _ _ => !(k = cluster && met row)
      | .shadow _ _ _ _ _ => true) }

/-- The mismatch of a pass is counted, and every member of each of its quarters raises 0x29 (R363). -/
def checksumReport (s : State) (cluster : Nat) (os : List EngOp) : State :=
  let die := dieOfCluster cluster
  let s := s.modDie die (fun d => { d with ckcnt := satInc d.ckcnt })
  let info := fun (o : EngOp) => ({ cause := 0x29, detail := 0, addr := 0, wr := false, src := 0, rp := o.pc, rc := o.cpos, repa := o.repa,
                                    repc := o.repc } : TrapInfo)
  match os with
  | [] => s
  | o :: _ => escalateAll (mayRollBack s o.team) s o.team die (os.flatMap (fun p => p.owners.map (fun n => (n, info p))))

/-- A pass over its quarters (R231, R362, R363): one of which a row mismatches writes nothing. U and V agree within the tolerance wherever
no upset has struck (R362), so a pass that met none is not compared. -/
def runPass (s : State) (cluster : Nat) (os : List EngOp) : State :=
  let struck := s.upsets.any (·.strikes cluster)
  let bad := struck && os.any (quarterMismatch s)
  let t := os.foldl (fun s o => opDone s o.id) (if bad then s else os.foldl runQuarter s)
  let t := if struck then spendPassUpsets t cluster os else t
  if bad then checksumReport t cluster os else t

/-! Clears and drains (R230, R235 to R237). -/

/-- acl's effect: the rows of participating lanes to zero, ACCS cleared. -/
def runAcl (s : State) (o : EngOp) (f : FX) : State :=
  let accs := aclAccs (opSlot s o f.sla.toNat) f.d.toNat
  s.modTeam o.team (fun tm =>
    let tm := accs.foldl (fun tm a => (opRows o).foldl (fun tm r => setAccRow tm a (16 * o.quarter + r) 0) tm) tm
    { tm with accs := markAccs tm.accs accs false })

/-- The exact value of an accumulator element by the pair that fixes its kind (R235). -/
def accValue (tm : Team) (sub d row col : Nat) : XVal :=
  if sub = 7 then fp64.value (pairCode (accRow tm d row) (accRow tm (d + 1) row) col)
  else if pairInt sub then xint (sgn 40 (elem40 (accRow tm d row) col))
  else fa40.value (elem40 (accRow tm d row) col)

/-- D of R235: element (row, col) drained to a type, e its index for the stochastic draw of a lane. -/
def drained (s : State) (o : EngOp) (f : FX) (ty : Ty) (tid row col e : Nat) : Nat :=
  match s.team? o.team with
  | none => 0
  | some tm =>
    let x := opSlot s o f.sla.toNat
    let y := opSlot s o f.slb.toNat
    let v := xmul (xmul (accValue tm ((pairOf x y).getD 0) f.d.toNat row col) x.ts) y.ts
    let r := opDraw o tid x.seed e
    if isInt ty then wrapW (tyW ty) (toInteger x.rmode r (tyMin ty) (tyMax ty) v) else rnd (tyFmt ty) x.rmode x.satm r v

/-- The type of a drain. -/
def drainTyOf (f : FX) : Ty := (tyOfCode f.b.toNat).getD .b64

/-- The sixteen codes of row m of a lane. -/
def drainedRow (s : State) (o : EngOp) (f : FX) (tid m : Nat) (e : Nat → Nat) : List Nat :=
  (List.range 16).map (fun col => drained s o f (drainTyOf f) tid (16 * o.quarter + 2 * (tid % 8) + m) col (e col))

/-- A number as n register words. -/
def wordsOf (n x : Nat) : List Word := (List.range n).map (fun j => BitVec.ofNat 64 (x / 2 ^ (64 * j)))

/-- adrn's effect (R235). -/
def runAdrn (s : State) (o : EngOp) (f : FX) : State :=
  let w := drainW f
  o.lanes.foldl (fun s' tid =>
    let row := fun (m : Nat) => wordsOf (w / 4) (joinW w (drainedRow s o f tid m (fun col => 16 * m + col)))
    writeOpRegs s' { team := o.team, tid := tid } f.a.toNat (row 0 ++ row 1)) s

/-- abyp's effect (R236). -/
def runAbyp (s : State) (o : EngOp) (f : FX) : State :=
  let w := drainW f
  let one := fun (tm : Team) (tid : Nat) => (List.range 2).foldl (fun tm m =>
    let r := 2 * (tid % 8) + m
    { tm with tiles := memSplice tm.tiles (1280 * (f.a.toNat + o.quarter) + 64 * r + 2 * w * f.c.toNat)
                (leBytes (2 * w) (joinW w (drainedRow s o f tid m (fun col => 16 * r + col)))) }) tm
  s.modTeam o.team (fun tm => o.lanes.foldl one tm)

/-- ast's writes (R237), element by element, each with the lane that makes it. -/
def astWrites (s : State) (o : EngOp) (f : FX) : List (Nat × Nat × List Byte) :=
  let v := fun i => o.vals.getD i 0
  o.lanes.flatMap (fun tid =>
    let l := tid % 8
    let rows := (List.range 2).map (fun m => drainedRow s o f tid m (fun col => 16 * m + col))
    (astElems f (maskGrain (opSlot s o f.sla.toNat) (opSlot s o f.slb.toNat)) o.quarter l (v (2 + 2 * l)) (v (3 + 2 * l)) (v 0) (v 1)).map (fun x =>
      (tid, x.2.2, leBytes (drainW f / 8) ((rows.getD x.1 []).getD x.2.1 0))))

/-- ast's effect: a fault is the writing lane's. -/
def runAst (s : State) (o : EngOp) (f : FX) : State :=
  let one := fun (acc : State × Option (EngStop × Nat)) (x : Nat × Nat × List Byte) =>
    match acc.2 with
    | some _ => acc
    | none =>
      let r := engWrite acc.1 o f.sp x.2.1 x.2.2
      (r.1, r.2.map (fun e => (e, x.1)))
  let r := (astWrites s o f).foldl one (s, none)
  match r.2 with
  | none => opDone r.1 o.id
  | some (e, tid) =>
    let o := { o with tid := tid }
    engStop s (r.1.modOp o.id (fun x => { x with tid := tid })) o e

/-- A reservation entry served alone, or the pass it heads (R234). -/
def serveEntry (s : State) (cluster : Nat) (o : EngOp) : State :=
  match o.i with
  | .mma _ =>
    let ready := s.ops.filter (fun p => p.cluster = cluster && p.id ≠ o.id && servable s p)
    runPass s cluster (fusedWith o [o] ready)
  | .acl f => opDone (runAcl s o f) o.id
  | .adrn f => opDone (runAdrn s o f) o.id
  | .abyp f => opDone (runAbyp s o f) o.id
  | .ast f => runAst s o f
  | _ => s

/-! Arbitration (R234) and the limiter (R261). -/

/-- The launch priority of an operation. -/
def opPrio (s : State) (o : EngOp) : Nat := match s.launch? o.team.lid with
  | some l => l.prio
  | none => 7

/-- The older of two entries. -/
def older (o p : EngOp) : EngOp := if p.ord < o.ord then p else o

/-- The entry the arbiter chooses: aged ones first, oldest first; else by priority, oldest first. -/
def chooseEntry (s : State) (cluster : Nat) : Option EngOp :=
  let cyc := (s.die (dieOfCluster cluster)).cyc
  let ready := s.ops.filter (fun o => o.cluster = cluster && (unitOf o.i).isNone && servable s o)
  let aged := ready.filter (fun o => o.enterCyc + 256 ≤ cyc)
  match aged, ready with
  | o :: rest, _ => some (rest.foldl older o)
  | [], [] => none
  | [], o :: rest => some (rest.foldl (fun b p =>
      if opPrio s p < opPrio s b then p else if opPrio s b < opPrio s p then b else older b p) o)

/-- Whether granting a pass now is a start: none for 32 engine cycles (R261). -/
def isStart (s : State) (cluster : Nat) : Bool :=
  let c := s.cluster cluster
  c.lastPass = 0 || decide (c.lastPass + 32 < (s.die (dieOfCluster cluster)).cyc)

/-- A die's window as of now: windows begin at multiples of 64 ns. -/
def rollWindow (s : State) (die : Nat) : State :=
  let w := s.now / 64 * 64
  if (s.die die).winStart = w then s else s.modDie die (fun d => { d with winStart := w, winStarts := 0 })

/-- The refused engines of a die, oldest first, ties to the lowest cluster. -/
def insertRefused (x : Nat × Nat) : List (Nat × Nat) → List (Nat × Nat)
  | [] => [x]
  | y :: rest => if x.1 < y.1 || (x.1 = y.1 && x.2 < y.2) then x :: y :: rest else y :: insertRefused x rest
def refusedEngines (s : State) (die : Nat) : List (Nat × Nat) :=
  s.clusters.foldl (fun l p => match p.2.refusedAt with
    | some at_ => if dieOfCluster p.1 = die then insertRefused (at_, p.1) l else l
    | none => l) []

/-- A pass granted: a start is counted, and the engine's last pass noted; an FP64 pass takes 32 engine cycles (R22, R234). -/
def notePass (s : State) (cluster : Nat) (o : EngOp) : State :=
  let die := dieOfCluster cluster
  let cyc := max 1 (s.die die).cyc
  let long := match o.i with
    | .mma f => f.sub == 7
    | _ => false
  let s := if isStart s cluster then s.modDie die (fun d => { d with winStarts := d.winStarts + 1 }) else s
  s.modCluster cluster (fun c => { c with lastPass := if long then cyc + 31 else cyc, refusedAt := none })

/-- Whether an entry heads a pass of the matrix engine. -/
def isPass (o : EngOp) : Bool := match o.i with
  | .mma _ => true
  | _ => false

/-- MATRIX_ARBITRATION (R234, R261): the chosen entry is served, or refused a start. -/
def execMatrixArbitration (cluster : Nat) (s : State) : Out :=
  match chooseEntry s cluster with
  | none => .next s
  | some o =>
    if !isPass o then .next (serveEntry s cluster o)
    else
      let die := dieOfCluster cluster
      let s := rollWindow s die
      let ahead := (refusedEngines s die).any (fun r => r.2 ≠ cluster && match (s.cluster cluster).refusedAt with
        | some at_ => r.1 < at_ || (r.1 = at_ && r.2 < cluster)
        | none => true)
      if isStart s cluster && (ahead || (s.die die).neng ≤ (s.die die).winStarts) then
        .next (s.modCluster cluster (fun c => { c with refusedAt := c.refusedAt.or (some s.now) }))
      else .next (serveEntry (notePass s cluster o) cluster o)

/-- A refused engine given a start. -/
def giveStart (s : State) (cluster : Nat) : State :=
  match chooseEntry s cluster with
  | none => s.modCluster cluster (fun c => { c with refusedAt := none })
  | some o => if isPass o then serveEntry (notePass s cluster o) cluster o else serveEntry s cluster o

/-- LIMITER_WINDOW (R261): a window of 64 ns opens and refused engines are given starts, oldest first. -/
def execLimiterWindow (die : Nat) (s : State) : Out :=
  let s := rollWindow s die
  let room := (s.die die).neng - (s.die die).winStarts
  .next (((refusedEngines s die).take room).foldl (fun s r => giveStart s r.2) s)

end Sys2Proof.Machine
end

