-- ==== Sys2Proof/Machine/Fetch.lean ====
section
/-!
DEFINITION. Fetching a clause (R134, R153): the words a core sees at an address, the checks of R138, the line mask of R72, and
whether a thread is ready (R31).
-/

namespace Sys2Proof.Machine

/-! Words. -/

/-- What a fetch of a clause meets: its words, a translation failure, or a trap cause, each at an address; with its header where that was
fetched first. -/
inductive Fetched where
  | ok (ws : List Word)
  | fault (h : Option Word) (addr : Nat) (e : XErr)
  | bad (h : Option Word) (cause addr : Nat)

/-- The header of a clause, where its fetch came so far. -/
def Fetched.head : Fetched → Option Word
  | .ok ws => ws.head?
  | .fault h _ _ => h
  | .bad h _ _ => h

/-- A word in a core's instruction cache, of the device's present generation (R77). -/
def cachedWord (s : State) (core v a : Nat) : Option Word :=
  (s.ms.code.find? (fun c => c.core = core && c.vd = v && c.gen = (s.vd v).gen && c.addr = a)).map (·.word)

/-- One word fetched (R153): where the cache holds one, it or the word now in memory. A poisoned sector returns none (R348), nor does the cache
of it, and a home in time fault holds the fetch (R351). -/
def fetchWord (s : State) (core v a : Nat) : Fetched :=
  let die := dieOfCluster (clusterOfCore core)
  if 2 ^ 48 ≤ a then .bad none 0x10 a
  else match translate s (.core core) v a .fetch with
    | .error e => .fault none a e
    | .ok x =>
      if !hbmDpa x.dpa then .bad none 0x17 a
      else
        let d := servedDpa die x.dpa x.repl
        let now_ := if homeHolds s d then .fault none a (.homeHolds d) else .ok [memWord s.ms.mem d]
        if s.poisoned d || uncorrectable s (d / 64) then .bad none 0x1C a
        else match cachedWord s core v a with
          | some w => if Config.staleFetch s.free a then .ok [w] else now_
          | none => now_

/-- n words from an address. -/
def fetchWords (s : State) (core v : Nat) : Nat → Nat → Fetched
  | 0, _ => .ok []
  | n + 1, a => match fetchWord s core v a with
    | .ok ws => (match fetchWords s core v n (a + 8) with
        | .ok rest => .ok (ws ++ rest)
        | e => e)
    | e => e

/-- A clause at an address: its header, and as many words as the header counts, before any check of it (R134, R135, R153). -/
def fetchClause (s : State) (core v : Nat) (pc : Word) : Fetched :=
  match fetchWord s core v pc.toNat with
  | .ok [h] => (match fetchWords s core v (hCount h) (pc.toNat + 8) with
      | .ok ws => .ok (h :: ws)
      | .fault _ a e => .fault (some h) a e
      | .bad _ c a => .bad (some h) c a)
  | e => e

/-- What the fetch of one word leaves: its translation in the caches, and its sector read through the decoder (R116, R344). -/
def noteFetch (core v : Nat) (s : State) (a : Nat) : State :=
  let s := s.walked (.core core) v a
  match translate s (.core core) v a .fetch with
  | .ok x =>
    let s := s.cacheXlat (.core core) v a x
    if hbmDpa x.dpa && !homeHolds s (servedDpa (dieOfCluster (clusterOfCore core)) x.dpa x.repl) then decodeRange s (servedDpa (dieOfCluster (clusterOfCore core)) x.dpa x.repl) 8 else s
  | .error _ => s

/-- What the fetch of a clause leaves, up to where it came. -/
def noteClause (s : State) (core v : Nat) (pc : Word) (f : Fetched) : State :=
  let n := match f with
    | .ok ws => ws.length
    | .fault _ a _ | .bad _ _ a => (a - pc.toNat) / 8 + 1
  ((List.range n).map (fun i => pc.toNat + 8 * i)).foldl (noteFetch core v) s

/-- The state with the words of a clause held by the core's instruction cache. -/
def cacheClause (s : State) (core v : Nat) (pc : Word) (ws : List Word) : State :=
  let addrs := (List.range ws.length).map (fun i => pc.toNat + 8 * i)
  let fresh := (List.range ws.length).filterMap (fun i => (ws[i]?).map (fun w => ({ core := core, vd := v, gen := (s.vd v).gen, addr := pc.toNat + 8 * i, word := w } : CodeWord)))
  let keep := s.ms.code.filter (fun c => !(c.core = core && c.vd = v && addrs.contains c.addr))
  { s with ms := { s.ms with code := keep ++ fresh } }

/-! Checks (R137, R138). -/

/-- The instruction a word's operation names, none where its OP or its SUB is reserved: no rule of a clause is asked of such a word, which
raises illegal-instruction as it issues (R138, R152). -/
def wordInstr (w : Word) : Option Instr := (parse w).filter (subOk (bits w 50 48))

/-- The rep of a word, if it is one. -/
def repOf (w : Word) : Option FI := match wordInstr w with
  | some (.rep f) => some f
  | _ => none

/-- Repeats and steps of a rep (R149). -/
def repCount (f : FI) : Nat := f.imm.toNat % 64
def repStep (f : FI) (i : Nat) : Nat := stepOf (BitVec.ofNat 2 (f.imm.toNat / 2 ^ (6 + 2 * i)))

/-- Whether an instruction at a place of a clause breaks R137 or a rep's rules (R138). -/
def wordBad (sl : Nat → Slot) (h : Word) (w : Word) (next : Option Word) : Bool :=
  match wordInstr w with
  | none => false
  | some i =>
    let classBad := match reqClass i with
      | some c => c != hClass h
      | none => false
    let lastBad := lastOnly i && next.isSome
    let repBad := match i with
      | .rep f => (match next with
          | none => true
          | some n => match wordInstr n with
            | none => false
            | some j => (match j with
                | .rep _ => true
                | _ => false) || lastOnly j || !stepsOk (limits sl j) j (repCount f) (repStep f 0) (repStep f 1) (repStep f 2) (repStep f 3))
      | _ => false
    classBad || lastBad || repBad

/-- Whether some word of a clause breaks them. -/
def wordsBad (sl : Nat → Slot) (h : Word) : List Word → Bool
  | [] => false
  | w :: rest => wordBad sl h w rest.head? || wordsBad sl h rest

/-- The conditions of R138. -/
def clauseBad (sl : Nat → Slot) (ws : List Word) : Bool :=
  match ws with
  | [] => true
  | h :: rest =>
    let setBad := fun (x : Nat) => 12 ≤ x && x ≤ 14
    hMark h != 0xC || 5 < hClass h || setBad (hSetA h) || setBad (hSetB h) || bits h 28 0 != 0 || wordsBad sl h rest

/-! The line mask (R72). -/

/-- Vector registers an instruction names, as runs, over all repeats of a rep before it. -/
def runsOf (sl : Nat → Slot) (before : Option FI) (w : Word) : List (Nat × Nat) :=
  match wordInstr w with
  | none => []
  | some i => match before with
    | none => vecRuns sl i
    | some f => (List.range (repCount f + 1)).flatMap (fun n =>
        vecRuns sl (stepInstr (n * repStep f 0) (n * repStep f 1) (n * repStep f 2) (n * repStep f 3) i))

/-- The runs of the words of a clause. -/
def clauseRuns (sl : Nat → Slot) : Option FI → List Word → List (Nat × Nat)
  | _, [] => []
  | before, w :: rest => runsOf sl before w ++ clauseRuns sl (repOf w) rest

/-- Whether line n, from 1 to 8, is in the mask of a clause. -/
def lineNamed (runs : List (Nat × Nat)) (n : Nat) : Bool :=
  runs.any (fun r => r.2 ≠ 0 && decide (r.1 < 8 * n) && decide (8 * (n - 1) < r.1 + r.2))

/-- The mask of a clause: the vector lines it names. -/
def lineMask (sl : Nat → Slot) (ws : List Word) : List Nat :=
  let runs := clauseRuns sl none (ws.drop 1)
  (List.range 8).filterMap (fun i => if lineNamed runs (i + 1) then some (i + 1) else none)

/-! Readiness (R31). -/

/-- The format slots of a thread's launch. -/
def slotsOf (s : State) (t : Thread) : Nat → Slot := match s.launch? t.key.team.lid with
  | some l => l.slot
  | none => fun _ => { w0 := 0, w1 := 0 }

/-- Whether a thread stands in some core's issue slot. -/
def inSlot (s : State) (k : ThrKey) : Bool :=
  s.cores.any (fun p => match p.2.slot with
    | some g => g.team == k.team && g.members.contains k.tid
    | none => false)

/-- Whether a thread is placed on a cluster: its team's, or its landing slot's. -/
def placedOn (s : State) (t : Thread) : Bool :=
  t.landing.isSome || match s.team? t.key.team with
    | some tm => tm.cluster.isSome && !t.detached && t.st != .migrating
    | none => false

/-- Whether the package, the device and the cluster let a thread issue at all. -/
def mayIssue (s : State) (t : Thread) : Bool :=
  s.power == .on && (s.cluster t.clus).preempting != some t.vd && !(s.die (dieOfCluster t.clus)).stopped &&
    match s.team? t.key.team with
    | some tm => !tm.integrity
    | none => false

/-- Whether the line fetches of a thread go on: they do while its cluster is being pre-empted, for what must end before the pre-emption does
(R277, R330). -/
def mayFetch (s : State) (t : Thread) : Bool := s.power == .on && !(s.die (dieOfCluster t.clus)).stopped

/-- Whether a thread's own waits let it issue: a waitt, a running yield, a spawn without a bin, a halt at its next clause boundary or as it
would become Runnable (R341), a trap to be delivered. -/
def unwaiting (s : State) (t : Thread) : Bool :=
  t.due.isEmpty && t.undelivered.isEmpty && !(t.haltReq && (t.cpos = 0 || t.st == .alignedWait)) && t.waitUntil.isNone && !(t.yieldUntil.isSome && t.yieldHint) &&
    !((s.cluster t.clus).spawners.any (fun w => w.thr == t.key))

/-- Whether a thread's state lets it be grouped. -/
def groupable (t : Thread) : Bool := t.st == .unstarted || t.st == .runnable || t.st == .alignedWait

/-- Whether a thread could be grouped as soon as its lines and flags allow. -/
def candidate (s : State) (t : Thread) : Bool :=
  groupable t && lineHeld t 0 && placedOn s t && mayIssue s t && unwaiting s t && !inSlot s t.key

/-- The instructions of a clause from a position on. -/
def instrsFrom (ws : List Word) (pos : Nat) : List Instr := (ws.drop (pos + 1)).filterMap wordInstr

/-- Whether a thread is ready for the clause at its position (R31, R200); one that cannot be read whole, or is none, is met at issue, where
its group may begin to issue it (R153). -/
def readyFor (s : State) (t : Thread) (f : Fetched) : Bool :=
  match f with
  | .ok (h :: ws) =>
    if hMark h ≠ 0xC then true
    else
      (lineMask (slotsOf s t) (h :: ws)).all (fun n => lineHeld t n || decide (t.budget < n)) &&
        (t.cpos ≠ 0 || waitClear (hWait h) t) && !((instrsFrom (h :: ws) t.cpos).any (fun i => fenceHolds i t))
  | f => (match f.head with
    | some h => hMark h ≠ 0xC || t.cpos ≠ 0 || waitClear (hWait h) t
    | none => true)

/-- Whether a thread is ready (R31). -/
def ready (s : State) (t : Thread) : Bool := candidate s t && readyFor s t (fetchClause s (coreOf t) t.vd t.pc)

end Sys2Proof.Machine
end

