-- ==== Sys2Proof/Machine/Sched.lean ====
section
/-!
DEFINITION. Scheduling on a core (R31 to R41, R54 to R56, R71 to R76, R153, R188, R213, R258, R259, R262, R330): which group issues
next, aging, suspension, stalls of a team, and the register cache.
-/

namespace Sys2Proof.Machine

/-! Readiness over time (R54). -/

/-- Whether the register cache holds a line or is filling it. -/
def lineUsed : LineState → Bool
  | .unformed | .absent => false
  | _ => true

/-- The cycle count of a thread's die. -/
def cycOf (s : State) (t : Thread) : Nat := (s.die (dieOfCluster t.clus)).cyc

/-- Whether a thread that could run is not resident (R56). -/
def idles (s : State) (t : Thread) : Bool := groupable t && placedOn s t && !lineUsed (vget t.lines 0 .absent)

/-- A thread with the moment it became ready, and the moment it began to wait for activation, noted, or forgotten where it does neither. -/
def stampThread (s : State) (t : Thread) : Thread :=
  let t := if idles s t then (if t.idleSince.isSome then t else { t with idleSince := some (cycOf s t) }) else { t with idleSince := none }
  if ready s t then (if t.since.isSome then t else { t with since := some (cycOf s t) }) else { t with since := none, aged := none }

/-- Every thread so stamped. -/
def stampReady (s : State) : State := { s with threads := s.threads.map (stampThread s) }

/-- THREAD_AGED (R54): ready for 256 die cycles without issuing; a thread in Aligned wait is not Runnable. -/
def execThreadAged (k : ThrKey) (s : State) : Out :=
  match s.thr? k with
  | some t =>
    (match t.since with
      | some n =>
        if t.aged.isNone && t.st != .alignedWait && n + 256 ≤ cycOf s t && ready s t then
          .next (s.modThr k (fun t => { t with aged := some (n + 256) }))
        else .next s
      | none => .next s)
  | none => .next s

/-! Buckets (R33, R259). -/

/-- A bucket: the ready threads of one core that share the key of R33, with the clause they stand at. -/
structure Bucket where
  team : TeamKey
  vd : Nat
  pc : Word
  cpos : Nat
  rep : Bool
  repc : Nat
  words : Fetched
  ts : List Thread

/-- Whether a thread belongs to a bucket. -/
def Bucket.takes (b : Bucket) (t : Thread) : Bool :=
  b.team == t.key.team && b.pc == t.pc && b.cpos = t.cpos && b.rep == t.repActive && (!b.rep || b.repc = t.repc)

/-- The buckets of ready threads. -/
def addToBuckets (s : State) (t : Thread) : List Bucket → List Bucket
  | [] => [{ team := t.key.team, vd := t.vd, pc := t.pc, cpos := t.cpos, rep := t.repActive, repc := t.repc,
             words := fetchClause s (coreOf t) t.vd t.pc, ts := [t] }]
  | b :: rest => if b.takes t then { b with ts := b.ts ++ [t] } :: rest else b :: addToBuckets s t rest

/-- The alignment set size of a bucket's clause; 0 where it is free or no clause. -/
def Bucket.align (b : Bucket) : Nat := match b.words.head with
  | some h => if hMark h = 0xC then setSize (hAlign h) else 0
  | none => 0

/-- What names a bucket among those of its core. -/
def Bucket.id (b : Bucket) : BucketId := { team := b.team, pc := b.pc, cpos := b.cpos, rep := b.rep, repc := if b.rep then b.repc else 0 }

/-- When a thread became ready. -/
def readySince (t : Thread) : Nat := t.since.getD 0

/-- A thread put into a list ordered by time ready, then TID (R33). -/
def insertByAge (t : Thread) : List Thread → List Thread
  | [] => [t]
  | u :: rest =>
    if readySince t < readySince u || (readySince t = readySince u && t.key.tid < u.key.tid) then t :: u :: rest
    else u :: insertByAge t rest

/-- The non-exited members of an aligned set (R37, R53): a detached thread's set is itself. -/
def alignedSet (s : State) (t : Thread) (a : Nat) : List Thread :=
  if t.detached then [t]
  else (s.members t.key.team).filter (fun u => !u.detached && u.key.tid / a = t.key.tid / a)

/-- The least of a list; 0 of none. -/
def leastOf : List Nat → Nat
  | [] => 0
  | x :: rest => rest.foldl min x

/-- Aligned sets put in the order of R38: by the longest-waiting member, ties to the lowest first TID. -/
def insertSet (x : Nat × List Thread) : List (Nat × List Thread) → List (Nat × List Thread)
  | [] => [x]
  | y :: rest => if x.1 < y.1 then x :: y :: rest else y :: insertSet x rest

/-- The complete aligned sets of a bucket in that order. -/
def completeSets (s : State) (b : Bucket) (a : Nat) : List (List Thread) :=
  let byTid := b.ts.foldl (fun l t => if l.any (fun u => u.key == t.key) then l else l ++ [t]) []
  let firsts := byTid.filter (fun t => ((alignedSet s t a).map (·.key.tid)).headD 0 = t.key.tid)
  let sets := (firsts.map (fun t => alignedSet s t a)).filter (fun ms => ms.all (fun m => b.ts.any (fun t => t.key == m.key)))
  ((sets.map (fun ms => (leastOf (ms.map readySince), ms))).foldl (fun l x => insertSet x l) []).map (·.2)

/-- Whole sets taken while they fit in 32 members. -/
def takeSets (got : List Thread) : List (List Thread) → List Thread
  | [] => got
  | ms :: rest => if got.length + ms.length ≤ 32 then takeSets (got ++ ms) rest else got

/-- Members put in ascending TID (R34). -/
def insertByTid (t : Thread) : List Thread → List Thread
  | [] => [t]
  | u :: rest => if t.key.tid < u.key.tid then t :: u :: rest else u :: insertByTid t rest

/-- The group a bucket would form (R33, R38). -/
def groupOf (s : State) (b : Bucket) : List Thread :=
  let ms := if b.align = 0 then (b.ts.foldl (fun l t => insertByAge t l) []).take 32 else takeSets [] (completeSets s b b.align)
  ms.foldl (fun l t => insertByTid t l) []

/-! The order of selection (R259). -/

/-- Lexicographic order. -/
def lexLt : List Nat → List Nat → Bool
  | [], _ => false
  | _ :: _, [] => false
  | x :: xs, y :: ys => decide (x < y) || (x = y && lexLt xs ys)

/-- TIE for a thread of a bucket: device, launch start (its number where two started at one time), spawned, landing, CPOS, REPA, REPC. -/
def tieKey (s : State) (t : Thread) : List Nat :=
  let started := match s.launch? t.key.team.lid with
    | some l => l.startedAt
    | none => 0
  [t.vd, started, t.key.team.lid, b2n t.key.team.spawned, b2n t.landing.isSome, t.cpos, b2n t.repActive, if t.repActive then t.repc else 0]

/-- The first of a list in an order of keys. -/
def firstBy {α : Type} (key : α → List Nat) : List α → Option α
  | [] => none
  | x :: rest => match firstBy key rest with
    | some y => if lexLt (key y) (key x) then some y else some x
    | none => some x

/-- Whether a bucket holds a producer of a launch whose role priority is on (R259). -/
def bucketRank (s : State) (b : Bucket) : Nat :=
  let rpri := match s.launch? b.team.lid with
    | some l => l.rpri
    | none => false
  if !rpri && b.ts.any (fun t => !t.consumer) then 0 else 1

/-- The key by which buckets are chosen when no thread is aged: rank, population, time ready, team, PC, TIE. -/
def bucketKey (s : State) (b : Bucket) : List Nat :=
  [bucketRank s b, 32 - (groupOf s b).length, leastOf (b.ts.map readySince), b.team.num, b.pc.toNat] ++
    (match firstBy (tieKey s) b.ts with
      | some t => tieKey s t
      | none => [])

/-- The key by which aged threads are chosen. -/
def agedKey (s : State) (t : Thread) : List Nat := [t.aged.getD 0, t.key.team.num, t.key.tid] ++ tieKey s t

/-- Whether a bucket is set aside by a yield hint (R136, R188): the last chosen one, whose clause carried YLD or which holds a member
released from a yield. -/
def hinted136 (c : Core) (b : Bucket) : Bool :=
  c.last == some b.id && (c.yld || b.ts.any (fun t => t.yieldHint && t.yieldUntil.isNone))

/-- The bucket a core's selector chooses (R259). -/
def chooseBucket (s : State) (core : Nat) (bk : List Bucket) : Option Bucket :=
  let bk := bk.filter (fun b => !(groupOf s b).isEmpty)
  match firstBy (agedKey s) ((bk.flatMap (·.ts)).filter (·.aged.isSome)) with
  | some t => bk.find? (fun b => b.takes t)
  | none =>
    let rest := bk.filter (fun b => !hinted136 (s.core core) b)
    firstBy (bucketKey s) (if rest.isEmpty then bk else rest)

/-! Line fetches (R73, R74). -/

/-- The write-backs of a thread's lines that a fault holds: each is a victim in progress, which keeps its place in the register cache and
its thread from being activated (R336). -/
def heldVictims (s : State) (k : ThrKey) : Nat :=
  (s.ms.wbs.filter (fun w => w.thr == k && decide (w.line < 9) && isHeld s (.writeBack w.id))).length

/-- Lines of a core that the register cache holds or is filling, and those pinned. -/
def linesUsed (s : State) (core : Nat) : Nat :=
  (s.threads.filter (fun t => coreOf t = core && placedOn s t)).foldl
    (fun n t => n + (t.lines.toList.filter lineUsed).length + heldVictims s t.key) 0
def linesPinned (s : State) (core : Nat) : Nat :=
  (s.threads.filter (fun t => coreOf t = core && placedOn s t)).foldl (fun n t => n + (t.pins.toList.filter (· == true)).length) 0

/-- A thread with lines pinned. -/
def pinLines (ns : List Nat) (t : Thread) : Thread := { t with pins := ns.foldl (fun p n => vset p n true) t.pins }

/-- The lines of a list that a thread has not pinned yet, and whether the pins of its core have room for them (R74). -/
def unpinned (t : Thread) (ns : List Nat) : List Nat := ns.filter (fun n => !vget t.pins n false)
def pinsFit (s : State) (core : Nat) (t : Thread) (ns : List Nat) : Bool := decide (linesPinned s core + (unpinned t ns).length ≤ 3072)

/-- A line of a thread leaves the register cache; a dirty one begins its write-back (R75). -/
def evictLine (s : State) (l : Launch) (t : Thread) (n : Nat) : State :=
  let s := if vget t.lines n .absent == .dirty then addWb s t.vd t.clus t.key n (lineBytes t n) (slotAddr l t.key + 64 * n) else s
  s.modThr t.key (fun t => { t with lines := vset t.lines n .absent, pins := vset t.pins n false })

/-- The lines of a thread the cache holds. -/
def heldLines (t : Thread) : List Nat := (List.range 9).filter (lineHeld t)

/-- A thread whose fetches are given up. -/
def stopFetches (t : Thread) : Thread :=
  { t with lines := t.lines.map (fun x => if x == .fetching then .absent else x), pins := Vector.replicate 9 false }

/-- A release that a thread's slot is yet to follow begins its write-back. -/
def saveOwed (s : State) (l : Launch) (t : Thread) : State :=
  if t.owed then
    (addWb s t.vd t.clus t.key 0 (lineBytes t 0) (slotAddr l t.key)).modThr t.key (fun t => { t with owed := false })
  else s

/-- Every line of a thread leaves the cache, and those on their way are given up: it becomes non-resident (R74). -/
def evictThread (s : State) (k : ThrKey) : State :=
  match s.thr? k with
  | some t => (match s.launch? t.key.team.lid with
      | some l => ((heldLines t).foldl (fun s n => match s.thr? k with
          | some t => evictLine s l t n
          | none => s) (saveOwed s l t)).modThr k stopFetches
      | none => s)
  | none => s

/-- Whether no line of a thread may be a victim (R74): it is in flight, or held by a long-latency operation. -/
def sheltered (s : State) (t : Thread) : Bool := inSlot s t.key || s.busy t.key

/-- The lines of a thread that may be victims (R74): its unpinned lines, and its control line, with which all the others go, only where
none of them is pinned. -/
def victimLines (t : Thread) : List Nat :=
  (heldLines t).filter (fun n => !vget t.pins n false && (n ≠ 0 || t.pins.toList.all (· == false)))

/-- The victim of a core (R74): the least recently used line of those. -/
def victimOf (s : State) (core : Nat) : Option (ThrKey × Nat) :=
  let ts := s.threads.filter (fun t => coreOf t = core && placedOn s t && !sheltered s t)
  let all := ts.flatMap (fun t => (victimLines t).map (fun n => (vget t.used n 0, t.key, n)))
  (all.foldl (fun (b : Option (Nat × ThrKey × Nat)) x => match b with
    | some y => if x.1 < y.1 then some x else some y
    | none => some x) none).map (·.2)

/-- A victim leaves its core's register cache. -/
def evictVictim (s : State) (k : ThrKey) (n : Nat) : State :=
  if n = 0 then evictThread s k
  else match s.thr? k, s.launch? k.team.lid with
    | some t, some l => evictLine s l t n
    | _, _ => s

/-- Makes room for n more lines in a core's register cache of 6,144 (R71, R74): none where too few lines are eligible as victims. -/
def roomLoop (core n : Nat) : Nat → State → Option State
  | 0, s => if linesUsed s core + n ≤ 6144 then some s else none
  | fuel + 1, s =>
    if linesUsed s core + n ≤ 6144 then some s
    else match victimOf s core with
      | some (k, i) => roomLoop core n fuel (evictVictim s k i)
      | none => none
def makeRoom (s : State) (core n : Nat) : Option State := roomLoop core n (linesUsed s core + n - 6144) s

/-- Starts the fetch of a missing line: one never formed is formed at once, dirty (R258). -/
def startLine (t : Thread) (n : Nat) : Thread :=
  match vget t.lines n .absent with
  | .unformed => { t with lines := vset t.lines n .dirty, used := vset t.used n (vget t.used 0 0) }
  | .absent => { t with lines := vset t.lines n .fetching }
  | _ => t

/-- Starts the fetch of some lines of a thread, once there is room for those not on their way. -/
def startLines (s : State) (core : Nat) (k : ThrKey) (ns : List Nat) : Option State :=
  match s.thr? k with
  | none => none
  | some t =>
    let new := ns.filter (fun n => !lineUsed (vget t.lines n .absent))
    (makeRoom s core new.length).map (fun s => s.modThr k (fun t => new.foldl startLine t))

/-- A thread held back by a register miss: its missing lines are pinned and fetched, within the limit on pins and the room there is (R54,
R74). -/
def fetchMissing (core : Nat) (s : State) (k : ThrKey) : State :=
  match s.thr? k with
  | none => s
  | some t =>
    match fetchClause s core t.vd t.pc with
    | .ok (h :: ws) =>
      let miss := (lineMask (slotsOf s t) (h :: ws)).filter (fun n => n ≤ t.budget && !lineHeld t n)
      if hMark h ≠ 0xC || miss.all (fun n => lineUsed (vget t.lines n .absent)) || !pinsFit s core t miss then s
      else (startLines (s.modThr k (pinLines miss)) core k miss).getD s
    | _ => s

/-- A CPOS that names the end of its clause moves to the following one (R78). -/
def pastEnd (s : State) (core : Nat) (t : Thread) : Thread :=
  match fetchClause s core t.vd t.pc with
  | .ok (h :: _) =>
    if hMark h = 0xC && t.cpos = hCount h && !t.repActive then
      { t with pc := t.pc + BitVec.ofNat 64 (8 + 8 * hCount h), cpos := 0, ereted := false, lines := vset t.lines 0 .dirty }
    else t
  | _ => t

/-- What the selector does for the threads of its core before it chooses: positions past the end, missing lines, time ready. -/
def beforeSelect (s : State) (core : Nat) : State :=
  let mine := fun (t : Thread) => candidate s t && coreOf t = core
  let s := { s with threads := s.threads.map (fun t => if mine t then pastEnd s core t else t) }
  stampReady (((s.threads.filter mine).map (·.key)).foldl (fetchMissing core) s)

/-! Group formation (R33, R43, R65, R138, R153, R327). -/

/-- A trap of a member at its own position. -/
def standInfo (t : Thread) (cause addr src : Nat) : TrapInfo :=
  { cause := cause, detail := 0, addr := addr, wr := false, src := src, rp := t.pc, rc := t.cpos, repa := t.repActive, repc := t.repc }

/-- Whether a member's CPOS lies beyond its clause (R65, R218). -/
def cposBad (n : Nat) (t : Thread) : Bool := decide (n < t.cpos) || (t.repActive && decide (n < t.cpos + 1))

/-- A thread whose control line is invalid (R65): Exited, with a context-format event. -/
def invalidLine (s : State) (t : Thread) : State :=
  match s.launch? t.key.team.lid with
  | some l => contextEvent (exitThread s t.key) t.vd 0x31 (slotAddr l t.key) t.key.tid t.key.team.num
  | none => exitThread s t.key

/-- The members a fetch fault meets: Parked together under one held fault, or trapped (R153, R334). A group fetches its clause once, so its
fault is one held access with one record, which names the member of lowest TID; members that fault in accesses of their own have a record
each (R343). That a group's fetch is one access is the model's choice (log entry 21). -/
def fetchFault (s : State) (ts : List Thread) (addr : Nat) (e : XErr) : State :=
  match ts with
  | [] => s
  | t0 :: _ =>
    let (c, replay) := xCause s e
    if replay then
      let s := ts.foldl (fun s t => s.modThr t.key park) s
      holdFault s t0.vd (.fetch (ts.map (·.key))) (standInfo t0 c addr 5) t0.key.tid t0.key.team.num e
    else ts.foldl (fun s t => raise (permReport s t.vd (standInfo t c addr 5) t.key e) t.key (standInfo t c addr 5)) s

/-- A member as it begins to issue: what issuing changes is in its control line (R75), and its pins end (R54). -/
def beginIssue (s : State) (mask : List Nat) (t : Thread) : Thread :=
  { t with st := .runnable, since := none, aged := none, pins := Vector.replicate 9 false, ereted := false, yieldHint := false,
           used := (0 :: mask).foldl (fun u n => vset u n s.free) t.used,
           lines := vset t.lines 0 .dirty }

/-- The group of a bucket takes the issue slot of a core (R33): fetch, then the checks of R327 in order. The bucket is the last chosen one
whatever becomes of it (R259). -/
def formGroup (s : State) (core : Nat) (b : Bucket) : State :=
  let ts := groupOf s b
  let clean := s.ms.badSymbols.isEmpty
  let s := noteClause s core b.vd b.pc b.words
  let words := if clean then b.words else fetchClause s core b.vd b.pc
  let s := s.putCore core { s.core core with last := some b.id, yld := words.head.any (fun h => hMark h = 0xC && hYld h) }
  let s := { s with threads := s.threads.map (fun t => if coreOf t = core && t.yieldHint && t.yieldUntil.isNone then { t with yieldHint := false } else t) }
  match words with
  | .fault _ a e => fetchFault s ts a e
  | .bad _ c a => ts.foldl (fun s t => raise s t.key (standInfo t c a (if c = 0x10 then 0 else 5))) s
  | .ok ws =>
    let s := cacheClause s core b.vd b.pc ws
    let h := ws.headD 0
    let marked := hMark h = 0xC
    let bad := fun (t : Thread) => marked && cposBad (hCount h) t
    let s := (ts.filter bad).foldl (fun s t => if t.ereted then raise s t.key (standInfo t 0x01 t.pc.toNat 0) else invalidLine s t) s
    let ts := ts.filter (fun t => !bad t)
    let sl := match ts with
      | t :: _ => slotsOf s t
      | [] => fun _ => { w0 := 0, w1 := 0 }
    if clauseBad sl ws then ts.foldl (fun s t => raise s t.key (standInfo t 0x01 (if marked then 0 else t.pc.toNat) 0)) s
    else
      let mask := lineMask sl ws
      let spent := ts.filter (fun t => mask.any (fun n => t.budget < n))
      let go := ts.filter (fun t => !(mask.any (fun n => t.budget < n)))
      let s := spent.foldl (fun s t => raise s t.key (standInfo t 0x03 0 0)) s
      let s := go.foldl (fun s t => s.modThr t.key (beginIssue s mask)) s
      let g : Group := { team := b.team, members := go.map (·.key.tid), h := b.pc, words := ws, pos := b.cpos, cycles := 0 }
      s.putCore core { s.core core with slot := if go.isEmpty then none else some g }

/-- The lines a thread's clause needs, its control line among them. -/
def neededLines (s : State) (b : Bucket) (t : Thread) : List Nat := 0 :: (match b.words with
  | .ok ws => (lineMask (slotsOf s t) ws).filter (· ≤ t.budget)
  | _ => [])

/-- A thread enters Aligned wait, its lines pinned where the limit on pins has room for them (R39, R74). -/
def waitAligned (core : Nat) (s : State) (w : Bucket × Thread) : State :=
  let ns := neededLines s w.1 w.2
  let fits := pinsFit s core w.2 ns
  s.modThr w.2.key (fun t =>
    let t := { t with st := .alignedWait, lines := vset t.lines 0 .dirty }
    if fits then pinLines ns t else t)

/-- Threads at an aligned clause whose set is incomplete enter Aligned wait, pinned (R38, R39). -/
def alignWait (s : State) (core : Nat) (bk : List Bucket) : State :=
  let waits := (bk.filter (fun b => b.align ≠ 0)).flatMap (fun b =>
    let done := (completeSets s b b.align).flatMap (fun ms => ms.map (·.key))
    (b.ts.filter (fun t => !done.contains t.key)).map (fun t => (b, t)))
  waits.foldl (waitAligned core) s

/-- BUCKET_SELECTION (R259): a core whose issue slot is free chooses a bucket and its group begins to issue. -/
def execBucketSelection (core : Nat) (s : State) : Out :=
  match (s.core core).slot with
  | some _ => .next s
  | none =>
    let s := beforeSelect s core
    let mine := s.threads.filter (fun t => coreOf t = core && t.since.isSome && candidate s t)
    let bk := mine.foldl (fun l t => addToBuckets s t l) []
    let s := alignWait s core bk
    match chooseBucket s core bk with
    | some b => .next (formGroup s core b)
    | none => .next s

/-- GROUP_SUSPEND (R36): between two repeats, after 64 issue cycles, for an aged thread. -/
def execGroupSuspend (core : Nat) (s : State) : Out :=
  match (s.core core).slot with
  | some g =>
    let rep := g.members.any (fun n => match s.thr? { team := g.team, tid := n } with
      | some t => t.repActive && t.repc ≠ 0
      | none => false)
    if 64 ≤ g.cycles && rep && s.threads.any (fun t => coreOf t = core && t.aged.isSome && ready s t) then
      .next (s.putCore core { (s.core core) with slot := none })
    else .next s
  | none => .next s

/-! Team stall (R41). -/

/-- Whether a thread waits for its team: Aligned wait, or Barrier wait not yet released. -/
def teamWaits (t : Thread) : Bool := t.st == .alignedWait || (t.st == .barrierWait && t.releaseAt.isNone)

/-- Whether a member waits for its aligned set at the place another stands: PC, CPOS and REP progress (R33, R37, R78). -/
def gatheredWith (t u : Thread) : Bool :=
  u.st == .alignedWait && u.pc == t.pc && u.cpos = t.cpos && u.repActive == t.repActive && (!t.repActive || u.repc = t.repc)

/-- Whether a team is stalled for good. -/
def stalled (s : State) (k : TeamKey) : Bool :=
  let ms := s.members k
  let complete := fun (t : Thread) => t.st == .alignedWait && match fetchClause s (coreOf t) t.vd t.pc with
    | .ok (h :: _) => let a := setSize (hAlign h)
      a ≠ 0 && (alignedSet s t a).all (gatheredWith t)
    | _ => true
  !ms.isEmpty && ms.all (fun t => teamWaits t && t.flags.toList.all (· = 0) && t.due.isEmpty && t.undelivered.isEmpty) &&
    !(ms.any complete) && (match s.team? k with
      | some tm => tm.met == 0
      | none => true)

/-- TEAM_STALL_DETECT (R41): every waiting thread raises a team-stall trap. -/
def execTeamStallDetect (k : TeamKey) (s : State) : Out :=
  if stalled s k then .next ((s.members k).foldl (fun s t => raise s t.key (standInfo t 0x0C 0 0)) s) else .next s

/-! Deferred traps (R330). -/

/-- The record of a deferred trap at the point it is raised. -/
def atPoint (t : Thread) (i : TrapInfo) : TrapInfo := if i.cause = 0x17 then i else { i with rp := t.pc, rc := t.cpos }

/-- DEFERRED_TRAP (R330): the traps that have fallen due for a member are raised one after another where it stands between clauses or
has stopped. -/
def execDeferredTrap (k : ThrKey) (s : State) : Out :=
  match s.thr? k with
  | some t =>
    if t.due.isEmpty || inSlot s k then .next s
    else
      let s := s.modThr k (fun t => { t with due := [] })
      let s := t.due.foldl (fun s i => raise s k (atPoint t i)) s
      .next (s.modThr k (fun u => if u.haltReq && u.st != .exited && u.undelivered.isEmpty then { u with st := .halted } else u))
  | none => .next s

/-! The register cache (R71 to R76, R258). -/

/-- The die of a thread's core. -/
def dieOf (t : Thread) : Nat := dieOfCluster t.clus

/-- Whether a device store to a thread's slot has yet to be made or to become visible. -/
def slotBusy (s : State) (t : Thread) : Bool := s.ms.wbs.any (fun w => w.thr == t.key && decide (w.line < 14))

/-- Whether the zeros of the slot's rest are still on their way: the thread is not activated again before (R258). -/
def zerosBusy (s : State) (t : Thread) : Bool := s.ms.wbs.any (fun w => w.thr == t.key && w.line = 9)

/-- A thread created at its first activation (R258): its control line is formed, its vector lines are formed on their first fetch,
and zeros are stored to lines 9 to 15 of its slot. -/
def createContext (s : State) (l : Launch) (t : Thread) : State :=
  let lines := (List.range 8).foldl (fun v i => vset v (i + 1) (if i + 1 ≤ t.budget then LineState.unformed else .absent))
    (Vector.replicate 9 LineState.dirty)
  let s := s.modThr t.key (fun t => { t with created := true, lines := lines })
  addWb s t.vd t.clus t.key 9 (List.replicate 448 0) (slotAddr l t.key + 576)

/-- Whether a restored engine command waits for its issuer's control line (R70). -/
def commandWaits (s : State) (t : Thread) : Bool :=
  t.st != .exited && s.ops.any (fun o => o.recorded && o.team == t.key.team && o.tid = t.key.tid)

/-- Whether a thread stands in Barrier wait at an instruction that its control line is yet to tell (R45). -/
def waitUnknown (t : Thread) : Bool := t.st == .barrierWait && t.barrier.isNone && t.releaseAt.isNone

/-- Whether a thread waits to be activated on a core: one that could issue or is to halt without issuing (R341); one whose control line a
restored command, its Barrier wait or the completion of a phase awaits; and, pre-emption or not, one with a trap to be delivered. A held
victim of its own keeps it back (R336). -/
def wantsActivation (s : State) (core : Nat) (t : Thread) : Bool :=
  (((groupable t || commandWaits s t || waitUnknown t || phaseNeeds s t) && mayIssue s t) || (!t.undelivered.isEmpty && mayFetch s t)) &&
    coreOf t = core && placedOn s t && !t.faultPending && heldVictims s t.key = 0 && !lineUsed (vget t.lines 0 .absent)

/-- Whether a thread in Aligned wait waits for another, of the aligned set its clause names (R39, R53). -/
def awaits (s : State) (u t : Thread) : Bool :=
  u.st == .alignedWait && u.key.team == t.key.team && !u.detached && !t.detached &&
    match (fetchClause s (coreOf u) u.vd u.pc).head with
    | some h => let a := setSize (hAlign h)
      a ≠ 0 && u.key.tid / a = t.key.tid / a
    | none => false

/-- The order of activation (R39, R56, R76): one whose fetch faulted at the head, then launch priority, members that an aligned set waits
for, and age. The manual does not say from when a non-resident thread's age counts: it is the time since the thread, able to run, was last
without its control line, then by team and by TID (the model's choice; log entry 69). -/
def activationKey (s : State) (t : Thread) : List Nat :=
  let prio := match s.launch? t.key.team.lid with
    | some l => l.prio
    | none => 7
  [if t.atHead then 0 else 1, prio, if s.threads.any (fun u => awaits s u t) then 0 else 1, t.idleSince.getD (cycOf s t), t.key.team.num,
   t.key.tid]

/-- The vector lines that a restored hscan of a thread will write: its results go into whole lines as the slot has them (R70, R82). -/
def resultLines (s : State) (k : ThrKey) : List Nat :=
  ((s.ops.filter (fun o => o.recorded && o.phase != .held && o.team == k.team && o.tid = k.tid)).flatMap (fun o =>
    let d := longDest o.i
    (List.range d.2).map (fun i => (d.1 + i) / 8 + 1))).eraseDups

/-- The vector lines of a resident thread that the delivery of its trap, whatever its state and its cluster's (R328, R330, R334), the
completion of its phase (R208) or a restored command awaits. -/
def awaitedLines (s : State) (t : Thread) : List Nat :=
  let record := if !t.undelivered.isEmpty && handlerOf s t != 0 && !t.tact && mayFetch s t then [t.budget] else []
  let others := if mayIssue s t then phaseLines s t ++ resultLines s t.key else []
  if lineHeld t 0 then (record ++ others).filter (fun n => !lineUsed (vget t.lines n .absent) && !isHeld s (.vectorLine t.key n)) else []

/-- The resident threads of a core that some vector line is awaited for. -/
def awaitingLines (s : State) (core : Nat) : List Thread :=
  s.threads.filter (fun t => coreOf t = core && placedOn s t && !(awaitedLines s t).isEmpty)

/-- THREAD_ACTIVATION (R56, R73, R258): vector lines that a trap or a phase awaits are fetched; then the next non-resident thread of a core
is created, or its control line is fetched. -/
def execThreadActivation (core : Nat) (s : State) : Out :=
  let s := stampReady s
  match (awaitingLines s core).findSome? (fun t => startLines s core t.key (awaitedLines s t)) with
  | some s => .next s
  | none =>
    match firstBy (activationKey s) (s.threads.filter (fun t => wantsActivation s core t && !zerosBusy s t)) with
    | none => .next s
    | some t =>
      match s.launch? t.key.team.lid, makeRoom s core 1 with
      | some l, some s => .next (if !t.created then createContext s l t else s.modThr t.key (fun t => { t with lines := vset t.lines 0 .fetching }))
      | _, _ => .next s

/-- Whether a thread that stands at a barrier instruction in Barrier wait goes on waiting there: a bar.wait until the phase bit differs
from its parity bit, another for the phase it has arrived in (R45). One that does not issues its instruction. -/
def stillWaits (s : State) (t : Thread) (w : BarWait) : Bool :=
  let bar := barOf s t.key.team w.bar
  if w.second || w.payload then arrivedNow w.bar bar t else bar.phase == t.bpar.getLsbD w.bar

/-- The instruction a thread in Barrier wait stands at, from its clause: what R45 and R208 need of it. -/
def rebuildWait (s : State) (t : Thread) : Thread :=
  let wait := fun (b : FR) (n : Nat) (payload second : Bool) =>
    let w : BarWait := { bar := b.c.toNat, payload := payload, d := b.d, a := b.a, guardBits := guardVal t b.g, second := second, count := n }
    if stillWaits s t w then { t with barrier := some w } else { t with st := .runnable }
  if t.st != .barrierWait || t.barrier.isSome then t
  else match fetchClause s (coreOf t) t.vd t.pc with
    | .ok (h :: ws) => (match (ws[t.cpos]?).bind decodeWord with
        | some (.barArr f) => wait f (hCount h) false true
        | some (.barWait f) => wait f (hCount h) false false
        | some (.barRed f) => wait f (hCount h) true false
        | some (.barScan f) => wait f (hCount h) true false
        | _ => { t with st := .runnable })
    | _ => { t with st := .runnable }

/-- A context line that cannot be read for good (R76, R348): the thread is Exited, with an event naming the slot address. -/
def lineLost (s : State) (t : Thread) (cause : Nat) : State :=
  match s.launch? t.key.team.lid with
  | some l => contextEvent (exitThread s t.key) t.vd cause (slotAddr l t.key) t.key.tid t.key.team.num
  | none => exitThread s t.key

/-- A fetch of a context line that faults (R76, R334): a control line's thread stands at the head of the order, and waits. -/
def lineFault (s : State) (t : Thread) (n addr : Nat) (e : XErr) : State :=
  let (c, replay) := xCause s e
  let info : TrapInfo := { standInfo t c addr 4 with rp := t.pc, rc := t.cpos }
  if replay then
    let s := s.modThr t.key (fun t => { t with lines := vset t.lines n .absent })
    if n = 0 then
      holdFault (s.modThr t.key (fun t => { t with faultPending := true, atHead := true })) t.vd (.controlLine t.key) info t.key.tid t.key.team.num e
    else holdFault (s.modThr t.key park) t.vd (.vectorLine t.key n) info t.key.tid t.key.team.num e
  else
    lineLost s t (if c = 0x1C || c = 0x1D then 0x1C else 0x32)

/-- A thread with its control line installed (R64, R73): the state it stands in is the core's, and a Runnable one that is asked to halt, not
being resident, halts here without issuing (R341); where that is not the STATE of the slot, the line is dirty. Where a barrier's release is
newer than the slot, the thread stays as it is and the line is dirty (R45). -/
def installControl (s : State) (w : Nat → Word) (t : Thread) : Thread :=
  let halts := t.haltReq && (t.st == .runnable || t.st == .unstarted)
  let st := if halts then .halted else t.st
  let t := { t with st := st, waitUntil := if halts then none else t.waitUntil, used := vset t.used 0 s.free, atHead := false }
  if t.owed then { t with owed := false, lines := vset t.lines 0 .dirty }
  else rebuildWait s { loadControl t w with
    st := st, detached := t.detached, lines := vset t.lines 0 (if bits (w 1) 27 25 = st.code then .clean else .dirty) }

/-- A context line that has arrived is installed; a control line is checked first (R65). -/
def installLine (s : State) (l : Launch) (t : Thread) (n : Nat) (w : Nat → Word) : State :=
  if n ≠ 0 then s.modThr t.key (fun t => { loadLine t n w with lines := vset t.lines n .clean, used := vset t.used n s.free })
  else if !controlOk t (t.key.team.spawned || l.migr) w then invalidLine s t
  else s.modThr t.key (installControl s w)

/-- The words of a run of bytes. -/
def wordsIn (bs : List Byte) (j : Nat) : Word := BitVec.ofNat 64 (leNat ((bs.drop (8 * j)).take 8))

/-- CONTEXT_LINE_FETCH_COMPLETE (R65, R73, R75, R76): a line arrives, from its own write-back where one is in progress, else from its home,
and is installed. -/
def execContextLineFetchComplete (k : ThrKey) (n : Nat) (s : State) : Out :=
  match s.thr? k, s.launch? k.team.lid with
  | some t, some l =>
    let addr := slotAddr l k + 64 * n
    if vget t.lines n .absent != .fetching || 8 < n then .next s
    else match (s.ms.wbs.filter (fun w => w.thr == k && w.line = n)).getLast? with
      | some w => .next (installLine s l t n (wordsIn w.bytes))
      | none =>
        let s := s.walked (.core (coreOf t)) t.vd addr
        match translate s (.core (coreOf t)) t.vd addr .read with
        | .error e => .next (lineFault s t n addr e)
        | .ok x =>
          let s := s.cacheXlat (.core (coreOf t)) t.vd addr x
          if !hbmDpa x.dpa then .next (lineLost s t 0x32)
          else if homeHolds s x.dpa then .next s
          else
            let s := decodeRange s x.dpa 64
            if s.poisoned x.dpa then .next (lineLost s t 0x1C) else .next (installLine s l t n (lineWords s x.dpa))
  | _, _ => .next s

/-- The write-backs without one. -/
def dropWb (s : State) (id : Nat) : State := { s with ms := { s.ms with wbs := s.ms.wbs.filter (fun w => w.id ≠ id) } }

/-- A write-back that cannot be made (R336): its line is dropped, the thread, or for a block page every thread of the team, is Exited,
and an event names the address. -/
def wbLost (s : State) (w : WriteBack) : State :=
  let s := dropWb s w.id
  let ks := if w.line < 14 then [w.thr] else if w.line < 2 ^ 20 then (s.members w.thr.team).map (·.key) else []
  let s := ks.foldl exitThread s
  let s := if 2 ^ 20 ≤ w.line then s.modLaunch w.thr.team.lid (fun l => { l with savedBins := l.savedBins.filter (· ≠ w.line - 2 ^ 20) }) else s
  contextEvent s w.vd 0x32 w.gva w.thr.tid w.thr.team.num true

/-- Whether an earlier write-back to the same bytes is still to be made: write-backs of one line are made in order (R75). -/
def writesAfter (s : State) (w : WriteBack) : Bool :=
  s.ms.wbs.any (fun x => x.id < w.id && x.vd = w.vd && x.tw = 0 && x.gva < w.gva + w.bytes.length && w.gva < x.gva + x.bytes.length)

/-- VICTIM_WRITEBACK_COMPLETE (R75, R336): the stored bytes take a write time at their home, and the write-back is over once that time
has come; a translation fault holds it. -/
def execVictimWritebackComplete (id : Nat) (s : State) : Out :=
  match s.ms.wbs.find? (fun w => w.id = id) with
  | none => .next s
  | some w =>
    if w.tw ≠ 0 then .next (if w.tw ≤ s.now then dropWb s id else s)
    else if s.ms.held.any (fun h => h.what == .writeBack id) || writesAfter s w then .next s
    else
      let s := s.walked (.cluster w.cluster) w.vd w.gva
      match translate s (.cluster w.cluster) w.vd w.gva .write with
      | .ok x => if !hbmDpa x.dpa then .next (wbLost s w)
          else if writeHolds s w.vd x.dpa x.repl then .next s
          else
            let (tw, s) := homeWrite s w.vd x.repl x.dpa w.bytes
            .next { s with ms := { s.ms with wbs := s.ms.wbs.map (fun w => if w.id = id then { w with tw := tw } else w) } }
      | .error e =>
        let (c, replay) := xCause s e
        let info : TrapInfo := { cause := c, detail := 0, addr := w.gva, wr := true, src := 4, rp := 0, rc := 0, repa := false, repc := 0 }
        let info := match s.thr? w.thr with
          | some t => { info with rp := t.pc, rc := t.cpos }
          | none => info
        if replay then .next (holdFault s w.vd (.writeBack id) info w.thr.tid w.thr.team.num e)
        else .next (wbLost s w)

/-! Timed waits. -/

/-- BARRIER_RELEASE (R262): a released thread becomes Runnable at its cycle of the window. -/
def execBarrierRelease (k : ThrKey) (s : State) : Out :=
  match s.thr? k with
  | some t =>
    (match t.releaseAt with
      | some n => if n ≤ cycOf s t && t.st == .barrierWait then
          .next (s.modThr k (fun t => { t with st := if t.haltReq then .halted else .runnable, releaseAt := none, lines := touched t.lines })) else .next s
      | none => .next s)
  | none => .next s

/-- YIELD_EXPIRE (R188): the member is ready again; its hint stands for the next selection. -/
def execYieldExpire (k : ThrKey) (s : State) : Out :=
  match s.thr? k with
  | some t =>
    (match t.yieldUntil with
      | some n => if t.yieldHint && n ≤ cycOf s t then .next (s.modThr k (fun t => { t with yieldUntil := none })) else .next s
      | none => .next s)
  | none => .next s

/-- WAITT_DEADLINE (R213): guest time has reached the deadline and the waitt completes. -/
def execWaittDeadline (k : ThrKey) (s : State) : Out :=
  match s.thr? k with
  | some t =>
    (match t.waitUntil with
      | some (d, n) => if d ≤ s.gtime t.vd && lineHeld t 0 then
          .next (s.modThr k (fun t => { pass (cycOf s t) n t with waitUntil := none, lines := vset t.lines 0 .dirty })) else .next s
      | none => .next s)
  | none => .next s

end Sys2Proof.Machine
end

