-- ==== Sys2Proof/Machine/Admit.lean ====
section
/-!
DEFINITION. Reads of the device's own memory in runs, the image banks as bytes (R387 to R390), and the admission of must-save sets
(R212, R383 to R386).
-/

namespace Sys2Proof.Machine

/-! Runs of device memory. -/

/-- How a read of the device ends: a replayable fault, or a home that holds every request (R351); a permission fault, a reserved address
or an aperture; poison, with the state that marks it; or the state with what decoding corrected, and the non-zero bytes as offsets. -/
inductive DevRead where
  | fault (e : XErr) (addr : Nat)
  | gone (addr : Nat)
  | poison (s : State) (addr : Nat)
  | ok (s : State) (m : Mem)

/-- The pieces of a run of bytes, each inside one aligned block of a size. -/
def cutPieces (size : Nat) : Nat → Nat → Nat → List (Nat × Nat)
  | 0, _, _ => []
  | fuel + 1, a, len =>
    if len = 0 then []
    else
      let n := min len (size - a % size)
      (a, n) :: cutPieces size fuel (a + n) (len - n)

/-- Those of pages of 4 KiB, and those of lines of 256 B. -/
def pagePieces (fuel a len : Nat) : List (Nat × Nat) := cutPieces 4096 fuel a len
def linePieces (a len : Nat) : List (Nat × Nat) := cutPieces 256 (len / 256 + 2) a len

/-- One piece read. -/
def devPiece (s : State) (by_ : Asker) (v : Nat) (base : Nat) (p : Nat × Nat) (m : Mem) : DevRead :=
  let s := s.walked by_ v p.1
  match translate s by_ v p.1 .read with
  | .error e => (match xCause s e with
      | (0x1C, _) => .poison s p.1
      | (_, true) => .fault e p.1
      | _ => .gone p.1)
  | .ok x =>
    if !hbmDpa x.dpa then .gone p.1
    else
      let d := servedDpa by_.die x.dpa x.repl
      if homeHolds s d then .fault (.homeHolds d) p.1
      else
      let s := decodeListed s d p.2
      if poisonIn s d p.2 then .poison s p.1
      else .ok s (m ++ (memSlice s.ms.mem d p.2).map (fun c => (p.1 - base + c.1, c.2)))

/-- A run of bytes read by the device at their homes, with no lease. -/
def devRead (s : State) (by_ : Asker) (v a len : Nat) : DevRead :=
  (pagePieces (len / 4096 + 2) a len).foldl (fun acc p => match acc with
    | .ok s m => devPiece s by_ v a p m
    | r => r) (.ok s [])

/-- A run of bytes stored by the device, line by line, each with its write time (R75, R122): what stops it, with the state before the stopped
line. -/
def devWrite (s : State) (by_ : Asker) (v a : Nat) (bs : List Byte) : State × Option (XErr × Nat) × Option Nat :=
  let one := fun (acc : State × Option (XErr × Nat) × Option Nat) (p : Nat × Nat) =>
    match acc with
    | (s, none, none) =>
      let s := s.walked by_ v p.1
      (match translate s by_ v p.1 .write with
        | .error e => if (xCause s e).2 then (s, some (e, p.1), none) else (s, none, some p.1)
        | .ok x =>
          if hbmDpa x.dpa && writeHolds s v x.dpa x.repl then (s, some (.homeHolds x.dpa, p.1), none)
          else if hbmDpa x.dpa then (storeAt s v x ((bs.drop (p.1 - a)).take p.2), none, none) else (s, none, some p.1))
    | r => r
  (linePieces a bs.length).foldl one (s, none, none)

/-! Image banks as bytes (R387, R388). -/

/-- Header words 0 to 3. -/
def Bank.header (b : Bank) : List Byte := leBytes 8 (b.nitem * 2 ^ 16 + b.ver) ++ leBytes 8 b.seq ++ leBytes 8 b.tc ++ leBytes 8 b.tdet

/-- An item entry, with the given word 6. -/
def BankItem.bytesWith (i : BankItem) (w6 : Nat) : List Byte :=
  leBytes 8 (b2n i.done * 2 ^ 63 + b2n i.strt * 2 ^ 62 + i.vd * 2 ^ 53 + i.order * 2 ^ 45 + i.bytes) ++ leBytes 8 i.base ++ leBytes 8 i.lrec ++
    leBytes 8 i.doff ++ leBytes 8 i.crc ++ leBytes 8 i.didx ++ leBytes 8 w6 ++ leBytes 8 0

/-- A chunk table entry. -/
def Chunk.word (c : Chunk) : Nat := b2n c.wrt * 2 ^ 63 + b2n c.poison * 2 ^ 62 + b2n c.unsave * 2 ^ 61 + b2n c.wfail * 2 ^ 60 + c.ccrc

/-- An entry that has not been written. -/
def Chunk.none : Chunk := { wrt := false, poison := false, unsave := false, wfail := false, ccrc := 0 }
def Bank.chunk (b : Bank) (c : Nat) : Chunk := (look c b.chunks).getD Chunk.none

/-- What SEALCRC covers (R387): header words 0 to 3, the item entries and the chunk table. -/
def Bank.sealed (b : Bank) : List Byte :=
  b.header ++ b.items.flatMap (·.bytesWith 0) ++ (List.range 4096).flatMap (fun c => leBytes 8 (b.chunk c).word)

/-- Whether a bank is sealed (R390). -/
def Bank.isSealed (b : Bank) : Bool :=
  b.ver == 1 && decide (b.nitem ≤ 4096) && b.sealseq == b.seq && b.sealcrc == crc32c b.sealed

/-- A bank of the package. -/
def State.bank (s : State) (n : Nat) : Bank := vget s.banks n Bank.empty
def State.putBank (s : State) (n : Nat) (b : Bank) : State := { s with banks := vset s.banks n b }

/-! Admission limits (R378, R391). -/

/-- Whether R391 bars every save: both banks bad, or one bad while the other holds a sealed image. -/
def saveBarred (s : State) : Bool :=
  let b0 := s.bank 0
  let b1 := s.bank 1
  (b0.bad && b1.bad) || (b0.bad && b1.isSealed) || (b1.bad && b0.isSealed)

/-- MAXSAVE. -/
def maxSave (s : State) : Nat := if saveBarred s then 0 else min 4096 (4 * (s.mg.ecap - 400))

/-- The charge of a set, and the sums over a device and over the package. -/
def chargeOf (items : List MustItem) : Nat := (items.map (fun i => (i.bytes + 65535) / 65536)).sum
def usedBy (s : State) (v : Nat) : Nat := ((s.musts.filter (fun m => m.vd = v)).map (fun m => chargeOf m.items)).sum
def usedAll (s : State) : Nat := (s.musts.map (fun m => chargeOf m.items)).sum

/-- HUSED of a device's entry takes its sum (R384). -/
def noteUsed (s : State) (v : Nat) : State := s.modVd v (fun d => d.setField 7 28 16 (usedBy s v))

/-- The set of a launch withdrawn with its charge (R385). -/
def withdraw (s : State) (lid v : Nat) : State := noteUsed { s with musts := s.musts.filter (fun m => m.lid ≠ lid) } v

/-- Whether a plot holds part of an admitted item (R386): a resident one, whose frame is its own. -/
def pinned (s : State) (p : Plot) : Bool :=
  p.state ≤ 2 && s.musts.any (fun m => m.items.any (fun i => i.pages.any (fun a => match a with
    | some d => d / 65536 = p.frame
    | none => false)))

/-! Lists (R383). -/

/-- A descriptor as its two words. -/
structure Desc16 where
  w0 : Word
  w1 : Word
  deriving DecidableEq, Repr

/-- Whether a descriptor breaks R383. -/
def Desc16.bad (d : Desc16) : Bool :=
  bits d.w0 63 48 != 0 || bits d.w0 5 0 != 0 || bits d.w1 55 32 != 0 || bits d.w1 31 0 % 64 != 0 ||
    decide (2 ^ 48 < bits d.w0 47 6 * 64 + bits d.w1 31 0)

/-- How reading a list ends. -/
inductive ListRead where
  | fault (e : XErr) (addr : Nat)
  | malformed (s : State)
  | ok (s : State) (ds : List Desc16)

/-- At most `fuel` descriptors from an address, up to the terminator. -/
def readList (v : Nat) : Nat → State → Nat → ListRead
  | 0, s, _ => .malformed s
  | fuel + 1, s, a =>
    match devRead s .iod v a 16 with
    | .fault e x => .fault e x
    | .gone _ => .malformed s
    | .poison s _ => .malformed s
    | .ok s m =>
      let d : Desc16 := { w0 := memWord m 0, w1 := memWord m 8 }
      if d.bad then .malformed s
      else if bits d.w1 31 0 = 0 then .ok s []
      else match readList v fuel s (a + 16) with
        | .ok s ds => .ok s (d :: ds)
        | r => r

/-- The DPA of one page as admission needs it: translated through both stages with RD, HBM-backed, not tier-held (R384 step 2). -/
def pageDpa (s : State) (v a : Nat) : Option Nat :=
  match walkBoth s v a .read with
  | .ok x => if hbmDpa x.dpa then some x.dpa else none
  | .error _ => none

/-- Whether a home in time fault holds the walk of a page (R351). -/
def pageHeld (s : State) (v a : Nat) : Option XErr :=
  match walkBoth s v a .read with
  | .error (.homeHolds d) => some (.homeHolds d)
  | _ => none

/-- The guest-physical page that a page translates to, `old` where it does not. -/
def pageGpa (s : State) (v a old : Nat) : Nat :=
  match walkBoth s v a .any with
  | .ok x => x.gpa / 4096
  | .error _ => old

/-- The pages a descriptor names. -/
def pagesOf (d : Desc16) : List Nat :=
  let base := bits d.w0 47 6 * 64
  let bytes := bits d.w1 31 0
  (List.range ((base + bytes + 4095) / 4096 - base / 4096)).map (fun i => (base / 4096 + i) * 4096)

/-- An item of a descriptor, its pages recorded (R386). -/
def itemOf (s : State) (v n : Nat) (d : Desc16) : MustItem :=
  let base := bits d.w0 47 6 * 64
  let bytes := bits d.w1 31 0
  let addrs := pagesOf d
  { base := base, bytes := bytes, order := bits d.w1 63 56, didx := n, pages := addrs.map (pageDpa s v),
    gpages := addrs.map (fun a => pageGpa s v a (a / 4096)) }

/-- The homes' reads of the walks of some pages of a device (R345). -/
def walkPages (s : State) (v : Nat) (as : List Nat) : State := as.foldl (fun s a => s.walked .iod v a) s

/-- How an admission ends: a fault to be serviced, or a status with the state. -/
inductive Admission where
  | fault (e : XErr) (addr : Nat)
  | status (n : Nat) (s : State)

/-- Admission of a well-formed list for a root launch of a device, from step 2 of R384 on. -/
def admitDescs (s : State) (v lid : Nat) (ds : List Desc16) : Nat × State :=
  let s := walkPages s v (ds.flatMap pagesOf)
  let items := (List.range ds.length).filterMap (fun i => (ds[i]?).map (itemOf s v i))
  let old := ((s.musts.filter (fun m => m.lid = lid)).map (fun m => chargeOf m.items)).sum
  if items.any (fun i => i.pages.any (·.isNone)) then (4, s)
  else if bits ((s.vd v).word 7) 12 0 + old < usedBy s v + chargeOf items then (1, s)
  else if saveBarred s || maxSave s + old < usedAll s + chargeOf items then (2, s)
  else
    let rest := s.musts.filter (fun m => m.lid ≠ lid)
    let set : MustSet := { lid := lid, vd := v, admitted := s.nextId, items := items }
    (0, noteUsed { s with nextId := s.nextId + 1, musts := if items.isEmpty then rest else rest ++ [set] } v)

/-- Admission of the list at an address for a root launch of a device (R384); it waits where a home in time fault holds the walk of a page
(R351). -/
def admitAt (s : State) (v lid a : Nat) : Admission :=
  if a % 16 ≠ 0 then .status 3 s
  else match readList v 65 s a with
    | .fault e x => .fault e x
    | .malformed s => .status 3 s
    | .ok s ds => (match (ds.flatMap pagesOf).findSome? (fun a => (pageHeld s v a).map (fun e => (e, a))) with
      | some (e, a) => .fault e a
      | none => .status (admitDescs s v lid ds).1 (admitDescs s v lid ds).2)

/-- The pages of a device's admitted items that an invalidation covers (by virtual and by guest-physical page) are recorded again (R386). -/
def recordAgain (s : State) (v : Nat) (covers : Nat → Nat → Bool) : State :=
  let pages := fun (i : MustItem) => ((List.range i.pages.length).filter (fun n => covers (i.base / 4096 + n) (i.gpages.getD n 0))).map (fun n =>
    (i.base / 4096 + n) * 4096)
  let s := walkPages s v ((s.musts.filter (fun m => m.vd = v)).flatMap (fun m => m.items.flatMap pages))
  let item := fun (i : MustItem) =>
    let p := (List.range i.pages.length).map (fun n =>
      let page := i.base / 4096 + n
      let g := i.gpages.getD n 0
      if covers page g then (pageDpa s v (page * 4096), pageGpa s v (page * 4096) g) else (i.pages.getD n none, g))
    { i with pages := p.map (·.1), gpages := p.map (·.2) }
  { s with musts := s.musts.map (fun m => if m.vd = v then { m with items := m.items.map item } else m) }

/-- Whether a home in time fault holds the walk of a page that is to be recorded again (R351). -/
def againHeld (s : State) (v : Nat) (covers : Nat → Nat → Bool) : Bool :=
  s.musts.any (fun m => m.vd = v && m.items.any (fun i => (List.range i.pages.length).any (fun n =>
    covers (i.base / 4096 + n) (i.gpages.getD n 0) && (pageHeld s v ((i.base / 4096 + n) * 4096)).isSome)))

/-! MUSTS_ADMISSION (R212, R384). -/

/-- Whether a request is a must-save list. -/
def mustsOf (q : Req) : Option FM := match q.i with
  | .musts f => some f
  | _ => none

/-- The group of a musts goes on once every enabled member has its status or has left it. -/
def mustsGoOn (s : State) (q : Req) : State :=
  if s.ms.reqs.any (fun p => (mustsOf p).isSome && p.order = q.order) then s
  else match ctx? { s with cur := q.core } with
    | some cx => if cx.g.h == q.pc && cx.g.pos = q.cpos && cx.team.key == q.thr.team then commitAll s cx else s
    | none => s

/-- MUSTS_ADMISSION (R212): the controller decides one member's list; admissions are serialised in the order of the members. -/
def execMustsAdmission (id : Nat) (s : State) : Out :=
  match s.req? id with
  | none => .next s
  | some q =>
    match mustsOf q with
    | none => .next s
    | some f =>
      if s.power != .on || s.ms.reqs.any (fun p => (mustsOf p).isSome && p.order = q.order && p.id < id) then .next s
      else match admitAt s q.vd q.thr.team.lid q.gva with
        | .status n s =>
          .next (mustsGoOn ((s.dropReq id).modThr q.thr (fun t => if t.st == .exited then t else t.writeV f.d.toNat (BitVec.ofNat 64 n))) q)
        | .fault e a =>
          let info : TrapInfo := { cause := (xCause s e).1, detail := 0, addr := a, wr := false, src := 7, rp := q.pc, rc := q.cpos,
                                   repa := q.repa, repc := q.repc }
          let s := ((s.dropReq id).unslot q.thr).modThr q.thr park
          .next (mustsGoOn (holdFault s q.vd (.musts q.thr) info q.thr.tid q.thr.team.num e) q)

end Sys2Proof.Machine
end

