-- ==== Sys2Proof/Machine/Launch.lean ====
section
/-!
DEFINITION. From kick to completion (R48 to R53, R62, R245 to R265, R278): queues and kicks, the checks of a record, dependences,
starting a launch, placing teams and restoring waiting ones, landing slots, spawned teams, and completion.
-/

namespace Sys2Proof.Machine

/-! Kicks (R248 to R251). -/

/-- A kick that meets a full queue is dropped with CAUSE 0x01 (R249). -/
def dropKick (s : State) (v j : Nat) : State :=
  let q := (s.vd v).queue j
  let s := s.modQueue v j (fun q => { q with cause := 0x01, err := true })
  if q.irqr then s.announce v (j + 1) q.ivec.toNat 0 else s

/-- The kick now handled leaves its queue's line. -/
def popKick (s : State) (v j : Nat) : State := s.modQueue v j (fun q => { q with kicks := q.kicks.drop 1 })

/-- Whether a device's kicks are rejected unread: it is draining or killed (R248). -/
def kicksRefused (d : VDev) : Bool := d.state = 4 || d.state = 5

/-- The kicks at the head of a queue that are decided without reading a record (R248, R249). A core's kick is taken once the IOD cycle in
which it came, 1 ns, is over. -/
def handleKicks (v j : Nat) : Nat → State → State
  | 0, s => s
  | n + 1, s =>
    let q := (s.vd v).queue j
    match q.kicks with
    | [] => s
    | k :: _ =>
      let x := k.addr
      if k.core && k.cycle = s.now then s
      else if kicksRefused (s.vd v) then handleKicks v j n (rejectKick (popKick s v j) v j 0x0C x false)
      else if 64 ≤ q.pend.length then handleKicks v j n (dropKick (popKick s v j) v j)
      else if bits x 7 0 ≠ 0 || bits x 63 48 ≠ 0 then handleKicks v j n (rejectKick (popKick s v j) v j 0x02 x true)
      else s

/-- Whether queue j exists for a device: a free device has none (R248, R295). -/
def queueExists (d : VDev) (j : Nat) : Bool := d.state ≠ 0 && decide (j < d.qcnt)

/-- A queue's kicks with one more: a host's goes before the cores' kicks of its IOD cycle (R248). -/
def addKick (now : Nat) (k : Kick) : List Kick → List Kick
  | [] => [k]
  | x :: rest => if !k.core && x.core && x.cycle = now then k :: x :: rest else x :: addKick now k rest

/-- KICK (R249): a write to a kick register, by the host or by a core; the kicks of one queue are handled one at a time (R248). -/
def execKick (v j : Nat) (x : KickWrite) (s : State) : Out :=
  if s.power != .on || !queueExists (s.vd v) j then .next s
  else
    let waiting := !((s.vd v).queue j).kicks.isEmpty
    let s := s.modQueue v j (fun q => { q with kicks := addKick s.now { addr := x.word, core := x.core, cycle := s.now } q.kicks })
    .next (if waiting then s else handleKicks v j 1 s)

/-- Whether a format slot passes R99 in a launch of some scratchpad rows. -/
def slotOk (rows : Nat) (x : Slot) : Bool :=
  let k := x.kind?
  let unscaled := match k with
    | some .mxfp8 | some .mxfp4 | some .bs4 => false
    | _ => true
  let ts := x.tscale % 2 ^ 15 / 2 ^ 7
  let need := if x.xform = 1 then (4 * x.xk + 63) / 64 else (2 * x.xcnt + 63) / 64
  bits x.w0 31 28 == 0 && bits x.w0 20 18 == 0 && bits x.w0 15 12 == 0 && bits x.w1 63 46 == 0 && bits x.w1 15 7 == 0 &&
    x.xform != 3 && bits x.w0 25 24 < 2 && bits x.w0 23 21 < 5 && x.splace < 2 && k.isSome && (!unscaled || x.splace == 0) &&
    (x.tscale == 0 || (0 < ts && ts < 255)) && (x.xform != 1 || x.efmt == 4 || x.efmt == 5) && (x.xform != 2 || x.efmt == 7) &&
    (x.xform == 0 || 1 ≤ x.xk) && (if x.xform = 2 then 1 ≤ x.xcnt && x.xcnt ≤ 64 else x.xcnt == 0) &&
    (x.xform == 0 || decide (x.xrow + need ≤ rows))

/-- Whether a reserved field of words 0 to 15 is set (R245, R246, cause 0x04). -/
def reservedSet (l : Launch) : Bool :=
  let w := l.word
  let pair := fun (j : Nat) =>
    if j < l.dcnt then bits (w (8 + 2 * j)) 63 48 != 0 || bits (w (8 + 2 * j)) 2 0 != 0 else w (8 + 2 * j) != 0 || w (9 + 2 * j) != 0
  bits (w 0) 63 48 != 0 || bits (w 0) 2 0 != 0 || bits (w 1) 63 48 != 0 || bits (w 1) 2 0 != 0 || bits (w 2) 63 48 != 0 ||
    bits (w 2) 15 0 != 0 || bits (w 3) 63 48 != 0 || bits (w 3) 2 0 != 0 || bits (w 4) 63 57 != 0 || bits (w 5) 63 55 != 0 ||
    bits (w 5) 31 29 != 0 || bit (w 5) 15 || w 7 != 0 || (List.range 4).any pair

/-- The first check of R251 that a record fails. -/
def recordCause (l : Launch) : Option Nat :=
  let t := l.stimerRaw
  if reservedSet l then some 0x04
  else if decide (l.threads < l.pcnt) || (t ≠ 0 && (t < 64 || 4096 < t)) || 4 < l.dcnt || 16384 < l.srows then some 0x05
  else if (List.range 8).any (fun n => !slotOk l.srows (l.slot n)) then some 0x06
  else if l.entry = 0 || (l.migr && (l.srows ≠ 0 || l.mstr)) then some 0x07
  else if l.mstr && l.rbk then some 0x08
  else none

/-- A launch as its accepted record makes it. -/
def newLaunch (lid v j now : Nat) (addr : Word) (words : Vector Word 32) : Launch :=
  { lid := lid, vd := v, j := j, addr := addr, words := words, phase := .pending, startedAt := 0, deps := Vector.replicate 4 false, depsAt := now,
    nextTeam := 0, doneTeams := 0, spawnNext := 0, spawnLive := 0, mustOk := false, maxTw := 0, qdone := none, savedBins := [] }

/-- The mark of a posted host write among a version's clusters: 384 + v for virtual function v of a device. -/
def hostMark (v : Nat) : Nat := 384 + v

/-- Whether a posted write of a device's function has yet to be made, or to become visible (R250, R296). -/
def hostWritesPending (s : State) (v : Nat) : Bool :=
  s.ms.versions.any (fun x => x.clusters.contains (hostMark v)) || s.mg.bar2.any (fun b => b.vd = v && match b.what with
    | .write _ _ => true
    | _ => false)

/-- A record of the IOD's own reads: SRC 6, PC the record or counter address (R332). -/
def iodInfo (cause : Nat) (pc addr : Nat) (wr : Bool) : TrapInfo :=
  { cause := cause, detail := 0, addr := addr, wr := wr, src := 6, rp := BitVec.ofNat 64 pc, rc := 0, repa := false, repc := 0 }

/-- An accepted record joins its queue (R249). -/
def acceptRecord (s : State) (v j : Nat) (x : Word) (m : Mem) : State :=
  let l := newLaunch s.nextId v j s.now x ((Vector.range 32).map (fun i => memWord m (8 * i)))
  match recordCause l with
  | some c => rejectKick s v j c x true
  | none =>
    { s with nextId := s.nextId + 1, launches := s.launches ++ [l] }.modQueue v j
      (fun q => { q with pend := q.pend ++ [l.lid], accepted := q.accepted + 1 })

/-- KICK_RECORD_READ (R250): the record of the kick now handled is read at the homes of its lines and checked. -/
def execKickRecordRead (v j : Nat) (s : State) : Out :=
  match ((s.vd v).queue j).kicks with
  | [] => .next s
  | k :: _ =>
    let x := k.addr
    if s.power != .on || !queueExists (s.vd v) j || (k.core && k.cycle = s.now) || isHeld s (.kickRead v j) || hostWritesPending s v then .next s
    else if kicksRefused (s.vd v) || 64 ≤ ((s.vd v).queue j).pend.length || bits x 7 0 ≠ 0 || bits x 63 48 ≠ 0 then .next (handleKicks v j 1 s)
    else
      let rest := fun (s : State) => let s := popKick s v j; handleKicks v j ((s.vd v).queue j).kicks.length s
      match devRead s .iod v x.toNat 256 with
      | .fault e a => .next (holdFault s v (.kickRead v j) (iodInfo 0 x.toNat a false) 0 0 e)
      | .gone _ => .next (rest (rejectKick s v j 0x03 x true))
      | .poison s _ => .next (rest (rejectKick s v j 0x03 x true))
      | .ok s m => .next (rest (acceptRecord s v j x m))

/-! Dependences and the start (R251 to R253). -/

/-- A pending record is abandoned (R251), and with it the reads of its counters that a fault holds. -/
def abandon (s : State) (l : Launch) (cause : Nat) : State :=
  let s := { s with launches := s.launches.filter (fun x => x.lid ≠ l.lid),
                    ms := { s.ms with held := s.ms.held.filter (fun h => !((List.range 4).any (fun n => h.what == HeldWhat.dependence l.vd l.j n))) } }
  let s := s.modQueue l.vd l.j (fun q => { q with pend := q.pend.filter (· ≠ l.lid) })
  rejectKick s l.vd l.j cause l.addr true

/-- DEPENDENCE_REPORT (R252): the counter of an unsatisfied pair of the head record is read; later versions are reported by the
watch (see `reportWatches`). -/
def execDependenceReport (v j n : Nat) (s : State) : Out :=
  match headLaunch s v j with
  | none => .next s
  | some l =>
    if s.power != .on || l.phase != .pending || !depDue l n || isHeld s (.dependence v j n) then .next s
    else match devRead s .iod v (l.depAddr n) 8 with
      | .fault e a => .next (holdFault s v (.dependence v j n) (iodInfo 0 (l.depAddr n) a false) 0 0 e)
      | .gone _ => .next (abandon s l 0x0A)
      | .poison s _ => .next (abandon s l 0x0A)
      | .ok s m =>
        let s := depRead s v j n
        if l.depNeed n ≤ (memWord m 0).toNat then .next (s.modLaunch l.lid (fun l => { l with deps := vset l.deps n true, depsAt := s.now })) else .next s

/-- Whether a head record is startable (R253). -/
def startable (s : State) (l : Launch) : Bool :=
  l.phase == .pending && (List.range 4).all (fun n => !depDue l n) && decide (l.start ≤ s.gtime l.vd)

/-- LAUNCH_START (R253, R384): a startable head record starts, its must-save list admitted first where it names one. -/
def execLaunchStart (v j : Nat) (s : State) : Out :=
  match headLaunch s v j with
  | none => .next s
  | some l =>
    if s.power != .on || !(s.vd v).runs || !startable s l || isHeld s (.mustOfLaunch l.lid) then .next s
    else
      let go := fun (s : State) => s.modLaunch l.lid (fun l => { l with phase := .started, startedAt := s.now, mustOk := true })
      if l.must = 0 then .next (go s)
      else match admitAt s v l.lid l.must with
        | .fault e a => .next (holdFault s v (.mustOfLaunch l.lid) (iodInfo 0 l.must a false) 0 0 e)
        | .status 0 s => .next (go s)
        | .status _ s => .next (abandon s l 0x09)

/-! Placing teams (R254 to R257). -/

/-- Clusters per partition that the schedule uses, and whether a cluster is held out of service (R275, R374). -/
def scheduled (s : State) (c : Nat) : Bool :=
  let k := partOfCluster c
  let p := vget s.parts k { st := 0, rcnt := 0, failm := 0 }
  decide (c % 48 < vget s.mg.widths k 48) && p.st = 0 && !(p.failm.getLsbD (c % 48))

/-- The clusters of a device's share that can take work (R254). -/
def shareOf (s : State) (v : Nat) : List Nat :=
  (s.clusters.filter (fun p => p.2.holder == some v && p.2.preempting.isNone && scheduled s p.1)).map (·.1)

/-- The teams placed on a cluster. -/
def teamsOn (s : State) (c : Nat) : List Team := s.teams.filter (fun t => t.cluster == some c)

/-- The load of a cluster (R256): the non-exited threads of its teams, wherever they run, and those in its landing slots. -/
def loadOf (s : State) (c : Nat) : Nat :=
  ((teamsOn s c).map (fun t => (s.members t.key).length)).sum + (s.cluster c).landing.length

/-- Rows of a team, and the allocations of a cluster as first row and count. -/
def rowsOf (s : State) (k : TeamKey) : Nat := match s.launch? k.lid with
  | some l => if k.spawned then 0 else l.srows
  | none => 0
def allocations (s : State) (c : Nat) : List (Nat × Nat) := (teamsOn s c).map (fun t => (t.row, rowsOf s t.key))

/-- The lowest first row of a free contiguous run of a cluster's scratchpad (R255). -/
def freeRow (s : State) (c rows : Nat) : Option Nat :=
  let used := (allocations s c).filter (fun r => r.2 ≠ 0)
  let fits := fun (r : Nat) => decide (r + rows ≤ 16384) && used.all (fun u => decide (u.1 + u.2 ≤ r) || decide (r + rows ≤ u.1))
  if rows = 0 then some 0 else firstBy (fun r => [r]) ((0 :: used.map (fun u => u.1 + u.2)).filter fits)

/-- Whether a cluster is able to take a team (R255). -/
def able (s : State) (k : TeamKey) (c : Nat) : Bool :=
  let ts := teamsOn s c
  let mstr := match s.launch? k.lid with
    | some l => l.mstr
    | none => false
  let storeUsed := ts.any (fun t => !t.key.spawned && match s.launch? t.key.lid with
    | some l => l.mstr
    | none => false)
  decide (ts.length < 64) && (k.spawned ||
    (decide ((ts.filter (fun t => !t.key.spawned)).length < 6) && (freeRow s c (rowsOf s k)).isSome && !(mstr && storeUsed)))

/-- A die's headroom in mW (R264). -/
def headroom (s : State) (d : Nat) : Int := (1000 * (s.die d).plim : Int) - ((s.die d).pmeas : Int)

/-- The cluster a team is placed on: least load, steered by headroom where steering is in force (R256, R264). -/
def chooseCluster (s : State) (v : Nat) (k : TeamKey) : Option Nat :=
  let cs := (shareOf s v).filter (able s k)
  let steer := ((s.die 0).hstr || (s.die 1).hstr) && cs.any (fun c => dieOfCluster c = 0) && cs.any (fun c => dieOfCluster c = 1)
  let die := if headroom s 0 < headroom s 1 then 1 else 0
  firstBy (fun c => [loadOf s c, c]) (if steer then cs.filter (fun c => dieOfCluster c = die) else cs)

/-- A team that may be placed next: the next of a grid, or one that exists and waits. -/
inductive Cand where
  | fresh (l : Launch)
  | waiting (t : Team) (l : Launch)

/-- Its key, launch and device. -/
def Cand.key : Cand → TeamKey
  | .fresh l => { lid := l.lid, spawned := false, num := l.nextTeam }
  | .waiting t _ => t.key
def Cand.launch : Cand → Launch
  | .fresh l => l
  | .waiting _ l => l

/-- The order of placement (R254, R278, R370). That R254 puts spawned teams first goes before R278's teams that wait to be placed again, so that
a spawned team never placed ranks ahead of a waiting grid team of its launch (the model's choice; log entry 91). -/
def Cand.rank (c : Cand) : List Nat :=
  let l := c.launch
  let place := match c with
    | .fresh _ => 2
    | .waiting t _ => if t.firstPlacement then 2 else if t.ahead then 0 else 1
  [l.prio, if c.key.spawned then 0 else 1, l.startedAt, l.lid, place, c.key.num]

/-- The teams of a device that wait to be placed. A team whose block read is held does not stand in the others' way. -/
def candidates (s : State) (v : Nat) : List Cand :=
  let fresh := (s.launches.filter (fun l => l.vd = v && l.phase == .started && decide (l.nextTeam < l.grid))).map Cand.fresh
  let old := (s.teams.filter (fun t => t.vd = v && t.cluster.isNone && !t.integrity && !(s.ms.wbs.any (fun w => w.thr.team == t.key)) && !isHeld s (.blockRead t.key))).filterMap (fun t =>
    (s.launch? t.key.lid).map (Cand.waiting t))
  old ++ fresh

/-- A thread that has not been activated (R64, R258). -/
def newThread (k : ThrKey) (v gen c : Nat) (consumer : Bool) (budget : Nat) (pc : Word) (args : Vector Word 4) : Thread :=
  { key := k, vd := v, consumer := consumer, budget := budget, detached := false, clus := c, st := .unstarted, pc := pc, cpos := 0,
    repa := false, repn := 0, repc := 0, repsd := 0, repsa := 0, repsb := 0, repsc := 0, arrv := 0, bpar := 0, aph := 0,
    pred := Vector.replicate 7 0, flags := Vector.replicate 12 0, twowed := 0, pfen := false, pfsc := 0, pfsrc := 0, pfdst := 0, pfid := 0, pfx := false,
    tcpos := 0, tact := false, tcause := 0, trpc := 0,
    v := (List.range 4).foldl (fun v i => vset v i (vget args i 0)) (Vector.replicate 64 0), created := false,
    lines := Vector.replicate 9 .absent, used := Vector.replicate 9 0, pins := Vector.replicate 9 false, gen := gen,
    idleSince := none, atHead := false, owed := false, landing := none, since := none, aged := none,
    barrier := none, releaseAt := none, yieldUntil := none, yieldHint := false, waitUntil := none, ereted := false, migTo := none,
    migSince := 0, haltReq := false, brkCode := none, due := [], undelivered := [], faultPending := false, retrying := false }

/-- The threads of a launched team (R42), and of a spawned one (R50, R51). -/
def gridThreads (l : Launch) (gen : Nat) (k : TeamKey) (c : Nat) : List Thread :=
  (List.range l.threads).map (fun n =>
    let consumer := decide (l.pcnt ≤ n)
    newThread { team := k, tid := n } l.vd gen c consumer (if consumer then l.clines else l.plines) (BitVec.ofNat 64 l.entry) (Vector.replicate 4 0))
def seedThreads (l : Launch) (t : Team) (c : Nat) : List Thread :=
  (List.range t.seeds.length).filterMap (fun n => (t.seeds[n]?).map (fun x =>
    newThread { team := t.key, tid := n } l.vd t.gen c true l.clines x.entry x.args))

/-- The first placement of a launch takes its record out of its queue; every cluster's instruction cache forgets the device
(R153, R253). -/
def leaveQueue (s : State) (l : Launch) : State :=
  let s := if l.nextTeam = 0 then s.modQueue l.vd l.j (fun q => { q with pend := q.pend.filter (· ≠ l.lid) }) else s
  { s with ms := { s.ms with code := s.ms.code.filter (fun c => c.vd ≠ l.vd) } }

/-- A team placed for the first time (R257), with its first checkpoint where it logs (R366). -/
def placeFirst (s : State) (l : Launch) (t : Team) (ts : List Thread) (c : Nat) : State :=
  let t := { t with cluster := some c, placed := s.now, firstPlacement := false, row := (freeRow s c (rowsOf s t.key)).getD 0 }
  let s := { s with teams := s.teams.filter (fun x => x.key != t.key) ++ [t], threads := s.threads ++ ts }
  if l.rbk then checkpoint s t.key else s

/-- A team of the grid placed for the first time. -/
def placeFresh (s : State) (l : Launch) (c : Nat) : State :=
  let k : TeamKey := { lid := l.lid, spawned := false, num := l.nextTeam }
  let s := (leaveQueue s l).modLaunch l.lid (fun l => { l with nextTeam := l.nextTeam + 1 })
  let gen := (s.vd l.vd).gen
  placeFirst s l (newTeam k l.vd gen l.threads l.pcnt [] s.now) (gridThreads l gen k c) c

/-! Teams that end (R48, R278). -/

/-- A team is over: its storage is free and its launch counts it (R48, R265). -/
def teamDone (s : State) (k : TeamKey) : State :=
  let s := { s with teams := s.teams.filter (fun t => t.key != k), threads := s.threads.filter (fun t => t.key.team != k),
                    ops := s.ops.filter (fun o => o.team != k) }
  s.modLaunch k.lid (fun l => if k.spawned then { l with spawnLive := l.spawnLive - 1 } else { l with doneTeams := l.doneTeams + 1 })

/-- A waiting team is ended (R278): its threads are Exited without write-back, it completes, and a record names its block. -/
def endTeam (s : State) (l : Launch) (k : TeamKey) (cause : Nat) : State :=
  let s := (s.members k).foldl (fun s t => exitThread s t.key) s
  contextEvent (teamDone s k) l.vd cause (frameAddr l k) 0 k.num

/-- TEAM_COMPLETE (R48): the last thread has exited and every operation its threads issued has completed. -/
def execTeamComplete (k : TeamKey) (s : State) : Out :=
  match s.team? k with
  | none => .next s
  | some t =>
    if t.cluster.isSome && (s.members k).isEmpty && !teamBusy s k && !t.integrity then .next (teamDone s k) else .next s

/-! Restoring a waiting team (R70, R238, R278, R368). -/

/-- The pairs of a recorded best list; an empty place ends it (R238). -/
def readBest (x : Nat) : List (Nat × Nat) :=
  ((List.range 4).map (fun r => (x / 2 ^ (48 * r) % 2 ^ 32, x / 2 ^ (48 * r + 32) % 2 ^ 14))).filter (fun p => p.1 ≠ 0xFFFFFFFF || p.2 ≠ 0x3FFF)

/-- The operands and resources of a recorded command: what it reads and writes of the team, and its captured values. -/
def recordedParts (l : Launch) (scr : Mem) (i : Instr) (w : Nat → Word) : Option (Nat × List Nat × List Nat × List Nat) :=
  let v := fun n => (w n).toNat
  match i with
  | .cpy _ => some (0, [], [], [v 3, v 4, v 5, v 6])
  | .tld f => some (1, [], (List.range (descCnt (v 5))).map (fun j => tileRes (f.b.toNat + j)),
      [v 3, v 4, v 5] ++ smoothCodes (l.slot f.slb.toNat) scr (v 5))
  | .hscan f => some (2, [hvRes f.b.toNat], [], [v 3, v 4])
  | _ => none

/-- The operation of command record n; none where the record is not a legal one (R238). It is the command that was recorded, where the model
holds its record: one it issued before whatever waits for it now (R127, R128), with the PC, CPOS and REPC its stochastic draws use (R94).
A command that has come with a live migration has these from the image (log entry 41), and one of which nothing is known takes its issuer's
present place (the model's choice; log entry 37). -/
def readCommand (s : State) (l : Launch) (t : Team) (c n : Nat) (w : Nat → Word) : Option EngOp :=
  let tid := bits (w 0) 41 32
  let flag := bits (w 0) 59 56
  if bits (w 0) 55 42 ≠ 0 || bits (w 0) 31 0 ≠ 0 || (12 ≤ flag && flag ≤ 14) then none
  else match (decodeWord (w 1)).bind (fun i => (recordedParts l t.scr i w).map (fun p => (i, p))) with
    | some (i, kind, rd, wr, vals) =>
      if kind ≠ bits (w 0) 62 60 then none
      else
        let old := s.ops.find? (fun o => o.team == t.key && o.recorded && o.phase == .held && o.tid = tid && o.word == w 1)
        let at_ := match s.thr? { team := t.key, tid := tid } with
          | some x => (x.pc, x.cpos, x.repActive, x.repc)
          | none => (0, 0, false, 0)
        let p := match old with
          | some o => (o.pc, o.cpos, o.repa, o.repc)
          | none => at_
        some { id := (old.map (·.id)).getD s.nextId, i := i, word := w 1, team := t.key, tid := tid, lanes := [tid], quarter := 0, owners := [tid],
               flag := if flag = 15 then none else some flag, cluster := c, ord := n, rd := rd, wr := wr, vals := vals, prog := (w 2).toNat,
               best := if kind = 2 then readBest ((w 5).toNat + (w 6).toNat * 2 ^ 64 + (w 7).toNat * 2 ^ 128) else [],
               enterCyc := (s.die (dieOfCluster c)).cyc, lastTw := (old.map (·.lastTw)).getD 0, phase := .queued, pc := p.1, cpos := p.2.1, repa := p.2.2.1,
               repc := p.2.2.2, recorded := true, apt := [] }
    | none => none

/-- One record of a restored block: its command continues from its cursor, or its issuer is Exited (R238). -/
def restoreCommand (l : Launch) (t : Team) (c : Nat) (m : Mem) (s : State) (n : Nat) : State :=
  let w := fun (i : Nat) => memWord m (768 + 64 * n + 8 * i)
  if !bit (w 0) 63 then s
  else match readCommand s l t c n w with
    | some o =>
      { s with nextId := s.nextId + 1, ops := s.ops.filter (fun (x : EngOp) => x.id ≠ o.id) ++ [o] }
    | none =>
      let k : ThrKey := { team := t.key, tid := bits (w 0) 41 32 }
      let s := { s with ops := s.ops.filter (fun (x : EngOp) => !(x.team == t.key && x.recorded && x.phase == OpPhase.held && x.tid = k.tid && x.word == w 1)) }
      match s.thr? k with
      | some x => if x.st == ThreadState.exited then s else contextEvent (exitThread s k) t.vd 0x31 (frameAddr l t.key + 768 + 64 * n) k.tid k.team.num
      | none => s

/-- The rollback log of a restored team as its snapshot frame holds it (R368). -/
def readSnap (s : State) (l : Launch) (t : Team) (c : Nat) : DevRead ⊕ State × SnapLog :=
  let (a, _) := snapAddr l t.key
  match devRead s (.cluster c) t.vd a 64 with
  | .ok s m =>
    let w := memWord m 0
    (match devRead s (.cluster c) t.vd (a + 64) (4 * bits w 31 0) with
      | .ok s o =>
        let x : SnapLog :=
          { nlog := bits w 31 0, inel := bit w 32, rbn := bits w 41 40, icnt := (memWord m 8).toNat,
            logged := (List.range (bits w 31 0)).map (fun i => memNat o (4 * i) 4 / 64), unformed := (t.snap.getD SnapLog.empty).unformed }
        .inr (s, x)
      | r => .inl r)
  | r => .inl r

/-- A waiting team whose block has been read takes its place on a cluster (R278); its phases that had met the test of R45 meet it again. -/
def restoreTeam (s : State) (l : Launch) (t : Team) (c : Nat) (m : Mem) (snap : Option SnapLog) : State :=
  let t := { loadBlock t l m with gen := (s.vd t.vd).gen, cluster := some c, placed := s.now, ahead := false, snap := snap, integrity := false, lastEng := none,
                                  row := (freeRow s c (rowsOf s t.key)).getD 0 }
  let s := s.modTeam t.key (fun _ => t)
  let here := fun (x : Thread) => x.key.team == t.key && !x.detached && x.st != .migrating && x.st != .exited
  let s := { s with threads := s.threads.map (fun x => if here x then { x with clus := c } else x) }
  (List.range 16).foldl (fun s b => noteMet s t.key b) ((List.range 32).foldl (restoreCommand l t c m) s)

/-- The read of a waiting team's block for a cluster, with the fates of R278. -/
def placeWaiting (s : State) (l : Launch) (t : Team) (c : Nat) : State :=
  let a := frameAddr l t.key
  let stop := fun (r : DevRead) => match r with
    | .fault e x =>
      let info : TrapInfo := { cause := 0, detail := 0, addr := x, wr := false, src := 4, rp := 0, rc := 0, repa := false, repc := 0 }
      holdFault s t.vd (.blockRead t.key) info 0 t.key.num e
    | .gone _ => endTeam s l t.key 0x32
    | .poison s _ => endTeam s l t.key 0x1C
    | .ok s _ => s
  match devRead s (.cluster c) t.vd a (blockOf l t.key) with
  | .ok s m =>
    if bits (memWord m 96) 31 0 ≠ (s.vd t.vd).gen then endTeam s l t.key 0x31
    else if !l.rbk then restoreTeam s l t c m none
    else match readSnap s l t c with
      | .inl r => stop r
      | .inr (s, x) => restoreTeam s l t c m (some x)
  | r => stop r

/-! Seed bins that come back (R49, R61). -/

/-- A written bin record of a device goes back to an empty bin of the lowest cluster of its share that has one (log entry 28). -/
def restoreBin (s : State) (v : Nat) : Option State :=
  match s.launches.find? (fun l => l.vd = v && !l.savedBins.isEmpty), (shareOf s v).find? (fun c => decide ((s.cluster c).bins.length < 16)) with
  | some l, some c =>
    (match l.savedBins, (List.range 16).find? (fun b => (look b (s.cluster c).bins).isNone) with
      | n :: rest, some b =>
        if isHeld s (.binRead l.lid n) || s.ms.wbs.any (fun w => w.line = 2 ^ 20 + n && w.thr.team.lid = l.lid) then none
        else
          let a := l.ctx + n * 1344
          let drop := fun (s : State) => s.modLaunch l.lid (fun l => { l with savedBins := rest })
          (match devRead s (.cluster c) v a 1344 with
            | .fault e x =>
              let info : TrapInfo := { cause := 0, detail := 0, addr := x, wr := false, src := 4, rp := 0, rc := 0, repa := false, repc := 0 }
              some (holdFault s v (.binRead l.lid n) info 0 0 e)
            | .gone x => some (contextEvent (drop s) v 0x32 x 0 0)
            | .poison s x => some (contextEvent (drop s) v 0x1C x 0 0)
            | .ok s m =>
              let seed := fun (i : Nat) => ({ entry := memWord m (64 + 40 * i), args := (Vector.range 4).map (fun j => memWord m (72 + 40 * i + 8 * j)) } : Seed)
              let bin : Bin := { vd := v, lid := l.lid, entry := memWord m 0, seeds := (List.range (min 32 (memNat m 16 2))).map seed,
                                 dueCyc := (s.die (dieOfCluster c)).cyc + memNat m 18 2, held := false }
              some ((drop s).modCluster c (fun x => { x with bins := put b bin x.bins })))
      | _, _ => none)
  | _, _ => none

/-- TEAM_PLACEMENT (R254 to R257, R278): the next team of a running device is placed, or its written bins come back first. -/
def execTeamPlacement (v : Nat) (s : State) : Out :=
  if s.power != .on || !(s.vd v).runs then .next s
  else match restoreBin s v with
    | some s => .next s
    | none =>
      match firstBy Cand.rank (candidates s v) with
      | none => .next s
      | some x => match chooseCluster s v x.key with
        | none => .next s
        | some c => match x with
          | .fresh l => .next (placeFresh s l c)
          | .waiting t l => .next (if t.firstPlacement then placeFirst s l t (seedThreads l t c) c else placeWaiting s l t c)

/-! Spawned teams (R50, R62). -/

/-- SEED_BIN_TIMER (R50): the timer of a bin has reached zero, or a full bin has been restored; waiting spawners retry. -/
def execSeedBinTimer (cluster bin : Nat) (s : State) : Out :=
  match look bin (s.cluster cluster).bins with
  | some b =>
    if s.power == .on && !b.held && binDue s cluster b && (s.cluster cluster).preempting != some b.vd then
      .next (retrySpawners (releaseBin s cluster bin) cluster)
    else .next s
  | none => .next s

/-- SPAWNED_TEAM_RELEASE (R62): the frame a held bin waits for is free. -/
def execSpawnedTeamRelease (cluster bin : Nat) (s : State) : Out :=
  match look bin (s.cluster cluster).bins with
  | some b =>
    if s.power == .on && b.held && (s.cluster cluster).preempting != some b.vd then .next (retrySpawners (releaseBin s cluster bin) cluster)
    else .next s
  | none => .next s

/-! Landing slots (R52, R53). -/

/-- Waiting migrants toward a die, of running devices. -/
def migrants (s : State) (die : Nat) : List Thread :=
  s.threads.filter (fun t => t.st == .migrating && t.migTo == some die && (s.vd t.vd).runs)

/-- Their order: age within priority (R52). -/
def migrantKey (s : State) (t : Thread) : List Nat :=
  [match s.launch? t.key.team.lid with
    | some l => l.prio
    | none => 7, t.migSince, t.key.team.lid, t.key.team.num, t.key.tid]

/-- Whether a migrant's write-back is complete, so that it waits for a slot (R52, R79). -/
def writtenBack (s : State) (t : Thread) : Bool :=
  t.landing.isNone && (heldLines t).isEmpty && !s.busy t.key && match s.launch? t.key.team.lid with
    | some _ => !slotBusy s t
    | none => true

/-- A migrant begins its write-back and leaves its old landing slot (R52). -/
def leaveCluster (s : State) (t : Thread) : State :=
  let s := evictThread s t.key
  let s := match t.landing with
    | some j => s.modCluster t.clus (fun c => { c with landing := drop j c.landing })
    | none => s
  s.modThr t.key (fun t => { t with landing := none, pins := Vector.replicate 9 false })

/-- The cluster with the most free landing slots, and its lowest free slot (R52). -/
def landingPlace (s : State) (v die : Nat) : Option (Nat × Nat) :=
  let cs := (shareOf s v).filter (fun c => dieOfCluster c = die && (s.cluster c).landing.length < 32)
  match firstBy (fun c => [(s.cluster c).landing.length, c]) cs with
  | none => none
  | some c => ((List.range 32).find? (fun j => (look j (s.cluster c).landing).isNone)).map (fun j => (c, j))

/-- A migrant on its new core. What is left of a yield goes on there, counted in the cycles of the new die (the model's choice; log
entry 68). -/
def landThread (s : State) (c j : Nat) (t : Thread) : Thread :=
  let left := t.yieldUntil.map (fun n => if t.yieldHint then (s.die (dieOfCluster c)).cyc + (n - (s.die (dieOfCluster t.clus)).cyc) else n)
  { t with clus := c, landing := some j, detached := true, migTo := none, yieldUntil := left, st := if t.haltReq then .halted else .runnable }

/-- LANDING_SLOT_GRANT (R52, R278): a migrant whose operations have completed writes its lines back; one that has is granted a
slot, in age order within priority, and goes on there, detached. Where the share of the first in order has no free slot on the die, those
behind it wait too, of whatever device (the model's choice; log entry 72). -/
def execLandingSlotGrant (die : Nat) (s : State) : Out :=
  if s.power != .on then .next s
  else
    let ms := migrants s die
    match ms.find? (fun t => !s.busy t.key && (t.landing.isSome || !(heldLines t).isEmpty)) with
    | some t => .next (leaveCluster s t)
    | none =>
      match firstBy (migrantKey s) (ms.filter (writtenBack s)) with
      | none => .next s
      | some t => match landingPlace s t.vd die with
        | none => .next s
        | some (c, j) =>
          let s := s.modCluster c (fun x => { x with landing := put j t.key x.landing })
          .next (s.modThr t.key (landThread s c j))

/-! Completion (R265, R385). -/

/-- Whether every team of a launch has completed, and no seed of it waits (R48). -/
def allDone (s : State) (l : Launch) : Bool :=
  l.phase == .started && l.nextTeam = l.grid && l.doneTeams = l.grid && l.spawnLive = 0 && l.savedBins.isEmpty &&
    !(s.clusters.any (fun p => p.2.bins.any (fun b => b.2.lid = l.lid)))

/-- Whether an aperture store of a launch has yet to complete at its destination. -/
def aperturePending (s : State) (lid : Nat) : Bool := s.ms.outs.any (fun o => o.thr.team.lid = lid && !o.abandoned)

/-- The launch reaches step 3 with no increment to acknowledge before a time. -/
def toCounting (s : State) (lid tw : Nat) : State := s.modLaunch lid (fun l => { l with phase := .counting, maxTw := tw })

/-- The increment of the completion counter is given up (R265 step 2). -/
def countFails (s : State) (l : Launch) : State := toCounting (rejectKick s l.vd l.j 0x0A l.addr true) l.lid 0

/-- The increment of a counter behind a system aperture (R199): carried to a PCI Express port or over Furrow, and acknowledged from there; a
fault where the aperture does not allow it. -/
def countAway (s : State) (l : Launch) (a : Nat) (x : Xlat) : State :=
  if (pcieDpa x.dpa || furrowDpa x.dpa) && apertureOk s l.vd x.dpa .atomic then
    let k : ThrKey := { team := { lid := l.lid, spawned := false, num := 0 }, tid := 0 }
    let s := watchExternal s l.vd x.gpa 8 true true 0 6 0 0 s.now
    toCounting (sendRequest s { outRequest s k l.vd a x.gpa x.dpa with launch := some l.lid }) l.lid 0
  else countFails s l

/-- LAUNCH_COMPLETE (R265 steps 1 and 2): the launch's writes are visible, and the counter is incremented: that of QDONEA as the completion
found it when it reached step 2. -/
def execLaunchComplete (lid : Nat) (s : State) : Out :=
  match s.launch? lid with
  | none => .next s
  | some l =>
    let a := l.qdone.getD (bits ((s.vd l.vd).queue l.j).qdonea 47 3 * 8)
    if s.power != .on || !allDone s l || s.now < l.maxTw + 4 || aperturePending s lid || isHeld s (.completion lid) then .next s
    else if a = 0 then .next (toCounting s lid 0)
    else
    let s := (s.modLaunch lid (fun l => { l with qdone := some a })).walked .iod l.vd a
    match translate s .iod l.vd a .write with
      | .error e =>
        if (xCause s e).2 then .next (holdFault s l.vd (.completion lid) (iodInfo 0 a a true) 0 0 e) else .next (countFails s l)
      | .ok x =>
        if endpointHeld s l.vd x.dpa then .next s
        else if !hbmDpa x.dpa then .next (countAway s l a x)
        else if writeHolds s l.vd x.dpa x.repl then .next s
        else
          let s := decodeRange s x.dpa 8
          if s.poisoned x.dpa then .next (countFails (watchExternal s l.vd x.gpa 8 true true 0 6 0 0 s.now) l)
          else
            let old := leNat ((List.range 8).map (fun i => newestByte s (x.dpa + i)))
            let (tw, s) := if x.repl then assignTwRepl s (x.dpa / 256) else assignTw s (x.dpa / 256)
            let s := s.markDirty l.vd x.dpa
            let s := if x.repl then s.markDirty l.vd (x.dpa + replicaOffset) else s
            let s := watchExternal s l.vd x.gpa 8 true true 0 6 0 0 tw
            let s := s.addVersion tw (bothCopies x.repl (cellsAt x.dpa (leBytes 8 ((old + 1) % 2 ^ 64)))) [] none []
            .next (toCounting s lid tw)

/-- QDONE_ACK (R265 step 3, R274): the increment is acknowledged and visible; QSEQ advances, the interrupt is posted, and the
launch is over with its must-save set (R385). -/
def execQdoneAck (lid : Nat) (s : State) : Out :=
  match s.launch? lid with
  | none => .next s
  | some l =>
    if s.power != .on || l.phase != .counting || s.now < l.maxTw || s.ms.outs.any (fun o => o.launch == some lid) then .next s
    else
      let q := (s.vd l.vd).queue l.j
      let s := s.modQueue l.vd l.j (fun q => { q with completed := q.completed + 1 })
      let s := if q.irqc then s.announce l.vd (l.j + 1) q.ivec.toNat 0 else s
      .next (withdraw { s with launches := s.launches.filter (fun x => x.lid ≠ lid) } lid l.vd)

end Sys2Proof.Machine
end

