-- ==== Sys2Proof/Machine/Release.lean ====
section
/-!
DEFINITION. Releasing held faults and invalidating translations (R271, R272, R280, R333, R334, R336): TINV, S2INV, FQTAIL, Pelelo's
releases, and CNTVAL.
-/

namespace Sys2Proof.Machine

/-! Aborts (R334, R336, R352). -/

/-- The trap a held access of a member is ended with: translation-abort with DETAIL, or another cause with none. -/
def abortInfo (i : TrapInfo) (cause detail : Nat) : TrapInfo := { i with cause := cause, detail := if cause = 0x1B then detail else 0 }

/-- A held fault is given up: what waits on it ends as the table of R334 says for its engine. -/
def abortHeld (s : State) (id cause detail : Nat) : State :=
  match s.ms.held.find? (fun h => h.id == id) with
  | none => s
  | some h =>
    let s := { s with ms := { s.ms with held := s.ms.held.filter (fun x => x.id != id) } }
    let i := abortInfo h.info cause detail
    match h.what with
    | .member k | .musts k => raise s k i
    | .vectorLine k _ => (match s.thr? k with
        | some t => if cause = 0x1C then lineLost s t cause else raise s k { i with rp := t.pc, rc := t.cpos }
        | none => s)
    | .members ks | .fetch ks => ks.foldl (fun s k => raise s k i) s
    | .controlLine k => (match s.thr? k with
        | some t => if cause = 0x1C then lineLost s t cause else exitThread (s.modThr k (fun t => { t with faultPending := false })) k
        | none => s)
    | .command op => s.modOp op (fun o => { o with phase := .failed cause h.info.addr h.info.wr, apt := [] })
    | .kickRead v j => (match ((s.vd v).queue j).kicks with
        | x :: _ =>
          let s := rejectKick (popKick s v j) v j 0x03 x.addr true
          handleKicks v j ((s.vd v).queue j).kicks.length s
        | [] => s)
    | .dependence v j _ => (match headLaunch s v j with
        | some l => abandon s l 0x0A
        | none => s)
    | .mustOfLaunch lid => (match s.launch? lid with
        | some l => abandon s l 0x09
        | none => s)
    | .completion lid => (match s.launch? lid with
        | some l => countFails s l
        | none => s)
    | .writeBack w => (match s.ms.wbs.find? (fun x => x.id = w) with
        | some x => wbLost s x
        | none => s)
    | .blockRead k => (match s.launch? k.lid with
        | some l => endTeam s l k (if cause = 0x1C then 0x1C else 0x32)
        | none => s)
    | .binRead lid n => (match s.launch? lid with
        | some l => contextEvent (s.modLaunch lid (fun l => { l with savedBins := l.savedBins.filter (· ≠ n) })) l.vd (if cause = 0x1C then 0x1C else 0x32) (l.ctx + n * 1344) 0 0
        | none => s)
    | .fqWrite v => (match (s.vd v).fqWait with
        | w :: rest => fqFails (s.modVd v (fun d => { d with fqWait := rest })) v w.post
        | [] => s)
    | .outside _ => s

/-- What memory-side dies held in time fault is tried again (R351). -/
def retryTimeHeld (s : State) : State := ((s.ms.held.filter (fun h => h.info.cause = 0)).map (·.id)).foldl retryHeld s

/-! The fault queue (R272, R333). -/

/-- The record first in line meets a page held in the second tier, which is to be promoted (R114, R272, R334). -/
def fqHolds (s : State) (v : Nat) : State :=
  let a := (s.vd v).fqAddr
  match stage2 s v a .write with
  | .error (.tier g h) => if plotGone s h then s else holdFault s v (.fqWrite v) (iodInfo 0 0 a true) 0 0 (.tier g h)
  | _ => s

/-- Records that wait for their queue are written in order, each once there is room and its page can take it; with no storage left they
go to Pelelo (R272). -/
def pumpFq (v : Nat) : Nat → State → State
  | 0, s => s
  | n + 1, s =>
    let d := s.vd v
    match d.fqWait with
    | [] => s
    | w :: rest =>
      let popped := s.modVd v (fun d => { d with fqWait := rest })
      if d.fqSize = 0 then pumpFq v n (popped.toStream v w.post)
      else if (d.fqhead - d.fqtail).toNat = d.fqSize || isHeld s (.fqWrite v) then s
      else
        let s' := fqWrite popped v w.post w.held
        if rest.length < (s'.vd v).fqWait.length then fqHolds s v else pumpFq v n s'

/-- The waiting records of every device. -/
def pumpFqs (s : State) : State :=
  ((s.vds.filter (fun p => !p.2.fqWait.isEmpty)).map (fun p => (p.1, p.2.fqWait.length))).foldl (fun s p => pumpFq p.1 p.2 s) s

/-- Where the record at an index lies. -/
def recordAt (d : VDev) (i : Nat) : Nat := bits d.fqcfg 47 12 * 4096 + 32 * (i % d.fqSize)

/-- ABT of the record at an index: read from the queue; a word that cannot be read, or of a poisoned sector, has none (log entry 31). -/
def abtAt (s : State) (v i : Nat) : Bool :=
  match stage2 s v (recordAt (s.vd v) i) .read with
  | .ok l => hbmDpa l.addr && !s.poisoned l.addr && bit (s.dpaWord l.addr) 31
  | .error _ => false

/-- Whether a home in time fault holds that read (R351), and what the read leaves (R345 to R347). -/
def abtHeld (s : State) (v i : Nat) : Bool :=
  match stage2 s v (recordAt (s.vd v) i) .read with
  | .ok l => homeHolds s l.addr
  | .error (.homeHolds _) => true
  | .error _ => false
def abtRead (s : State) (v i : Nat) : State :=
  let s := s.walkedGpa v (recordAt (s.vd v) i)
  match stage2 s v (recordAt (s.vd v) i) .read with
  | .ok l => decodeSector s (l.addr / 64)
  | .error _ => s

/-- One released record: its held fault is retried, or aborted with DETAIL 1. -/
def releaseRecord (s : State) (v : Nat) (h : Held) (i : Nat) : State :=
  let s := abtRead s v i
  if abtAt s v i then abortHeld s h.id 0x1B 1 else retryHeld s h.id

/-- The held faults of a device whose records lie from its tail up to a new one. -/
def releasedBy (s : State) (v : Nat) (new : BitVec 32) : List (Held × Nat) :=
  let d := s.vd v
  s.ms.held.filterMap (fun (h : Held) => match h.index with
    | some i => if h.vd = v && (BitVec.ofNat 32 i - d.fqtail).toNat < (new - d.fqtail).toNat then some (h, i) else none
    | none => none)

/-- A new tail: the records up to it are released in order, once their homes serve the reads (R351). -/
def takeTail (s : State) (v : Nat) (new : BitVec 32) : State :=
  let due := releasedBy s v new
  if due.any (fun p => abtHeld s v p.2) then s.modVd v (fun d => { d with fqtailDue := some new })
  else
    let s := due.foldl (fun s p => releaseRecord s v p.1 p.2) s
    let s := s.modVd v (fun d => { d with fqtail := new, fqtailDue := none })
    pumpFq v (s.vd v).fqWait.length s

/-- The new tails that waited. -/
def settleTails (s : State) : State :=
  s.vds.foldl (fun s p => match p.2.fqtailDue with
    | some new => takeTail s p.1 new
    | none => s) s

/-- FQTAIL (R333): the records from the old tail up to the new one are released; one past FQHEAD is ignored. -/
def execFqtail (v : Nat) (x : Word) (s : State) : Out :=
  let d := s.vd v
  let new := BitVec.ofNat 32 (bits x 31 0)
  if d.state = 0 || (d.fqhead - d.fqtail).toNat < (new - d.fqtail).toNat then .next s
  else .next (takeTail s v new)

/-- Whether Pelelo releases a held fault: a stage-2 fault, or a stage-1 fault routed to it (R272, R334). -/
def peleloReleases (s : State) (h : Held) : Bool :=
  h.info.cause = 0x33 || (h.info.cause = 0x30 && h.index.isNone && !((s.vd h.vd).fqWait.any (fun w => w.held == some h.id)))

/-- STAGE2_FAULT_RELEASE (R333, R334): Pelelo has the held operation retried, or declares the address unmappable. -/
def execStage2FaultRelease (id : Nat) (retry : Bool) (s : State) : Out :=
  match s.ms.held.find? (fun h => h.id == id) with
  | some h => if peleloReleases s h then .next (if retry then retryHeld s id else abortHeld s id 0x1B 2) else .next s
  | none => .next s

/-! Invalidations (R271, R386). -/

/-- Whether an invalidation of page `p`, or of everything, covers a virtual page. -/
def coversPage (p : Option Nat) (page : Nat) : Bool := match p with
  | some q => page == q
  | none => true

/-- Whether the invalidation drops a cached entry of its device: the page it covers, or a page of a 64 KiB group it touches. -/
def drops1 (p : Option Nat) (e : TlbEntry) : Bool :=
  coversPage p e.vpage || (e.cont1 && coversPage (p.map (· / 16)) (e.vpage / 16))

/-- TINV (R271). Bits [47:12] of a write that names everything are not among the bits that must be zero: they name no page then (the model's
choice; log entry 92). -/
def execTinv (v : Nat) (x : Word) (s : State) : Out :=
  let d := s.vd v
  if d.state = 0 then .next s
  else if d.tinvBusy then .next (s.modVd v (fun d => { d with tinvOvf := true }))
  else if bits x 63 48 ≠ 0 || bits x 11 8 ≠ 0 || bits x 5 0 ≠ 0 || 2 ≤ bits x 7 6 then .next s
  else
    let page := if bits x 7 6 = 0 then some (bits x 47 12) else none
    let gone := (s.ms.tlb.filter (fun e => e.vd = v && drops1 page e)).map (·.vpage)
    let s := { s with ms := { s.ms with tlb := s.ms.tlb.filter (fun e => !(e.vd = v && drops1 page e)) } }
    .next (s.modVd v (fun d => { d with tinvBusy := true, tinvPage := page, tinvMark := s.nextId, tinvGone := gone }))

/-- TINV_COMPLETE (R271, R386): every access translated through a dropped entry has performed. -/
def execTinvComplete (v : Nat) (s : State) : Out :=
  let d := s.vd v
  let covered := fun (gva : Nat) => coversPage d.tinvPage (gva / 4096) || d.tinvGone.contains (gva / 4096)
  let waits := s.ms.reqs.any (fun q => q.vd = v && q.id < d.tinvMark && q.phase == .issued && covered q.gva) ||
    s.ms.outs.any (fun o => o.vd = v && o.id < d.tinvMark && o.op.isSome && !o.abandoned && covered o.gva)
  if !d.tinvBusy || waits || againHeld s v (fun page _ => coversPage d.tinvPage page) then .next s
  else
    let s := recordAgain s v (fun page _ => coversPage d.tinvPage page)
    .next (s.modVd v (fun d => { d with tinvBusy := false, tinvGone := [] }))

/-- Whether a guest-physical range touches unit `n` of a size (page, 64 KiB group), its length 0 meaning all. -/
def inRange (size base len n : Nat) : Bool :=
  len = 0 || (decide (base / size ≤ n) && decide (n < (base + len + size - 1) / size))

/-- Whether an invalidation of a guest-physical range drops a cached entry of its device. -/
def drops2 (base len : Nat) (e : TlbEntry) : Bool :=
  inRange 4096 base len e.gpage || (e.cont2 && inRange 65536 base len (e.gpage / 16))

/-- Stage-2 translations of a guest-physical range dropped. -/
def dropStage2 (s : State) (v base len : Nat) : State :=
  { s with ms := { s.ms with tlb := s.ms.tlb.filter (fun e => !(e.vd = v && drops2 base len e)) } }

/-- The guest-physical pages of the entries it drops. -/
def goneStage2 (s : State) (v base len : Nat) : List Nat :=
  (s.ms.tlb.filter (fun e => e.vd = v && drops2 base len e)).map (·.gpage)

/-- Pelelo takes the next entry of the command ring (R291), or one that it took before and that has waited. -/
def takeCommand (s : State) : State :=
  if s.mg.taken then { s with mg := { s.mg with taken := false } }
  else { s with mg := { s.mg with mcqhead := (s.mg.mcqhead + 1) % 2 ^ s.mg.mcqsz } }

/-- Whether there is a command to take: the ring holds one, or one taken before is now executed. -/
def canTake (s : State) : Bool := s.mg.taken || s.mg.mcqhead != s.mg.mcqtail

/-- The device a command names (R291); HUQUERY and HUCLEAR name none. -/
def commandVd : Instr → Option Nat
  | .create v _ | .start v | .suspend v | .resume v | .migout v _ | .migstop v | .migdone v _ | .migabort v | .migin v _ _ | .kill v
  | .destroy v | .setf v _ _ | .s2inv v _ _ | .dbswap v | .attest v _ | .hurestore _ _ v | .mgmtUndefinedOpc _ v => some v
  | _ => none

/-- Whether a command of a device is in execution: a stop, a kill-and-drain, or an invalidation that waits (R269). -/
def commandRuns (s : State) (v : Nat) : Bool := (s.vd v).stopTo.isSome || s.mg.s2invs.any (fun w => w.1 = v)

/-- Whether a command copies memory to or from homes of which one in time fault serves nothing (R351). MIGDONE waits for what such a fault
holds of its image, too. -/
def commandHeld (s : State) : Instr → Bool
  | .migout _ _ | .dbswap _ | .hurestore _ _ _ => anyHolds s
  | .migdone v _ => anyHolds s || s.mg.inbox.any (fun x => x.1 = v)
  | _ => false

/-- Whether a command waits its turn: behind one of its device in execution, or behind those of its device that wait (R269). -/
def turnWaits (s : State) (i : Instr) : Bool :=
  commandHeld s i || match commandVd i with
    | none => false
    | some v => commandRuns s v || (!s.mg.taken && s.mg.cmds.any (fun j => commandVd j == some v))

/-- A command taken and kept until its turn. -/
def keepCommand (s : State) (i : Instr) : State :=
  let s := takeCommand s
  { s with mg := { s.mg with cmds := s.mg.cmds ++ [i] } }

/-- A management command (R291): taken from the ring, and executed in the order of its device's commands (R269). Before READY it completes
with STATUS 4 (R305); none is taken once the supply is lost (R379). `f` gives the status, none while the command is in execution, and the
state. -/
def command (i : Instr) (opc v : Nat) (s : State) (f : State → Option Nat × State) : Out :=
  if s.power != .on || !canTake s then .next s
  else if !s.mg.ready then .next (mgmtDone (takeCommand s) opc v 4)
  else if turnWaits s i then .next (keepCommand s i)
  else
    let r := f (takeCommand s)
    match r.1 with
    | some n => .next (mgmtDone r.2 opc v n)
    | none => .next r.2

/-- A command whose whole effect is made at once. -/
def mgmt (i : Instr) (opc v : Nat) (s : State) (f : State → Nat × State) : Out :=
  command i opc v s (fun s => (some (f s).1, (f s).2))

/-- Whether an access of a device that was made before a mark, in a guest-physical range or through a dropped entry, has yet to
perform, or the walk of a page to be recorded again is held (R351, R386). -/
def s2Waits (s : State) (v base len mark : Nat) (gone : List Nat) : Bool :=
  let covered := fun (gpa : Nat) => inRange 4096 base len (gpa / 4096) || gone.contains (gpa / 4096)
  againHeld s v (fun _ gpage => inRange 4096 base len gpage) ||
    s.ms.reqs.any (fun q => q.vd = v && q.id < mark && q.phase == .issued && covered q.gpa) ||
    s.ms.outs.any (fun o => o.vd = v && o.id < mark && o.op.isSome && !o.abandoned && covered o.gpa)

/-- S2INV's effect: the translations dropped, the pages of admitted items recorded again (R386). -/
def s2Drop (s : State) (v base len : Nat) : State :=
  recordAgain (dropStage2 s v base len) v (fun _ gpage => inRange 4096 base len gpage)

/-- S2INV (R271, R291): complete once the accesses translated through a dropped entry have performed; until then it is in execution. -/
def execS2inv (v : Nat) (base len : Word) (s : State) : Out :=
  let b := base.toNat
  let n := len.toNat
  command (.s2inv v base len) 0x0D v s (fun s =>
    let st := (s.vd v).state
    let gone := goneStage2 s v b n
    if st = 0 || 6 < st then (some 1, s)
    else if s2Waits s v b n s.nextId gone then
      let s := dropStage2 s v b n
      (none, { s with mg := { s.mg with s2invs := s.mg.s2invs ++ [(v, base, len, s.nextId, gone)] } })
    else (some 0, s2Drop s v b n))

/-- The invalidations in execution whose accesses have performed complete (R271). -/
def settleS2 (s : State) : State :=
  s.mg.s2invs.foldl (fun s w =>
    if s.power != .on || s2Waits s w.1 w.2.1.toNat w.2.2.1.toNat w.2.2.2.1 w.2.2.2.2 then s
    else mgmtDone (s2Drop { s with mg := { s.mg with s2invs := s.mg.s2invs.erase w } } w.1 w.2.1.toNat w.2.2.1.toNat) 0x0D w.1 0) s

/-- The first of some waiting commands whose turn has come: none of its device waits before it, `passed` being the devices of those that
do (R269). -/
def firstDue (s : State) : List Nat → List Instr → Option Instr
  | _, [] => none
  | passed, i :: rest =>
    if commandHeld s i || (commandVd i).any (fun v => passed.contains v || commandRuns s v) then firstDue s ((commandVd i).toList ++ passed) rest
    else some i
def commandDue (s : State) : Option Instr := firstDue s [] s.mg.cmds

/-! Counters (R280, R303). -/

/-- A package-wide event of group 63: total power, the dies' powers, the highest junction temperature; the first and the last are
measurements the manual gives no other place (log entry 10). -/
def packageCount (s : State) (e : Nat) : Word :=
  match e with
  | 1 => BitVec.ofNat 64 (s.die 0).pmeas
  | 2 => BitVec.ofNat 64 (s.die 1).pmeas
  | _ => Config.freeWord s.free

/-- CNTVAL (R280): the selected counter, or 0 and CNTDEN where its group is not allowed. -/
def execCntvalRead (v : Nat) (s : State) : Out :=
  let d := s.vd v
  let e := d.cntsel.toNat
  if d.state = 0 then .next s
  else if !bit (d.word 13) (e / 16) then .next (s.modVd v (fun d => { d with cntval := 0, cntden := true }))
  else
    let x := if e / 16 = 63 then (if e % 16 < 4 then packageCount s (e % 16) else 0) else BitVec.ofNat 64 ((look e d.counts).getD 0)
    .next (s.modVd v (fun d => { d with cntval := x }))

end Sys2Proof.Machine
end

