-- ==== Sys2Proof/Machine/Tier.lean ====
section
/-!
DEFINITION. Plots and the tier engine (R132, R283 to R286, R289, R352, R353), and the accesses of the host and of other packages to
a device's memory, which may wait for a plot (R296, R302).
-/

namespace Sys2Proof.Machine

/-! Finding plots. -/

/-- The plot of a device at a guest-physical address (R285). -/
def plotAt (s : State) (v gpa : Nat) : Option (Nat × Plot) :=
  s.mg.plots.find? (fun p => p.2.mappers.any (fun m => m.1 = v) && look v p.2.gpas == some (gpa / 65536 * 65536))

/-- A device's TIERST. -/
def tierStatus (s : State) (v st : Nat) (req : Option (Nat × Bool)) : State :=
  s.modVd v (fun d => { d with tierst := BitVec.ofNat 2 st, tierreq := req })

/-! Requests (R285, R353, R386). -/

/-- How a request stands: done at once, pending, or refused. -/
inductive Asked where
  | done | pending | refused
  deriving DecidableEq, Repr

/-- A plot enters the eviction queue. -/
def queueEviction (s : State) (h : Nat) : State :=
  let s := s.setPstate h 1
  { s with mg := { s.mg with evictions := s.mg.evictions.filter (· ≠ h) ++ [h] } }

/-- The private plots of a device on their way to the second tier: queued evictions, withdrawn ones among them, and the active one. -/
def leaving (s : State) (v : Nat) : Nat :=
  (s.mg.plots.filter (fun p => !p.2.shared && p.2.mappers.any (fun m => m.1 = v) && (s.mg.evictions.contains p.1 || p.2.state = 2))).length

/-- Whether one more plot in the second tier would exceed the quota of a mapper (R285), those on their way counted; a shared plot is charged
to none (R286). It holds for Pelelo's own requests too (the model's choice; log entry 90). -/
def tierFull (s : State) (p : Plot) : Bool :=
  !p.shared && p.mappers.any (fun m => bits ((s.vd m.1).word 5) 63 32 < bits ((s.vd m.1).word 6) 63 32 + leaving s m.1 + 1)

/-- An eviction request for a plot; `full`: the second tier's quota is reached. An eviction of it that was withdrawn and stands in the queue is
counted already. -/
def askEvict (s : State) (h : Nat) (p : Plot) (full : Bool) : Asked × State :=
  if pinned s p then (.refused, s)
  else match p.state with
    | 0 => if full && !s.mg.evictions.contains h then (.refused, s) else (.pending, queueEviction s h)
    | 1 | 2 => (.pending, s)
    | 3 => (.done, s)
    | 4 => (.pending, s.modPlot h (fun p => p.set 0 58 58 1))
    | _ => (.refused, s)

/-- A promotion request for a plot by a device. -/
def askPromote (s : State) (v h : Nat) (p : Plot) : Asked × State :=
  match p.state with
  | 0 => (.done, s)
  | 1 => (.done, requeueEviction s h)
  | 2 => if leavesHeld s p then (.pending, withdrawEviction s h) else (.done, releasePlot (withdrawEviction s h) h)
  | 3 => (match startPromotion s v h with
      | some s => (.pending, s)
      | none => (.refused, s))
  | 4 => (.pending, s)
  | _ => (.refused, s)

/-- TIERST after a request. -/
def answerAsk (v h : Nat) (evict : Bool) (r : Asked × State) : State :=
  match r.1 with
  | .done => tierStatus r.2 v 0 none
  | .pending => tierStatus r.2 v 1 (some (h, evict))
  | .refused => tierStatus r.2 v 2 none

/-- TIERREQ with x[1:0] = 1 (R285). -/
def execTierreqEvict (v : Nat) (x : Word) (s : State) : Out :=
  let d := s.vd v
  if d.state = 0 || bits x 1 0 ≠ 1 then .next s
  else match plotAt s v (bits x 47 16 * 65536) with
    | none => .next (tierStatus s v 2 none)
    | some (h, p) => .next (answerAsk v h true (askEvict s h p (tierFull s p)))

/-- TIERREQ with x[1:0] = 2 (R285). -/
def execTierreqPromote (v : Nat) (x : Word) (s : State) : Out :=
  if (s.vd v).state = 0 || bits x 1 0 ≠ 2 then .next s
  else match plotAt s v (bits x 47 16 * 65536) with
    | none => .next (tierStatus s v 2 none)
    | some (h, p) => .next (answerAsk v h false (askPromote s v h p))

/-- The plots a device maps, with the guest-physical address of each, in ascending address. -/
def plotsOf (s : State) (v : Nat) : List (Nat × Nat × Plot) :=
  let all := s.mg.plots.filterMap (fun p => if p.2.mappers.any (fun m => m.1 = v) then some (p.2.gpaIn v, p.1, p.2) else none)
  all.foldl (fun l x => l.filter (fun y => y.1 ≤ x.1) ++ x :: l.filter (fun y => x.1 < y.1)) []

/-- The plot that a destination pulls next in the background: the lowest one not pulled, while no other pull is under way (R289). -/
def nextPull (s : State) (v : Nat) : Option Nat :=
  let rest := (plotsOf s v).filter (fun x => x.2.2.remote)
  if rest.any (fun x => x.2.2.state = 4) then none else (rest.find? (fun x => x.2.2.state = 3)).map (fun x => x.2.1)

/-- A lost plot's leaves of one mapper are remapped to a new frame, which has been zeroed (R282, R352): the mapper leaves the list, USERS
decrements, and with the last mapper the entry is freed (R286). A device that held the plot in the second tier holds a frame of HBM for it
now. -/
def remapLost (s : State) (h : Nat) (p : Plot) (v frame : Nat) : State :=
  let s := (p.mappers.filter (fun m => m.1 = v)).foldl (fun s m => rewriteLeaves s m.2 false frame) (zeroFrame s frame)
  let s := { s with mg := { s.mg with freeFrames := s.mg.freeFrames.erase frame } }
  let s := if p.shared then s else s.modVd v (fun d =>
    let d := d.setField 6 31 0 (bits (d.word 6) 31 0 + 1)
    if p.state = 5 then d.setField 6 63 32 (bits (d.word 6) 63 32 - 1) else d)
  let ms := p.mappers.filter (fun m => m.1 != v)
  if ms.isEmpty then { s with mg := { s.mg with plots := s.mg.plots.filter (fun x => x.1 ≠ h) } }
  else s.modPlot h (fun p => { p.set 2 63 48 ms.length with mappers := ms, gpas := drop v p.gpas })

/-- A request of Pelelo for a plot (R285): it answers no TIERST. A plot still at a migration source is pulled in its turn (R289). A lost plot
is remapped, mapper by mapper, to frames of Pelelo's choice (R352). -/
def execPeleloPlotRequest (h : Nat) (ask : PlotAsk) (s : State) : Out :=
  match look h s.mg.plots with
  | none => .next s
  | some p =>
    let first := (p.mappers.map (·.1)).headD 0
    match ask with
    | .evict => .next (askEvict s h p (tierFull s p)).2
    | .promote => if p.remote && nextPull s first != some h then .next s else .next (askPromote s first h p).2
    | .remap v frame =>
      if s.power != .on || !plotGone s h || !p.mappers.any (fun m => m.1 = v) || !s.mg.freeFrames.contains frame || frameHeld s frame ||
          leavesHeld s p then .next s
      else .next (remapLost s h p v frame)

/-! Eviction (R285, R353). -/

/-- The first DPA of a plot's frame. -/
def Plot.base (p : Plot) : Nat := p.frame * 65536

/-- An eviction is given up for good: the plot is resident, the requester is refused, and Pelelo receives an event. -/
def refuseEviction (s : State) (h : Nat) : State :=
  let s := tierAnswer (s.setPstate h 0) h true 2
  { s with mg := { s.mg with evictions := s.mg.evictions.filter (· ≠ h) } }.event 0 7 h 0

/-- EVICTION_START (R285 steps 1 and 2): the plot at the head of the queue becomes tier-held, or is withdrawn where a sector of it is
poisoned or it has been pinned (R353, R386). -/
def execEvictionStart (h : Nat) (s : State) : Out :=
  match s.mg.evictions.head?, look h s.mg.plots with
  | some g, some p =>
    let busy := s.mg.plots.any (fun q => q.2.state = 2)
    if s.power != .on || g ≠ h || busy || s.now < p.notBefore || !p.requesters.isEmpty || !p.waiters.isEmpty || 1 < p.state || frameHeld s p.frame || leavesHeld s p then
      .next s
    else
      let s := decodeListed s p.base 65536
      if poisonIn s p.base 65536 || pinned s p then .next (refuseEviction s h)
      else
      let s := mapPlot (s.setPstate h 2) h true
      .next { s with ms := { s.ms with tlb := s.ms.tlb.filter (fun e => e.dpage / 16 ≠ p.frame) },
                     mg := { s.mg with evictions := s.mg.evictions.filter (· ≠ h) } }
  | _, _ => .next s

/-- Whether a lease or a write is outstanding on a frame (R132). -/
def frameBusy (s : State) (frame : Nat) : Bool :=
  s.ms.homes.any (fun l => l.1 / 256 = frame && decide (s.now < l.2.lmax)) ||
    s.ms.versions.any (fun v => v.cells.any (fun c => c.1 / 65536 = frame)) ||
    s.ms.stores.any (fun m => m.line / 256 = frame) ||
    s.ms.reqs.any (fun q => q.space == .hbm && q.phase == .issued && q.dpa / 65536 = frame)

/-- A use count one up or down. -/
def stepCount (up : Bool) (n : Nat) : Nat := if up then n + 1 else n - 1

/-- UHBM of the mappers of a private plot changes by one plot (R285, R286, R289). -/
def chargeHbm (s : State) (p : Plot) (up : Bool) : State :=
  if p.shared then s else p.mappers.foldl (fun s m => s.modVd m.1 (fun d => d.setField 6 31 0 (stepCount up (bits (d.word 6) 31 0)))) s

/-- UHBM and UTIER of the mappers of a private plot change as it moves to the second tier or back (R285, R286). -/
def moveQuota (s : State) (p : Plot) (toTier : Bool) : State :=
  let s := chargeHbm s p (!toTier)
  if p.shared then s else p.mappers.foldl (fun s m => s.modVd m.1 (fun d => d.setField 6 63 32 (stepCount toTier (bits (d.word 6) 63 32)))) s

/-- The room a container is given: the longest there is, all sectors raw. -/
def containerRoom : Nat := 66112

/-- The system-aperture address where the model's Pelelo places the container of a plot: the first place of the pool, whose ranges are
cut into rooms, that no other container takes; none where the pool is full (R18, R299; log entry 27). -/
def containerPlace (s : State) (h : Nat) : Option Nat :=
  let used := (s.mg.plots.filter (fun p => p.1 ≠ h && 3 ≤ p.2.state && !p.2.remote)).map (·.2.taddr)
  s.mg.pool.findSome? (fun r => ((List.range (min (2 * used.length + 1) (r.2 / containerRoom))).map (fun i => r.1 + i * containerRoom)).find?
    (fun a => used.all (fun u => decide (a + containerRoom ≤ u) || decide (u + containerRoom ≤ a))))

/-- CONTAINER_SEALED (R284, R285 steps 3 and 4, R353): no lease or write is outstanding, the container is written and the frame freed;
where its write has failed twice, a sector has been found poisoned (R348) or the pool is full (log entry 74), the leaves are restored. -/
def execContainerSealed (h : Nat) (writeFails : Bool) (s : State) : Out :=
  match look h s.mg.plots with
  | none => .next s
  | some p =>
    if s.power != .on || p.state ≠ 2 || p.withdrawn || frameBusy s p.frame || frameHeld s p.frame || leavesHeld s p then .next s
    else
      let s := decodeListed s p.base 65536
      match (if writeFails || poisonIn s p.base 65536 then none else containerPlace s h) with
      | none => .next (releasePlot (refuseEviction (mapPlot s h false) h) h)
      | some a =>
      let c := encodeContainer h (memRange s.ms.mem p.base 65536)
      let s := moveQuota (s.setPstate h 3) p true
      let s := s.modPlot h (fun p => { (p.set 2 16 0 c.length) with w := vset (p.set 2 16 0 c.length).w 1 (BitVec.ofNat 64 a) })
      .next (tierAnswer { s with mg := { s.mg with tier := memSplice s.mg.tier a (padded64 c), freeFrames := s.mg.freeFrames ++ [p.frame] } } h true 0)

/-! Host accesses through BAR2 (R296). -/

/-- Whether homes still take requests: until Tc of a hold-up sequence (R379). -/
def homesOpen (s : State) : Bool :=
  match s.power with
  | .on => true
  | .stopping tdet => decide (s.now < tdet + 20000)
  | _ => false


/-- How a host access to one piece stands: it may be made at a DPA, waits for a plot or for a home in time fault, or ends with a status. -/
inductive HostWay where
  | go (l : Leaf)
  | plot (h : Nat)
  | held
  | ends (st : HostStatus)
  deriving DecidableEq, Repr

/-- The way of a host access at a guest-physical address, through stage 2 alone. A page that maps to a system aperture, for which the rule
names no outcome, ends it with Unsupported Request, and so a descriptor in a poisoned sector with a poisoned completion (the model's choices;
log entries 89 and 63). -/
def hostWay (s : State) (v gpa : Nat) (wr : Bool) : HostWay :=
  match stage2 s v gpa (if wr then .write else .read) with
  | .ok l =>
    if !hbmDpa l.addr then .ends .unsupported
    else if (if wr then writeHolds s v l.addr l.repl else homeHolds s l.addr) then .held else .go l
  | .error (.homeHolds _) => .held
  | .error (.poison _) => .ends .poisoned
  | .error (.tier _ h) => (match (look h s.mg.plots).map Plot.state with
      | some 5 => .ends .poisoned
      | some 6 => .ends .aborted
      | _ => .plot h)
  | .error _ => .ends .unsupported

/-- What the host receives. -/
def hostReply (s : State) (v : Nat) (st : HostStatus) (bs : List Byte) : State :=
  { s with mg := { s.mg with replies := s.mg.replies ++ [{ vd := v, status := st, bytes := bs }] } }

/-- The event of an access that ends with Unsupported Request (R296). -/
def hostRefused (s : State) (v off : Nat) : State := s.event v 8 off 0

/-- The write time of a posted write of a device's function: its home's, and after those of the function's earlier writes (R296, R311). -/
def hostTw (s : State) (v : Nat) (l : Leaf) : Nat × State :=
  let line := l.addr / 256
  let (t, s) := if l.repl then assignTwRepl s line else assignTw s line
  let tw := max t ((s.vd v).bar2Tw + 1)
  (tw, (s.putHome line { s.home line with tlast := tw }).modVd v (fun d => { d with bar2Tw := tw }))

/-- One piece of a posted write performs at its home (R296, R347); a poisoned one marks the sectors it writes. -/
def hostWritePiece (s : State) (v gpa : Nat) (l : Leaf) (bs : List Byte) (poison : Bool) : State :=
  let (tw, s) := hostTw s v l
  let s := s.markDirty v l.addr
  let s := if l.repl then s.markDirty v (l.addr + replicaOffset) else s
  let s := watchExternal s v gpa bs.length false true (2 * 1024 + (v + 1) % 1024) 6 0 0 tw
  let sectors := bothSectors l.repl (sectorsOf l.addr bs.length)
  let whole := bothSectors l.repl (wholeSectors l.addr bs.length)
  if poison then markPoison s sectors
  else (partialPoison s v sectors whole).addVersion tw (bothCopies l.repl (cellsAt l.addr bs)) [hostMark v] none whole

/-- A posted write, sector by sector; a piece that may not be made ends the rest. -/
def hostWrite (s : State) (v off : Nat) (data : List Byte) (poison : Bool) : State :=
  let one := fun (acc : State × List Byte × Bool) (p : Nat × Nat) =>
    let (s, bs, on) := acc
    if !on then acc
    else
      let s := s.walkedGpa v p.1
      match hostWay s v p.1 true with
      | .go l => (hostWritePiece s v p.1 l (bs.take p.2) poison, bs.drop p.2, true)
      | _ => (hostRefused s v p.1, [], false)
  ((piecesOf off data.length).foldl one (s, data, true)).1

/-- A read, sector by sector. -/
def hostRead (s : State) (v off len : Nat) : State :=
  let one := fun (acc : State × Except HostStatus (List Byte)) (p : Nat × Nat) =>
    match acc with
    | (s, .error e) => (s, .error e)
    | (s, .ok bs) =>
      let s := s.walkedGpa v p.1
      match hostWay s v p.1 false with
      | .go l =>
        let s := decodeRange s l.addr p.2
        let s := watchExternal s v p.1 p.2 true false (2 * 1024 + (v + 1) % 1024) 6 0 0 s.now
        if anyPoison s l.addr p.2 then (s, .error .poisoned) else (s, .ok (bs ++ memReadN s.ms.mem l.addr p.2))
      | .ends .unsupported => (hostRefused s v p.1, .error .unsupported)
      | .ends e => (s, .error e)
      | .plot _ | .held => (s, .error .aborted)
  let r := (piecesOf off len).foldl one (s, .ok [])
  match r.2 with
  | .ok bs => hostReply r.1 v .success bs
  | .error e => hostReply r.1 v e []

/-- The first plot an access must wait for, and whether a home of it takes no requests (R351). -/
def hostPlot (s : State) (v off len : Nat) (wr : Bool) : Option Nat :=
  (piecesOf off len).findSome? (fun p => match hostWay s v p.1 wr with
    | .plot h => some h
    | _ => none)
def hostHeld (s : State) (v off len : Nat) (wr : Bool) : Bool :=
  (piecesOf off len).any (fun p => hostWay s v p.1 wr == .held)

/-- Whether an offset lies beyond what the device decodes of BAR2 (R295). -/
def beyondBar2 (s : State) (v off len : Nat) : Bool := decide (2 ^ bits ((s.vd v).word 17) 5 0 < off + len)

/-! Other packages (R302). -/

/-- Whether entry e of a device lets a package and a device make an access: valid, naming them, and allowing it. -/
def entryAdmits (s : State) (q : RemoteReq) (k : AccessKind) (e : Nat) : Bool :=
  let w := endpointWords s q.vd e
  bit w.1 63 && bits w.1 51 32 = q.srcPkg && bits w.1 31 23 = q.srcVd && (match k with
    | .load => bit w.1 62
    | .store => bit w.1 61
    | .atomic => bit w.1 60)

/-- The kind and the length of a remote access. -/
def remoteKind : RemoteOp → AccessKind
  | .load _ => .load
  | .store _ => .store
  | .atomic .. => .atomic
def atyLen (aty : Nat) : Nat := if aty = 0 || aty = 1 || aty = 4 then 4 else 8
def remoteLen : RemoteOp → Nat
  | .load n => n
  | .store d => d.length
  | .atomic _ aty _ _ _ => atyLen aty

/-- An accepted remote access at its home (R302); op 8 of an atomic is .fadd. -/
def remotePerform (s : State) (q : RemoteReq) (l : Leaf) (e : Nat) : State :=
  let a := l.addr
  let orig := 1024 + e
  match q.op with
  | .load n =>
    let s := watchExternal (decodeRange s a n) q.vd q.gpa n true false orig 6 0 0 s.now
    if anyPoison s a n then hostReply s q.vd .poisoned [] else hostReply s q.vd .success (memReadN s.ms.mem a n)
  | .store d =>
    let (tw, s) := homeWrite s q.vd l.repl a d
    hostReply (watchExternal s q.vd q.gpa d.length false true orig 6 0 0 tw) q.vd .success []
  | .atomic op aty b b2 returns =>
    let n := atyLen aty
    let s := decodeRange s a n
    if anyPoison s a n then hostReply (watchExternal s q.vd q.gpa n true true orig 6 0 0 s.now) q.vd .poisoned []
    else
      let old := (List.range n).map (fun i => newestByte s (a + i))
      let (tw, s) := if l.repl then assignTwRepl s (a / 256) else assignTw s (a / 256)
      let s := s.markDirty q.vd a
      let s := if l.repl then s.markDirty q.vd (a + replicaOffset) else s
      let s := watchExternal s q.vd q.gpa n true true orig 6 0 0 tw
      let s := s.addVersion tw (bothCopies l.repl (cellsAt a (leBytes n (atomicNew (op = 8) op aty (leNat old) b b2)))) [] none []
      hostReply s q.vd .success (if returns then old else [])

/-- How a remote access stands: it may be made with an entry at a place, waits for a plot or for a home in time fault, or ends with a status. -/
inductive RemoteWay where
  | go (l : Leaf) (e : Nat)
  | plot (h : Nat)
  | held
  | ends (st : HostStatus)
  deriving DecidableEq, Repr

/-- The way of a remote access: an entry of the device names its origin and stage 2 allows it; W alone allows an atomic or a reduction (R114). -/
def remoteWay (s : State) (q : RemoteReq) : RemoteWay :=
  let k := remoteKind q.op
  let st := (s.vd q.vd).state
  if st = 0 || st = 4 || st = 5 then .ends .refused
  else if (List.range 32).any (fun i => homeHolds s ((s.vd q.vd).fepbase + 256 * i)) then .held
  else match (List.range 256).find? (entryAdmits s q k) with
    | none => .ends .refused
    | some e =>
      let need := match k with
        | .load => Need.read
        | _ => Need.write
      match stage2 s q.vd q.gpa need with
      | .ok l =>
        if !hbmDpa l.addr || 64 < q.gpa % 64 + remoteLen q.op then .ends .refused
        else if (if k == .load then homeHolds s l.addr else writeHolds s q.vd l.addr l.repl) then .held else .go l e
      | .error (.homeHolds _) => .held
      | .error (.poison _) => .ends .poisoned
      | .error (.tier _ h) => (match (look h s.mg.plots).map Plot.state with
          | some 5 => .ends .poisoned
          | some 6 => .ends .refused
          | _ => .plot h)
      | .error _ => .ends .refused

/-- A remote access made or ended. -/
def remoteServe (s : State) (q : RemoteReq) : State :=
  let s := decodeListed (s.walkedGpa q.vd q.gpa) (s.vd q.vd).fepbase 8192
  match remoteWay s q with
  | .go l e => remotePerform s q l e
  | .ends st => hostReply s q.vd st []
  | .plot _ | .held => s

/-! Waiting. -/

/-- The plot an access waits for. -/
def waitPlot (s : State) (w : Bar2Wait) : Option Nat :=
  match w.what with
  | .write .. => hostPlot s w.vd w.off w.len true
  | .read => hostPlot s w.vd w.off w.len false
  | .remote q => (match remoteWay s q with
      | .plot h => some h
      | _ => none)

/-- Whether a posted write of a device's function waits, one that came before a given access. -/
def writeWaits (s : State) (v id : Nat) : Bool :=
  s.mg.bar2.any (fun w => w.vd = v && w.id < id && (match w.what with
    | .write .. => true
    | _ => false))

/-- Whether an access may be made: its plots are resident and its homes take requests; a write behind the writes of its function, in
order; a read when those are visible. -/
def waitOver (s : State) (w : Bar2Wait) : Bool :=
  (waitPlot s w).isNone && (match w.what with
    | .write .. => !hostHeld s w.vd w.off w.len true && !writeWaits s w.vd w.id
    | .read => !hostHeld s w.vd w.off w.len false && !writeWaits s w.vd w.id && !hostWritesPending s w.vd
    | .remote q => remoteWay s q != .held)

/-- An access made. -/
def serveAccess (s : State) (w : Bar2Wait) : State :=
  match w.what with
  | .write bs poison => hostWrite s w.vd w.off bs poison
  | .read => hostRead s w.vd w.off w.len
  | .remote q => remoteServe s q

/-- A waiting access gone. -/
def dropWait (s : State) (id : Nat) : State := { s with mg := { s.mg with bar2 := s.mg.bar2.filter (fun x => x.id ≠ id) } }

/-- The waiting accesses that may be made, in their order. -/
def serveBar2 (s : State) : State :=
  s.mg.bar2.foldl (fun s w => if waitOver s w then serveAccess (dropWait s w.id) w else s) s

/-- An access is made, or waits; where it waits for a plot it asks for the promotion. -/
def takeAccess (s : State) (v off len : Nat) (what : WaitKind) : State :=
  let w : Bar2Wait := { id := s.nextId, vd := v, off := off, len := len, what := what, since := s.now, plot := none }
  if waitOver s w then serveAccess s w
  else
    let s := { s with nextId := s.nextId + 1, mg := { s.mg with bar2 := s.mg.bar2 ++ [{ w with plot := waitPlot s w }] } }
    match waitPlot s w with
    | some h => serveBar2 (requestPromotion s v h).2
    | none => s

/-- HOST_BAR2_WRITE (R295, R296). -/
def execHostBar2Write (v off : Nat) (data : List Byte) (poison : Bool) (s : State) : Out :=
  if !homesOpen s || (s.vd v).state = 0 then .next s
  else if beyondBar2 s v off data.length then .next (hostRefused s v off)
  else .next (takeAccess s v off data.length (.write data poison))

/-- HOST_BAR2_READ (R295, R296). -/
def execHostBar2Read (v off len : Nat) (s : State) : Out :=
  if !homesOpen s then .next s
  else if (s.vd v).state = 0 then .next (hostReply s v .unsupported [])
  else if beyondBar2 s v off len then .next (hostReply (hostRefused s v off) v .unsupported [])
  else .next (takeAccess s v off len .read)

/-- REMOTE_ACCESS (R302): accepted where an entry of the device names its origin and stage 2 allows it, else refused; one to a held
plot waits for the promotion it asks for. -/
def execRemoteAccess (q : RemoteReq) (s : State) : Out :=
  if homesOpen s then .next (takeAccess s q.vd q.gpa (remoteLen q.op) (.remote q)) else .next s

/-- BAR2_PROMOTION_TIMEOUT (R296): a waiting access that may be made is made; one of the host still waiting for a promotion after 1 ms
ends with Completer Abort. -/
def execBar2PromotionTimeout (id : Nat) (s : State) : Out :=
  match s.mg.bar2.find? (fun w => w.id = id) with
  | none => .next s
  | some w =>
    if waitOver s w then .next (serveAccess (dropWait s id) w)
    else if w.since + 1000000 ≤ s.now && (waitPlot s w).isSome then
      match w.what with
      | .write .. => .next (dropWait s id)
      | .read => .next (hostReply (dropWait s id) w.vd .aborted [])
      | .remote _ => .next s
    else .next s

/-! Promotion (R285, R352, R353). -/

/-- A container read at a system-aperture address: its header gives the length. -/
def readContainer (s : State) (a : Nat) : Option (List Byte) :=
  let head := memRange s.mg.tier a 64
  let clen := leNat ((head.drop 8).take 8) % 2 ^ 17
  if clen < 576 then none else decodeContainer (memRange s.mg.tier a clen)

/-- The duplicate container of a plot, if the duplicate map names one (R352), with the state in which its entry has been decoded; an entry of
a poisoned sector gives none (R348). -/
def readDuplicate (s : State) (h : Nat) : State × Option (List Byte) :=
  let entry := bits s.mg.dupmap 51 12 * 4096 + 8 * h
  if bits s.mg.dupmap 51 12 = 0 || 2 ^ bits s.mg.dupmap 11 0 ≤ h then (s, none)
  else
    let s := decodeSector s (entry / 64)
    let a := s.dpaWord entry
    (s, if s.poisoned entry || a = 0 then none else readContainer s a.toNat)

/-- The sectors of a plot that lie in some 64 B pieces of its container: of the header or the directory, all (R284, R348). -/
def spoiltSectors (c : List Byte) (pieces : List Nat) : List Nat :=
  if pieces.isEmpty then []
  else if pieces.any (· < 9) then List.range 1024
  else
    let one := fun (acc : Nat × List Nat) (i : Nat) =>
      let len := leNat ((c.drop (64 + 2 * i)).take 2) % 512
      let hit := pieces.any (fun n => decide (acc.1 < 64 * n + 64) && decide (64 * n < acc.1 + len))
      (acc.1 + len, if hit then acc.2 ++ [4 * i, 4 * i + 1, 4 * i + 2, 4 * i + 3] else acc.2)
    ((List.range 256).foldl one (576, [])).2

/-- The poisoned sectors of a frame that has been written whole: the ones given, and no other (R347, R348). -/
def setFramePoison (s : State) (frame : Nat) (bad : List Nat) : State :=
  { s with ms := { s.ms with poison := s.ms.poison.filter (fun x => x / 1024 ≠ frame) ++ bad.map (fun i => frame * 1024 + i),
                             badSymbols := s.ms.badSymbols.filter (fun b => b.1 / 1024 ≠ frame) } }

/-- A plot's content is in the frame allocated to it, but for its poisoned sectors: leaves restored, quotas moved, held accesses retried, a queued
eviction taken up. -/
def promoted (s : State) (h : Nat) (p : Plot) (bytes : List Byte) (poison : List Nat) : State :=
  let s := setFramePoison { s with ms := { s.ms with mem := memSplice s.ms.mem (p.frame * 65536) bytes } } p.frame poison
  let s := s.modPlot h (fun p => { (p.set 0 63 61 0).set 0 59 59 0 with alloc := false, arrived := none })
  let s := mapPlot s h false
  let s := tierAnswer (if p.remote then chargeHbm s p true else moveQuota s p false) h false 0
  let s := if p.evq then queueEviction (s.modPlot h (fun p => p.set 0 58 58 0)) h else s
  serveBar2 (releasePlot s h)

/-- The accesses held on a plot that is lost end with a cause (R352, R354). -/
def endHeldOn (s : State) (h cause : Nat) : State :=
  match look h s.mg.plots with
  | none => s
  | some p => (p.requesters.foldl (fun s id => abortHeld s id cause 0) s).modPlot h (fun p => { p with requesters := [] })

/-- Each mapper's event stream is told of a lost plot (R352): CAUSE 0x1C, SRC 6, the plot's guest-physical address. -/
def tellMappers (s : State) (p : Plot) : State :=
  p.mappers.foldl (fun s m =>
    s.toStream m.1 (mkRec (iodInfo 0x1C 0 (p.gpaIn m.1) false) false 0 0)) s

/-- A plot enters state 5 (R352): a frame allocated to its promotion is free, its queued eviction is refused and its held accesses end with
0x1C. -/
def plotLost (s : State) (h : Nat) (p : Plot) : State :=
  let s := s.modPlot h (fun p => { (p.set 0 63 61 5).set 0 58 58 0 with alloc := false })
  let s := if p.alloc then { s with mg := { s.mg with freeFrames := s.mg.freeFrames ++ [p.frame] } } else s
  serveBar2 (tellMappers (endHeldOn (tierAnswer (tierAnswer s h true 2) h false 2) h 0x1C) p)

/-- The reads of R352 in their order, of which the first `bad` meet an error of the link: the container, the container once more, and
its duplicate. -/
def readPlot (s : State) (h : Nat) (p : Plot) (bad : Nat) : State × Option (List Byte) :=
  match (if bad ≤ 1 then readContainer s p.taddr else none) with
  | some bytes => (s, some bytes)
  | none =>
    let r := readDuplicate s h
    if bad ≤ 2 then r else (r.1, none)

/-- PROMOTION_COMPLETE (R285, R352): the container is read, checked and written to the frame allocated to it; sectors that PCI Express has
brought poisoned are marked (R348), where a CXL poison is an error of the read. -/
def execPromotionComplete (r : ContainerRead) (s : State) : Out :=
  let h := r.plot
  match look h s.mg.plots with
  | none => .next s
  | some p =>
    let dup := bits s.mg.dupmap 51 12 * 4096 + 8 * h
    if s.power != .on || p.state ≠ 4 || p.remote || !p.alloc || frameHeld s p.frame || leavesHeld s p || (bits s.mg.dupmap 51 12 ≠ 0 && homeHolds s dup) then .next s
    else
      let cxlPoison := !pcieDpa p.taddr && !r.spoilt.isEmpty
      let got := readPlot s h p (if cxlPoison then max r.bad 2 else r.bad)
      let spoilt := if 2 ≤ r.bad || cxlPoison then [] else spoiltSectors (memRange s.mg.tier p.taddr p.clen) r.spoilt
      match got.2 with
      | some bytes => .next (promoted got.1 h p bytes spoilt)
      | none => .next (plotLost got.1 h p)

end Sys2Proof.Machine
end

