-- ==== Sys2Proof/Machine/Image.lean ====
section
/-!
DEFINITION. Migration images (R81, R287 to R289, R293, R349): the dirty bitmap, copies of plots, the records a source sends and what
a destination takes from each.
-/

namespace Sys2Proof.Machine

/-! The dirty bitmap (R287). -/

/-- Bytes of the bitmap: one bit for each 64 KiB of HBM. -/
def bitmapBytes : Nat := 786432

/-- The bitmap as it stands, and the state with every word of it cleared. Of a poisoned sector no value is returned (R348): every plot it
speaks of counts as written (the model's choice; log entry 63). -/
def takeBitmap (s : State) (v : Nat) : List Byte × State :=
  let b := (s.vd v).dbbase
  let s := decodeListed s b bitmapBytes
  let bytes := memRange s.ms.mem b bitmapBytes
  (if poisonIn s b bitmapBytes then (List.range bitmapBytes).map (fun i => if s.poisoned (b + i) then 0xFF else bytes.getD i 0) else bytes,
   { s with ms := { s.ms with mem := s.ms.mem.filter (fun c => c.1 < b || b + bitmapBytes ≤ c.1) } })

/-! Records of plots (R293, R349). -/

/-- A record with its payload's CRC. -/
def record (kind gpa : Nat) (payload : List Byte) : MigRecord :=
  { kind := kind, gpa := gpa, poison := false, payload := payload, crc := crc32c payload }

/-- The 64 B header of a record (R293, R349). -/
def MigRecord.header (r : MigRecord) : List Byte :=
  leBytes 8 (r.kind % 256 + 256 * b2n r.poison) ++ leBytes 8 r.gpa ++ leBytes 8 (r.payload.length % 2 ^ 32) ++ leBytes 8 (r.crc % 2 ^ 32) ++
    List.replicate 32 0

/-- Records join the stream of a device's image, on the transport of its migration: to a ring of the host, or over Furrow to a package. -/
def sendRecords (s : State) (v : Nat) (rs : List MigRecord) : State :=
  { s with mg := { s.mg with sent := s.mg.sent ++ rs.map (fun r => ((s.vd v).transport, r)) } }

/-- A frame as the writes that have reached its homes leave it, those whose write time is to come among them: what has been acknowledged
before a bitmap was read is in the copy that the bitmap asks for (R287, R288). -/
def frameBytes64 (s : State) (base : Nat) : List Byte :=
  let inside := fun (c : Host.Cell) => base ≤ c.1 && c.1 < base + 65536
  memRange (s.ms.versions.foldl (fun m x => memWriteCells m (x.cells.filter inside)) s.ms.mem) base 65536

/-- A plot as it is copied: raw from its frame, or as its container; without payload where it holds poison. -/
def plotRecord (s : State) (gpa : Nat) (p : Plot) : MigRecord :=
  if p.state ≤ 2 then
    (if poisonIn s p.base 65536 then { record 1 gpa [] with poison := true } else record 1 gpa (frameBytes64 s p.base))
  else if p.state = 5 || p.state = 6 then { record 2 gpa [] with poison := true }
  else record 2 gpa (memRange s.mg.tier p.taddr p.clen)

/-- A plot read through its homes' decoders and sent; one that itself is still to be pulled has nothing to send. -/
def sendPlot (v : Nat) (s : State) (x : Nat × Nat × Plot) : State :=
  if x.2.2.remote then s
  else
    let s := if x.2.2.state ≤ 2 then decodeListed s x.2.2.base 65536 else s
    sendRecords s v [plotRecord s x.1 x.2.2]

/-- Every plot of a device copied; and those whose bits are set in a bitmap, at the frame each now has or had last, evicted since or not. -/
def copyPlots (s : State) (v : Nat) : State := (plotsOf s v).foldl (sendPlot v) s
def copyDirty (s : State) (v : Nat) (bitmap : List Byte) : State :=
  ((plotsOf s v).filter (fun x => (bitmap.getD (x.2.2.frame / 8) 0).getLsbD (x.2.2.frame % 8))).foldl (sendPlot v) s

/-! What travels of queues, launches, teams and threads: a list of 64-bit words (log entry 41). -/

/-- Words as bytes, and bytes as words. -/
def bytesOfWords (ws : List Nat) : List Byte := ws.flatMap (leBytes 8)
def wordsOfBytes : Nat → List Byte → List Nat
  | 0, _ => []
  | n + 1, bs => leNat (bs.take 8) :: wordsOfBytes n (bs.drop 8)

/-- A thread: what its control line does not hold, and, before its first activation, where it starts. -/
def threadWords (t : Thread) : List Nat :=
  let unformed := (List.range 9).foldl (fun m n => if vget t.lines n .absent == .unformed then m + 2 ^ n else m) 0
  [t.key.tid, b2n t.consumer, t.budget, b2n t.detached, t.clus, t.st.code, b2n t.created, unformed,
   (match t.migTo with
    | some d => d + 1
    | none => 0), t.migSince, b2n t.haltReq,
   (match t.brkCode with
    | some c => c + 1
    | none => 0), t.pc.toNat, (t.heldV 0).toNat, (t.heldV 1).toNat, (t.heldV 2).toNat, (t.heldV 3).toNat]

/-- What a recorded command of a team has beside its record in the block (R238): the place it was issued at, by which its stochastic draws go
(R94). -/
def commandPlace (o : EngOp) : List Nat := [o.tid, o.word.toNat, o.pc.toNat, o.cpos, b2n o.repa, o.repc]

/-- A team with its threads and the places of its recorded commands. -/
def teamWords (s : State) (t : Team) : List Nat :=
  let ts := s.threads.filter (fun x => x.key.team == t.key)
  let cs := s.ops.filter (fun o => o.team == t.key && o.recorded)
  [b2n t.key.spawned, t.key.num, t.tcnt, t.pcnt, t.frame, b2n t.firstPlacement, t.placed, t.seeds.length] ++
    t.seeds.flatMap (fun x => x.entry.toNat :: (List.range 4).map (fun i => (vget x.args i 0).toNat)) ++
    ts.length :: ts.flatMap threadWords ++ cs.length :: cs.flatMap commandPlace

/-- A launch with its teams. -/
def launchWords (s : State) (l : Launch) : List Nat :=
  let teams := s.teams.filter (fun t => t.key.lid = l.lid)
  [l.lid, l.addr.toNat] ++ (List.range 32).map (fun i => (l.word i).toNat) ++
    [(match l.phase with
      | .pending => 0
      | .started => 1
      | .counting => 2
      | .complete => 3), l.startedAt, (List.range 4).foldl (fun m n => if vget l.deps n false then m + 2 ^ n else m) 0,
     l.nextTeam, l.doneTeams, l.spawnNext, l.spawnLive, b2n l.mustOk, l.savedBins.length] ++ l.savedBins ++
    teams.length :: teams.flatMap (teamWords s)

/-- A queue: its registers, the kicks not yet read and its launches, pending ones first in their order. -/
def queueWords (s : State) (v j : Nat) (q : Queue) : List Nat :=
  let mine := s.launches.filter (fun l => l.vd = v && l.j = j)
  let pend := q.pend.filterMap s.launch?
  let ls := pend ++ mine.filter (fun l => !q.pend.contains l.lid)
  [j, q.cause, b2n q.err, q.qdonea.toNat, q.ivec.toNat, b2n q.irqr, b2n q.irqc, q.qrej.toNat, q.completed.toNat, q.accepted.toNat,
   q.kicks.length] ++ q.kicks.map (·.addr.toNat) ++ pend.length :: ls.length :: ls.flatMap (launchWords s)

/-- The bits of a word of the entry that a command writes: its RW fields (R267). -/
def rwMask (i : Nat) : Nat :=
  match i with
  | 0 => 0xFFFFE000
  | 1 | 14 | 15 => 0xFFFFFFFFFF000
  | 3 => 0xFFFF000000003F3F
  | 7 => 0x1FFF
  | 5 | 8 | 9 | 10 | 11 | 12 | 13 => 2 ^ 64 - 1
  | 16 => 0xFFFFFFFFF0001
  | 17 => 0x3F
  | _ => 0

/-- Type 3: the entry's RW fields, with the guest's time and counters at the stop in words 8 to 12. -/
def entryWords (d : VDev) : List Nat :=
  (List.range 18).map (fun i => if 8 ≤ i && i ≤ 12 then vget d.stopView (i - 8) 0 else Nat.land (d.word i).toNat (rwMask i)) ++
    List.replicate 14 0

/-- The number under which the fault queue and the rest of the guest control page travel among the queues (log entry 41), and their words. -/
def pageQueue : Nat := 2 ^ 16
def pageWords (d : VDev) : List Nat := [pageQueue, (d.word 2).toNat, d.fqcfg.toNat, d.fqhead.toNat, d.fqtail.toNat, d.cntsel.toNat]

/-- A must-save list: its launch, then its descriptors and the terminator (R383). -/
def mustWords (m : MustSet) : List Nat :=
  [m.lid, 0] ++ m.items.flatMap (fun i => [i.base, i.bytes + 2 ^ 56 * i.order]) ++ [0, 0]

/-- The records of a stopped device but for its plots (R288 step 4, R293). -/
def imageRecords (s : State) (v : Nat) : List MigRecord :=
  let d := s.vd v
  [record 3 0 (bytesOfWords (entryWords d))] ++
    (List.range d.qcnt).map (fun j => record 4 0 (bytesOfWords (queueWords s v j (d.queue j)))) ++
    [record 4 0 (bytesOfWords (pageWords d))] ++
    [record 5 0 (memRange s.ms.mem d.irtbase 4096)] ++
    (s.musts.filter (fun m => m.vd = v)).map (fun m => record 6 0 (bytesOfWords (mustWords m))) ++
    (plotsOf s v).map (fun x => record 7 x.1 (bytesOfWords ((List.range 4).map (fun i => (vget x.2.2.w i 0).toNat)))) ++ [record 8 0 []]

/-- Eight bytes of a plot in the second tier written as zero in its container, which is sent again (R81). -/
def zeroHeld (s : State) (v h gpa : Nat) : State :=
  match look h s.mg.plots with
  | none => s
  | some p =>
    let o := gpa % 65536
    match decodeContainer (memRange s.mg.tier p.taddr p.clen) with
    | none => s
    | some bs =>
      if p.remote || ((bs.drop o).take 8).all (· == 0) then s
      else
        let c := encodeContainer h (bs.take o ++ List.replicate 8 0 ++ bs.drop (o + 8))
        let s := s.modPlot h (fun p => p.set 2 16 0 c.length)
        sendPlot v { s with mg := { s.mg with tier := memSplice s.mg.tier p.taddr (padded64 c) } } (gpa / 65536 * 65536, h, p.set 2 16 0 c.length)

/-- TWOWED written as zero in every control line of a device, wherever its plot is (R81): in the frame while that holds the plot, be its
leaves held for an eviction or not, else in the container. -/
def zeroTwowed (s : State) (v : Nat) : State :=
  (s.threads.filter (fun t => t.vd = v && t.created && t.st != .exited)).foldl (fun s t =>
    match s.launch? t.key.team.lid with
    | some l =>
      let s := s.walked .iod v (slotAddr l t.key + 40)
      (match walkBoth s v (slotAddr l t.key + 40) .any with
        | .ok x => if hbmDpa x.dpa then (s.pokeBytes x.dpa (List.replicate 8 0)).markDirty v x.dpa else s
        | .error (.tier g h) => (match s.plot? h with
            | some p => if p.state ≤ 2 then
                (s.pokeBytes (p.base + g % 65536) (List.replicate 8 0)).markDirty v (p.base + g % 65536) else zeroHeld s v h g
            | none => s)
        | .error _ => s)
    | none => s) s

/-- The final copy of a source whose clusters are free (R81, R288 step 4). -/
def finalCopy (s : State) (v : Nat) : State :=
  let s := zeroTwowed s v
  let (b, s) := takeBitmap s v
  let s := copyDirty s v b
  sendRecords s v (imageRecords s v)

/-- Whether a home on the way to the control line of some thread of a device is in time fault (R351). -/
def slotsHeld (s : State) (v : Nat) : Bool :=
  s.threads.any (fun t => t.vd = v && t.created && t.st != .exited && (s.launch? t.key.team.lid).any (fun l =>
    match walkBoth s v (slotAddr l t.key + 40) .any with
    | .ok x => homeHolds s x.dpa
    | .error (.homeHolds _) => true
    | .error _ => false))

/-- Whether the homes of a device's dirty bitmap, of its interrupt-remapping table, or of its plots' containers' frames are in time fault. -/
def tablesHeld (s : State) (v : Nat) : Bool :=
  let d := s.vd v
  [d.dbbase, d.irtbase].any (fun b => (List.range 16).any (fun i => homeHolds s (b + 256 * i)))

/-- Whether a source may make its final copy: global time has passed every thread's TWOWED + 4, no write of its frames is to come,
no increment of a completion counter is out, and the homes it reads and writes serve (R351). -/
def finalReady (s : State) (v : Nat) : Bool :=
  let frames := (plotsOf s v).map (fun x => x.2.2.frame)
  s.threads.all (fun t => t.vd ≠ v || t.twowed + 4 ≤ s.now) && !(s.ms.versions.any (fun x => x.cells.any (fun c => frames.contains (c.1 / 65536)))) &&
    frames.all (fun f => !frameHeld s f) && !slotsHeld s v && !tablesHeld s v &&
    !(s.ms.outs.any (fun o => o.vd = v && o.launch.isSome && !o.abandoned))

/-! What a destination takes (R288, R289, R293). -/


/-- The DPA of the level-3 descriptor of a guest-physical address, in Pelelo's own tables. -/
def leafOf (s : State) : Nat → Nat → Nat → Nat → Option Nat
  | 0, _, _, _ => none
  | fuel + 1, level, table, gpa =>
    let at_ := table + 8 * (gpa / 2 ^ (39 - 9 * level) % 512)
    if level = 3 then some at_
    else match (descWord s at_).toOption.map (fun w => readDesc true level w gpa) with
      | some (.table a) => leafOf s fuel (level + 1) a gpa
      | _ => none

/-- Whether those tables cannot be read now: a home on the way is in time fault (R351). -/
def tableHeld (s : State) (v gpa : Nat) : Bool :=
  match walk2 s 4 0 (s.vd v).s2root (gpa / 65536 * 65536 % 2 ^ 48) with
  | .error (.homeHolds _) => true
  | _ => false

/-- A plot entry for a device's guest-physical address that its own tables map with a level-3 leaf: the one there is, or a new one, which is
charged to UHBM. -/
def ensurePlot (s : State) (v gpa : Nat) : Option (Nat × State) :=
  let s := s.walkedGpa v (gpa / 65536 * 65536)
  match plotAt s v gpa, leafOf s 4 0 (s.vd v).s2root (gpa / 65536 * 65536) with
  | some (h, _), _ => some (h, s)
  | none, some leaf => (match (descWord s leaf).toOption.map (fun w => readDesc true 3 w 0) with
      | some (.leaf l) =>
        let h := s.mg.plots.foldl (fun n p => max n (p.1 + 1)) 1
        let p : Plot := { w := #v[BitVec.ofNat 64 (l.addr / 65536), 0, BitVec.ofNat 64 (2 ^ 48), BitVec.ofNat 64 (Config.mapList h)], mappers := [(v, leaf)], gpas := [(v, gpa / 65536 * 65536)],
                          withdrawn := false, notBefore := 0, requesters := [], waiters := [], alloc := false, pulled := false, attempts := 0,
                          askedAt := 0, arrived := none }
        some (h, { s with mg := { s.mg with plots := s.mg.plots ++ [(h, p)] } }.modVd v (fun d => d.setField 6 31 0 (bits (d.word 6) 31 0 + 1)))
      | _ => none)
  | none, none => none

/-- The bytes of a plot record; of a poisoned one, zeros. -/
def recordBytes (r : MigRecord) : Option (List Byte) :=
  if r.poison then some (List.replicate 65536 0)
  else if r.kind = 1 then (if r.payload.length = 65536 then some r.payload else none) else decodeContainer r.payload

/-- Whether a record may be taken: its payload has the CRC of its header, and a plot can be read from it. -/
def recordGood (r : MigRecord) : Bool :=
  r.poison || (r.crc = crc32c r.payload && ((r.kind ≠ 1 && r.kind ≠ 2) || (recordBytes r).isSome))

/-- The sectors of a plot that its record leaves poisoned (R348, R349). -/
def recordSpoilt (r : MigRecord) : List Nat :=
  if r.poison then List.range 1024 else if r.kind = 1 then r.spoilt.filter (· < 1024) else spoiltSectors r.payload r.spoilt

/-- A plot received before MIGDONE lies in its frame. -/
def receivePlot (s : State) (v : Nat) (r : MigRecord) : State :=
  match ensurePlot s v r.gpa, recordBytes r with
  | some (h, s), some bytes =>
    let f := ((look h s.mg.plots).map Plot.frame).getD 0
    let s := { s with ms := { s.ms with mem := memSplice s.ms.mem (f * 65536) bytes } }
    setFramePoison (s.modPlot h (fun p => { p with pulled := true })) f (recordSpoilt r)
  | _, _ => s

/-- n items read from words one after another. -/
def readMany {α : Type} (f : List Nat → α × List Nat) : Nat → List Nat → List α × List Nat
  | 0, ws => ([], ws)
  | n + 1, ws => match f ws with
    | (x, ws) => ((x :: (readMany f n ws).1), (readMany f n ws).2)

/-- A thread from its words; one that was Parked tries its access again (log entry 41). -/
def readThread (v gen : Nat) (k : TeamKey) (ws : List Nat) : Thread × List Nat :=
  let w := fun i => ws.getD i 0
  let t := newThread { team := k, tid := w 0 } v gen (w 4) (w 1 = 1) (w 2) (BitVec.ofNat 64 (w 12))
    ((Vector.range 4).map (fun i => BitVec.ofNat 64 (w (13 + i))))
  let st := ThreadState.ofCode (w 5)
  let lines := (List.range 9).foldl (fun l n => if Nat.testBit (w 7) n then vset l n LineState.unformed else l) t.lines
  ({ t with detached := w 3 = 1, st := if st == ThreadState.parked then ThreadState.runnable else st, retrying := st == ThreadState.parked,
            created := w 6 = 1, lines := lines, migTo := if w 8 = 0 then none else some (w 8 - 1), migSince := w 9, haltReq := w 10 = 1,
            brkCode := if w 11 = 0 then none else some (w 11 - 1) }, ws.drop 17)

/-- A seed from its words. -/
def readSeed (ws : List Nat) : Seed × List Nat :=
  ({ entry := BitVec.ofNat 64 (ws.getD 0 0), args := (Vector.range 4).map (fun i => BitVec.ofNat 64 (ws.getD (1 + i) 0)) }, ws.drop 5)

/-- A recorded command as it travels: held until its block is restored, when its record gives the rest (R238). -/
def readPlace (k : TeamKey) (ws : List Nat) : EngOp × List Nat :=
  let w := fun i => ws.getD i 0
  ({ id := 0, i := (decodeWord (BitVec.ofNat 64 (w 1))).getD (.exit { g := { neg := false, p := 7 }, d := 0, a := 0, code := 0 }),
     word := BitVec.ofNat 64 (w 1), team := k, tid := w 0, lanes := [w 0], quarter := 0, owners := [w 0],
     flag := none, cluster := 0, ord := 0, rd := [], wr := [], vals := [], prog := 0, best := [], enterCyc := 0, lastTw := 0, phase := .held,
     pc := BitVec.ofNat 64 (w 2), cpos := w 3, repa := w 4 = 1, repc := w 5, recorded := true, apt := [] }, ws.drop 6)

/-- A team, its threads and its recorded commands from their words. -/
def readTeam (v gen lid : Nat) (ws : List Nat) : (Team × List Thread × List EngOp) × List Nat :=
  let w := fun i => ws.getD i 0
  let k : TeamKey := { lid := lid, spawned := w 0 = 1, num := w 1 }
  let (seeds, rest) := readMany readSeed (w 7) (ws.drop 8)
  let (ts, rest) := readMany (readThread v gen k) (rest.headD 0) (rest.drop 1)
  let (cs, rest) := readMany (readPlace k) (rest.headD 0) (rest.drop 1)
  (({ newTeam k v gen (w 2) (w 3) seeds (w 6) with frame := w 4, firstPlacement := w 5 = 1 }, ts, cs), rest)

/-- A launch, its teams and their threads from their words. -/
def readLaunch (v gen j base now : Nat) (ws : List Nat) : (Launch × List (Team × List Thread × List EngOp)) × List Nat :=
  let w := fun i => ws.getD i 0
  let lid := base + w 0 % 2 ^ 40
  let phase := match w 34 with
    | 0 => LaunchPhase.pending
    | 1 => .started
    | 2 => .counting
    | _ => .complete
  let bins := (ws.drop 43).take (w 42)
  let rest := ws.drop (43 + w 42)
  let l : Launch := { newLaunch lid v j now (BitVec.ofNat 64 (w 1)) ((Vector.range 32).map (fun i => BitVec.ofNat 64 (w (2 + i)))) with
    phase := phase, startedAt := w 35, deps := (Vector.range 4).map (fun n => Nat.testBit (w 36) n), nextTeam := w 37, doneTeams := w 38,
    spawnNext := w 39, spawnLive := w 40, mustOk := w 41 = 1, savedBins := bins }
  let (teams, rest) := readMany (readTeam v gen lid) (rest.headD 0) (rest.drop 1)
  ((l, teams), rest)

/-- A queue received (R248, R293). -/
def receiveQueue (s : State) (v : Nat) (ws : List Nat) : State :=
  let w := fun i => ws.getD i 0
  let j := w 0
  let rest := ws.drop (11 + w 10)
  let (ls, _) := readMany (readLaunch v (s.vd v).gen j (s.vd v).lidBase s.now) (rest.getD 1 0) (rest.drop 2)
  let q : Queue := { cause := w 1, err := w 2 = 1, qdonea := BitVec.ofNat 64 (w 3), ivec := BitVec.ofNat 8 (w 4), irqr := w 5 = 1,
                     irqc := w 6 = 1, qrej := BitVec.ofNat 64 (w 7), completed := BitVec.ofNat 32 (w 8), accepted := BitVec.ofNat 32 (w 9),
                     kicks := ((ws.drop 11).take (w 10)).map (fun x => { addr := BitVec.ofNat 64 x, core := false, cycle := 0 }), pend := (ls.take (rest.headD 0)).map (fun x => x.1.lid) }
  let lids := ls.map (fun x => x.1.lid)
  let s := s.modQueue v j (fun _ => q)
  let s := { s with launches := s.launches.filter (fun l => !lids.contains l.lid), teams := s.teams.filter (fun t => !lids.contains t.key.lid),
                    threads := s.threads.filter (fun t => !lids.contains t.key.team.lid), ops := s.ops.filter (fun o => !lids.contains o.team.lid) }
  let ops := ls.flatMap (fun x => x.2.flatMap (·.2.2))
  { s with launches := s.launches ++ ls.map (·.1), teams := s.teams ++ ls.flatMap (fun x => x.2.map (·.1)),
           threads := s.threads ++ ls.flatMap (fun x => x.2.flatMap (·.2.1)), nextId := s.nextId + ops.length,
           ops := s.ops ++ (List.range ops.length).filterMap (fun i => (ops[i]?).map (fun o => { o with id := s.nextId + i })) }

/-- The bits of a word of the entry that a command writes and an image carries (R288): all RW fields but those of addresses, which are local,
and the offsets. -/
def travelMask (i : Nat) : Nat := if i = 1 || (8 ≤ i && i ≤ 12) || (14 ≤ i && i ≤ 16) then 0 else rwMask i

/-- A device with the masked bits of an image's words. -/
def takeImage (mask : Nat → Nat) (img : List Word) (d : VDev) : VDev :=
  { d with w := (List.range 18).foldl (fun w i =>
      let m := BitVec.ofNat 64 (mask i)
      vset w i ((vget w i 0 &&& ~~~m) ||| (img.getD i 0 &&& m))) d.w }

/-- Whether two devices' queues overlap; a device without queues has none that could. -/
def queuesMeet (d e : VDev) : Bool :=
  d.qcnt != 0 && e.qcnt != 0 && decide (d.qbase < e.qbase + e.qcnt) && decide (e.qbase < d.qbase + d.qcnt)

/-- Whether the fields of an entry break a range or a relation (R267, R268, R295). -/
def fieldsBad (s : State) (v : Nat) (d : VDev) : Bool :=
  let bsz := bits (d.word 17) 5 0
  decide (64 < d.qcnt) || decide (4096 < d.qbase + d.qcnt) || decide (48 < d.maxc) || decide (d.maxc < d.minc) ||
    decide (4096 < bits (d.word 7) 12 0) || decide (bsz < 20) || decide (39 < bsz) ||
    s.vds.any (fun p => p.1 ≠ v && p.2.state ≠ 0 && queuesMeet d p.2)

/-- An entry received: the RW fields that are not local, where they break no relation here (log entry 41), and the guest's view at the
stop. -/
def receiveEntry (s : State) (v : Nat) (ws : List Nat) : State :=
  let img := ws.map (BitVec.ofNat 64)
  let e := takeImage travelMask img (s.vd v)
  s.modVd v (fun d => { (if fieldsBad s v e then d else e) with stopView := (Vector.range 5).map (fun i => ws.getD (8 + i) 0) })

/-- The guest control page received. -/
def receivePage (s : State) (v : Nat) (ws : List Nat) : State :=
  let w := fun i => ws.getD i 0
  s.modVd v (fun d => { d with
    w := vset d.w 2 (BitVec.ofNat 64 (w 1)), fqcfg := BitVec.ofNat 64 (w 2), fqhead := BitVec.ofNat 32 (w 3), fqtail := BitVec.ofNat 32 (w 4),
    cntsel := BitVec.ofNat 10 (w 5) })

/-- Descriptors from words, up to the terminator. -/
def readDescs : List Nat → List (Nat × Nat)
  | a :: b :: rest => if b % 2 ^ 32 = 0 then [] else (a, b) :: readDescs rest
  | _ => []

/-- Whether a record must wait for homes in time fault (R351): those of the tables that map its plot and of the plot's frame, or of the
interrupt-remapping table. -/
def recordHeld (s : State) (v : Nat) (r : MigRecord) : Bool :=
  match r.kind with
  | 1 | 2 | 7 => tableHeld s v r.gpa || (match walk2 s 4 0 (s.vd v).s2root (r.gpa / 65536 * 65536 % 2 ^ 48) with
      | .ok l => frameHeld s (l.addr / 65536)
      | .error _ => false)
  | 5 => tablesHeld s v
  | _ => false

/-- One record of an image taken by a destination; its table of entries clears what was poisoned there (R347). -/
def receiveRecord (s : State) (v : Nat) (r : MigRecord) : State :=
  let ws := wordsOfBytes (r.payload.length / 8) r.payload
  match r.kind with
  | 1 | 2 => receivePlot s v r
  | 3 => receiveEntry s v ws
  | 4 => if ws.headD 0 = pageQueue then receivePage s v ws else receiveQueue s v ws
  | 5 => clearSectors (s.pokeBytes (s.vd v).irtbase (r.payload.take 4096)) (wholeSectors (s.vd v).irtbase (min 4096 r.payload.length))
  | 6 => s.modVd v (fun d => { d with imported := d.imported ++ [(d.lidBase + ws.headD 0 % 2 ^ 40, readDescs (ws.drop 2))] })
  | 7 => (match ensurePlot s v r.gpa with
      | some (h, s) =>
        let shr := bits (BitVec.ofNat 64 (ws.headD 0)) 60 60
        let s := match s.plot? h with
          | some p => if shr = 1 then chargeHbm s p false else s
          | none => s
        s.modPlot h (fun p => p.set 0 60 60 shr)
      | none => s)
  | _ => s

end Sys2Proof.Machine
end

