-- ==== Sys2Proof/Machine/Device.lean ====
section
/-!
DEFINITION. Sharing the package (R268, R269, R275 to R279, R281): pre-emption of a device on a cluster, slice boundaries, and the
commands of a device's lifecycle other than those of migration.
-/

namespace Sys2Proof.Machine

/-! Pre-emption (R277, R278). -/

/-- Threads of a device in the landing slots of a cluster. -/
def landersOn (s : State) (c v : Nat) : List Thread := s.threads.filter (fun t => t.vd = v && t.landing.isSome && t.clus = c)

/-- Threads of a device that a cluster holds: those of its teams there that have not left for another, and those that landed. -/
def threadsOn (s : State) (c v : Nat) : List Thread :=
  s.threads.filter (fun t => t.vd = v && t.st != .exited && (if t.landing.isSome then t.clus = c
    else !t.detached && (teamsOn s c).any (fun x => x.key == t.key.team)))

/-- Whether anything of a device is on a cluster. -/
def deviceOn (s : State) (c v : Nat) : Bool :=
  (teamsOn s c).any (fun t => t.vd = v) || !(landersOn s c v).isEmpty || (s.cluster c).bins.any (fun b => b.2.vd = v) ||
    (s.cluster c).spawners.any (fun w => w.vd = v)

/-- The groups of a device stop on a cluster, but for one whose must-save lists are being decided (R212, R277 step 1). -/
def stopSlots (s : State) (c v : Nat) : State :=
  let stops := fun (g : Group) =>
    (match s.team? g.team with
      | some t => decide (t.vd = v)
      | none => true) &&
    !(s.ms.reqs.any (fun q => (mustsOf q).isSome && q.thr.team == g.team && g.members.contains q.thr.tid))
  { s with cores := s.cores.map (fun p => if p.1 / 4 = c && p.2.slot.any stops then (p.1, { p.2 with slot := none }) else p) }

/-- A pre-emption begins: nothing of the device issues on the cluster any more, and its waiting spawners stand at their spawn. -/
def beginPreempt (s : State) (c v : Nat) : State :=
  stopSlots (s.modCluster c (fun x => { x with preempting := some v, saving := false, spawners := x.spawners.filter (fun w => w.vd ≠ v) })) c v

/-- A cluster's holder changes; the outgoing device is pre-empted where it has anything there (R278). -/
def setHolder (s : State) (c : Nat) (new : Option Nat) : State :=
  let old := (s.cluster c).holder
  if old == new then s
  else
    let s := s.modCluster c (fun x => { x with holder := new })
    match old with
    | some u => if (s.cluster c).preempting.isNone && deviceOn s c u then beginPreempt s c u else s
    | none => s

/-- Whether an operation is a command that a pre-emption records (R70, R277 step 2). -/
def recordable (o : EngOp) : Bool := takesPlace o.i && effectDue o

/-- Whether a pending system-scope fence of a member still waits for its stores through apertures (R200). -/
def fencedStores (s : State) (t : Thread) : Bool :=
  t.pfen && t.pfsc = 4 && s.ms.outs.any (fun o => o.thr == t.key && (o.posted || o.fenceOf.isSome) && !o.abandoned)

/-- Whether R277 step 2 is over on a cluster: no group of the device stands in a slot, every long-latency operation has completed
but for the commands to record, no trap is due, and no team awaits its rollback. -/
def quiet (s : State) (c v : Nat) : Bool :=
  let teams := (teamsOn s c).filter (fun t => t.vd = v)
  !(s.cores.any (fun p => p.1 / 4 = c && p.2.slot.any (fun g => teams.any (fun t => t.key == g.team) || (landersOn s c v).any (fun t => t.key.team == g.team)))) &&
    !(s.ms.reqs.any (fun q => q.vd = v && q.cluster = c)) &&
    !(s.ops.any (fun o => o.cluster = c && opVd s o = v && !(teams.any (fun t => t.key == o.team) && recordable o))) &&
    teams.all (fun t => !t.integrity) &&
    (threadsOn s c v).all (fun t => t.due.isEmpty && t.undelivered.isEmpty && !fencedStores s t)

/-- A thread as a pre-emption saves it: a released one is Runnable past its barrier instruction (R262), a landed one waits as a
migrant (R278), a timed wait and a yield are given up (R188, R213). -/
def savedThread (now : Nat) (t : Thread) : Thread :=
  let landed := t.landing.isSome
  let st := if landed then (if t.st == .halted then .halted else .migrating)
    else if t.releaseAt.isSome then (if t.haltReq then .halted else .runnable) else t.st
  let lines := t.lines.map (fun x => if x == .fetching then .absent else x)
  { t with st := st, landing := none, migTo := if landed then some (dieOfCluster t.clus) else t.migTo,
           migSince := if landed then now else t.migSince, releaseAt := none, waitUntil := none, yieldUntil := none, yieldHint := false,
           since := none, aged := none, pins := Vector.replicate 9 false, lines := if st != t.st then touched lines else lines }

/-- The block of a team begins its write-back, page by page, apart from words 0 to 2 of its header (R277 step 3). -/
def saveBlock (s : State) (c : Nat) (t : Team) : State :=
  match s.launch? t.key.lid with
  | none => s
  | some l =>
    let cmds := s.ops.filter (fun o => o.cluster = c && o.team == t.key && recordable o)
    let img := blockImage t l (s.vd t.vd).gen cmds
    (List.range (blockOf l t.key / 4096)).foldl (fun s i =>
      let a := if i = 0 then 24 else 4096 * i
      addWb s t.vd c { team := t.key, tid := 0 } (16 + i) (memRange img a (4096 * (i + 1) - a)) (frameAddr l t.key + a)) s

/-- A bin begins its write-back to the seed area and leaves its cluster (R49, R61). -/
def saveBin (s : State) (c : Nat) (b : Nat × Bin) : State :=
  match s.launch? b.2.lid with
  | none => s
  | some l =>
    let n := c * 16 + b.1
    let bytes := binWords b.2 l.addr (b.2.dueCyc - (s.die (dieOfCluster c)).cyc)
    let a := binAddr l c b.1
    let k : ThrKey := { team := { lid := l.lid, spawned := false, num := 0 }, tid := 0 }
    let s := (pagePieces 4 a bytes.length).foldl (fun s p => addWb s b.2.vd c k (2 ^ 20 + n) ((bytes.drop (p.1 - a)).take p.2) p.1) s
    (s.modLaunch l.lid (fun l => { l with savedBins := l.savedBins ++ [n] })).modCluster c (fun x => { x with bins := drop b.1 x.bins })

/-- R277 step 3: contexts, blocks, commands and bins of the device on a cluster begin their write-backs. -/
def saveDevice (s : State) (c v : Nat) : State :=
  let ts := threadsOn s c v
  let teams := (teamsOn s c).filter (fun t => t.vd = v)
  let mine := fun (o : EngOp) => decide (o.cluster = c) && teams.any (fun t => t.key == o.team) && recordable o
  let s := teams.foldl (fun s t => saveBlock s c t) s
  let ids := (s.ops.filter mine).map (·.id)
  let heldFor := fun (h : Held) => match h.what with
    | .command id => ids.contains id
    | _ => false
  let s := { s with ops := s.ops.map (fun o => if mine o then { o with recorded := true, phase := .held, apt := [] } else o),
                    ms := { s.ms with held := s.ms.held.filter (fun h => !heldFor h),
                                      outs := s.ms.outs.map (fun (o : OutReq) => if !o.posted && ids.any (fun i => o.op == some i) then { o with abandoned := true } else o) } }
  let s := ((s.cluster c).bins.filter (fun b => b.2.vd = v)).foldl (fun s b => saveBin s c b) s
  let s := ts.foldl (fun s t => evictThread (s.modThr t.key (savedThread s.now)) t.key) s
  s.modCluster c (fun x => { x with saving := true, landing := x.landing.filter (fun l => !(ts.any (fun t => t.key == l.2))) })

/-- R277 step 4: the cluster is free and the device's teams wait. -/
def releaseCluster (s : State) (c v : Nat) : State :=
  { (s.modCluster c (fun x => { x with preempting := none, saving := false })) with
    teams := s.teams.map (fun t => if t.cluster == some c && t.vd = v then { t with cluster := none } else t) }

/-! Stops of a whole device (R269, R281, R288, R354). -/

/-- The guest's time and counters now: GTIME, CYC on CD0 and CD1, 16.16 NCYC on CD0 and CD1. -/
def guestView (s : State) (v : Nat) : Vector Nat 5 :=
  let d := s.vd v
  let at_ := fun (i x : Nat) => (x + (d.word i).toNat) % 2 ^ 64
  #v[s.gtime v, at_ 9 (s.die 0).cyc, at_ 10 (s.die 1).cyc, at_ 11 (s.die 0).ncyc, at_ 12 (s.die 1).ncyc]

/-- The moment of a stop remembered. -/
def noteStop (s : State) (v : Nat) : State := s.modVd v (fun d => { d with stopAt := s.now, stopView := guestView s v })

/-- Whether a device stands on no cluster any more. -/
def stoppedAll (s : State) (v : Nat) : Bool := s.clusters.all (fun p => p.2.holder != some v && p.2.preempting != some v)

/-- Every cluster of a device is pre-empted; none is granted to it until a later boundary. -/
def stopDevice (s : State) (v : Nat) : State :=
  s.clusters.foldl (fun s p => if p.2.holder == some v then setHolder s p.1 none else s) s

/-- Plots the device's migration has not pulled when a pull fails are unrecoverable, and what waited on them is retried (R354). -/
def losePulls (s : State) (v : Nat) : State :=
  let lost := (s.mg.plots.filter (fun p => p.2.remote && p.2.mappers.any (fun m => m.1 = v))).map (·.1)
  lost.foldl (fun s h => serveBar2 (releasePlot (s.modPlot h (fun p => (p.set 0 63 61 6).set 0 59 59 0)) h)) s

/-- MIGSTOP ends once the source has made its final copy (R81, R288). -/
def finishCopy (s : State) (v : Nat) : State :=
  if finalReady s v then mgmtDone ((finalCopy s v).modVd v (fun d => { (d.setField 0 12 11 2) with stopTo := none })) 0x06 v 0 else s

/-- Whether a pull of a device has failed (R354): the plot has used up its attempts. -/
def pullFailed (s : State) (v : Nat) : Bool := s.mg.plots.any (fun p => p.2.remote && 3 ≤ p.2.attempts && p.2.mappers.any (fun m => m.1 = v))

/-- Steps 2 and 3 of R354, once the device stands. -/
def pullLoss (s : State) (v : Nat) : State :=
  let s := (losePulls (s.modVd v (fun d => { d with pullFrom := none })) v).event v 9 0 0
  { s with mg := s.mg.post 0 s.mg.mcqvec }

/-- What SUSPEND, MIGSTOP or a failed pull leaves once every cluster is free. -/
def finishStop (s : State) (v : Nat) : State :=
  match (s.vd v).stopTo with
  | some 3 =>
    if stoppedAll s v then
      let s := mgmtDone ((noteStop s v).modVd v (fun d => { (d.setField 0 2 0 3) with stopTo := none })) 0x03 v 0
      if pullFailed s v then pullLoss s v else s
    else s
  | some 6 =>
    if stoppedAll s v then
      let s := if (s.vd v).prun then noteStop s v else s
      finishCopy (s.modVd v (fun d => { d with stopTo := some 8 })) v
    else s
  | some 8 => finishCopy s v
  | some 7 =>
    if stoppedAll s v then
      pullLoss ((noteStop s v).modVd v (fun d => { ((d.setField 0 2 0 3).setField 0 12 11 0).setField 16 0 0 0 with stopTo := none })) v
    else s
  | _ => s

/-- PREEMPTION_COMPLETE (R277): step 3 begins once step 2 is over, and the cluster is free once every write-back is made. -/
def execPreemptionComplete (c v : Nat) (s : State) : Out :=
  let x := s.cluster c
  if s.power != .on then .next s
  else if x.preempting != some v then .next (finishStop s v)
  else if x.saving then
    (if s.ms.wbs.any (fun w => w.vd = v && w.cluster = c) then .next s else .next (finishStop (releaseCluster s c v) v))
  else
    let s := stopSlots s c v
    if quiet s c v then .next (saveDevice s c v) else .next s

/-! Slice boundaries (R275, R276). -/

/-- Whether a launch was started, or its record startable, just before a global time. -/
def workBefore (s : State) (bound : Nat) (l : Launch) : Bool :=
  (l.phase == .started && decide (l.startedAt < bound)) ||
    ((l.phase == .started || (startable s l && ((s.vd l.vd).queue l.j).pend.head? == some l.lid)) &&
      decide (l.depsAt < bound) && decide (l.start ≤ (bound - 1 + (s.vd l.vd).gtoff) % 2 ^ 64))

/-- Whether a device had something for a cluster to do just before a boundary (R276). -/
def hasWork (s : State) (bound v : Nat) : Bool :=
  s.launches.any (fun l => l.vd = v && workBefore s bound l) ||
    s.teams.any (fun t => t.vd = v && (s.launch? t.key.lid).any (workBefore s bound)) ||
    s.threads.any (fun t => t.vd = v && t.st == .migrating && decide (t.migSince < bound))

/-- Whether a device contends in some partition, judged by the state before a boundary; and whether in partition k. -/
def contends (s : State) (bound v : Nat) : Bool :=
  (s.vd v).runs && decide ((s.vd v).runFrom < bound) && (s.vd v).pset != 0 && hasWork s bound v
def inPart (s : State) (k v : Nat) : Bool := (s.vd v).pset.testBit k

/-- The pass value of a device, and the state with it set. -/
def setPass (s : State) (v x : Nat) : State := s.modVd v (fun d => { d with w := vset d.w 4 (BitVec.ofNat 64 x) })

/-- Devices that newly contend are raised to the least pass of those they compete with. -/
def raisePasses (s : State) (now_ : List Nat) : State :=
  let prev := s.mg.contenders
  now_.foldl (fun s v =>
    let q := prev.filter (fun u => Nat.land (s.vd u).pset (s.vd v).pset ≠ 0)
    if prev.contains v || q.isEmpty then s else setPass s v (max (s.vd v).pass (leastOf (q.map (fun u => (s.vd u).pass))))) s

/-- The extra clusters of each contender of a partition, in the order of pass then index. -/
def extras (s : State) (k : Nat) (vs : List Nat) : List (Nat × Nat) :=
  let order := vs.foldl (fun l v =>
    l.filter (fun u => (s.vd u).pass ≤ (s.vd v).pass) ++ v :: l.filter (fun u => (s.vd v).pass < (s.vd u).pass)) []
  let step := fun (acc : Nat × List (Nat × Nat)) (v : Nat) =>
    let d := s.vd v
    let g := if d.weight = 0 then 0 else min acc.1 (d.maxc - d.minc)
    (acc.1 - g, acc.2 ++ [(v, g)])
  (order.foldl step (vget s.mg.widths k 48 - (vs.map (fun v => (s.vd v).minc)).sum, [])).2

/-- The scheduled clusters of a partition in service. -/
def usable (s : State) (k : Nat) : List Nat :=
  if (vget s.parts k { st := 0, rcnt := 0, failm := 0 }).st ≠ 0 then []
  else ((List.range 48).map (fun j => 48 * k + j)).filter (scheduled s)

/-- Which device each usable cluster of a partition is granted to: first those kept, then the lowest free ones, devices in
ascending index. -/
def grants (s : State) (k : Nat) (held : List (Nat × Nat)) : List (Nat × Nat) :=
  let cs := usable s k
  let kept := held.flatMap (fun p => ((cs.filter (fun c => (s.cluster c).holder == some p.1)).take p.2).map (fun c => (c, p.1)))
  let step := fun (acc : List (Nat × Nat)) (p : Nat × Nat) =>
    let n := p.2 - (acc.filter (fun g => g.2 = p.1)).length
    acc ++ ((cs.filter (fun c => !(acc.any (fun g => g.1 = c)))).take n).map (fun c => (c, p.1))
  held.foldl step kept

/-- The grant of one partition. -/
def grantPart (contenders : List Nat) (s : State) (k : Nat) : State :=
  let vs := contenders.filter (inPart s k)
  let ex := extras s k vs
  let of_ := fun (v : Nat) => ((ex.find? (fun p => p.1 = v)).map (·.2)).getD 0
  let held := vs.map (fun v => (v, (s.vd v).minc + of_ v))
  let gs := grants s k held
  let s := ex.foldl (fun s p => setPass s p.1 (((s.vd p.1).pass + 2 ^ 20 / (s.vd p.1).weight * p.2) % 2 ^ 64)) s
  (List.range 48).foldl (fun s j => setHolder s (48 * k + j) ((gs.find? (fun g => g.1 = 48 * k + j)).map (·.2))) s

/-- Passes brought down together where the least of devices in states 2, 3 and 6 has passed 2^62. -/
def lowerPasses (s : State) : State :=
  let vs := (s.vds.filter (fun p => p.2.state = 2 || p.2.state = 3 || p.2.state = 6)).map (·.1)
  let m := leastOf (vs.map (fun v => (s.vd v).pass))
  if 2 ^ 62 < m then vs.foldl (fun s v => setPass s v ((s.vd v).pass - m)) s else s

/-- SLICE_BOUNDARY (R268, R275, R276): new widths and slice length take effect and the clusters are granted. -/
def execSliceBoundary (s : State) : Out :=
  if s.power != .on || s.now < s.mg.boundary then .next s
  else
    let bound := s.mg.boundary
    let len := s.mg.sliceNext * 1000
    let s := { s with mg := { s.mg with slice := s.mg.sliceNext, widths := s.mg.widthsNext, boundary := (s.now / len + 1) * len } }
    let vs := (s.vds.map (·.1)).filter (contends s bound)
    let s := raisePasses s vs
    let s := lowerPasses ((List.range 8).foldl (grantPart vs) s)
    .next { s with mg := { s.mg with contenders := vs } }

/-! Table entries from images (R267, R268). -/

/-- The bits CREATE takes from its image. -/
def createMask (i : Nat) : Nat := if 9 ≤ i && i ≤ 13 then 0 else if i = 16 then 0xFFFFFFFFF0000 else rwMask i

/-- Whether an image can be read whole: 256 B. -/
def readableImage (img : List Word) : Bool := decide (32 ≤ img.length)

/-- Whether, with a device's entry so, the guaranteed clusters of some partition add up to more than its width (R275). -/
def overGuaranteed (s : State) (v : Nat) (d : VDev) : Bool :=
  (List.range 8).any (fun k =>
    let others := (s.vds.filter (fun p => p.1 ≠ v && (p.2.state = 2 || p.2.state = 3 || p.2.state = 6) && p.2.pset.testBit k)).map (fun p => p.2.minc)
    d.pset.testBit k && decide (vget s.mg.widthsNext k 48 < others.sum + d.minc))

/-- A free device's entry as a creation begins: only the generation and the debug block are kept. -/
def freshDevice (d : VDev) : VDev :=
  { VDev.empty with w := vset VDev.empty.w 0 (setBits 0 63 32 d.gen), dbg := d.dbg, wp := d.wp }

/-- CREATE (R269). -/
def execCreate (v : Nat) (img : List Word) (s : State) : Out :=
  mgmt (.create v img) 0x01 v s (fun s =>
    if (s.vd v).state ≠ 0 then (1, s)
    else if !readableImage img then (3, s)
    else
      let d := takeImage createMask img (freshDevice (s.vd v))
      if fieldsBad s v d then (2, s) else (0, s.modVd v (fun _ => d.setField 0 2 0 1)))

/-- START (R269, R275). -/
def execStart (v : Nat) (s : State) : Out :=
  mgmt (.start v) 0x02 v s (fun s =>
    if (s.vd v).state ≠ 1 then (1, s)
    else if overGuaranteed s v (s.vd v) then (2, s)
    else (0, s.modVd v (fun d => { (d.setField 0 2 0 2) with runFrom := s.now })))

/-- SUSPEND (R269): accepted at once, complete once every cluster is free. -/
def execSuspend (v : Nat) (s : State) : Out :=
  command (.suspend v) 0x03 v s (fun s =>
    if (s.vd v).state ≠ 2 then (some 1, s)
    else (none, finishStop (stopDevice (s.modVd v (fun d => { d with stopTo := some 3 })) v) v))

/-- The offsets of a device that goes on after a stop of some nanoseconds (R281). -/
def setOffsets (s : State) (v stopped : Nat) : State :=
  let d := s.vd v
  let minus := fun (x y : Nat) => BitVec.ofNat 64 x - BitVec.ofNat 64 y
  let view := fun (i : Nat) => vget d.stopView i 0
  let words := [(8, minus (view 0 + max 1 stopped) s.now), (9, minus (view 1) (s.die 0).cyc), (10, minus (view 2) (s.die 1).cyc),
    (11, minus (view 3) (s.die 0).ncyc), (12, minus (view 4) (s.die 1).ncyc)]
  s.modVd v (fun d => { d with w := words.foldl (fun w p => vset w p.1 p.2) d.w })

/-- A stopped device runs again. -/
def runAgain (s : State) (v stopped : Nat) : State :=
  (setOffsets s v stopped).modVd v (fun d => { (d.setField 0 2 0 2) with runFrom := s.now })

/-- RESUME (R269, R281). -/
def execResume (v : Nat) (s : State) : Out :=
  mgmt (.resume v) 0x04 v s (fun s => if (s.vd v).state ≠ 3 then (1, s) else (0, runAgain s v (s.now - (s.vd v).stopAt)))

/-- KILL (R269, R279): complete once the drain is. -/
def execKill (v : Nat) (s : State) : Out :=
  command (.kill v) 0x09 v s (fun s =>
    let st := (s.vd v).state
    if st = 1 || st = 2 || st = 3 || st = 6 then (none, (killDevice s v).modVd v (fun d => { d with stopTo := some 5 })) else (some 1, s))

/-- The next generation of a device (R77, R282). -/
def bumpGen (d : VDev) : VDev := d.setField 0 63 32 (d.gen + 1)

/-- Whether a memory-side die has still to perform a request of a device that had reached it at the kill. -/
def drainsStill (s : State) (v : Nat) : Bool :=
  (s.vd v).drainOn.any (fun m => (s.md m).timeFaultSince.isSome) || s.ms.stores.any (fun m => m.vd = v) ||
    s.ms.reqs.any (fun q => q.vd = v && homeReq q) || s.ms.wbs.any (fun w => w.vd = v && w.tw = 0)

/-- DRAIN_COMPLETE (R279 step 5): no request of the device is outstanding; those that had reached a memory-side die in time fault are until
they have been performed, and its outbound requests, being abandoned, are not (R298). -/
def execDrainComplete (v : Nat) (s : State) : Out :=
  let d := s.vd v
  if d.state ≠ 4 || drainsStill s v then .next s
  else
    let s := s.modVd v (fun d => { (bumpGen (d.setField 0 2 0 5)) with stopTo := none })
    let s := { s with ms := { s.ms with tlb := s.ms.tlb.filter (fun e => e.vd ≠ v), reqs := s.ms.reqs.filter (fun q => q.vd ≠ v),
                                        wbs := s.ms.wbs.filter (fun w => w.vd ≠ v) } }
    .next (if d.stopTo == some 5 then mgmtDone s 0x09 v 0 else s)

/-- DRAIN_TIMEOUT (R279, R372): a drain not complete after 100 µs because a part has failed becomes the reset of that part's
partition. -/
def execDrainTimeout (v : Nat) (s : State) : Out :=
  let d := s.vd v
  if d.state = 4 && d.drainFrom + 100000 ≤ s.now then
    .next (d.drainOn.foldl (fun s k => if (s.md k).timeFaultSince.isSome then escalatePartition s k (k / 4) else s) s)
  else .next s

/-- A device becomes free: everything of it goes, and what KILL and DESTROY reset is reset. -/
def freeDevice (s : State) (v : Nat) (bump : Bool) : State :=
  let s := leavePlots (dropDevice s v) v
  let g := (s.vd v).gen + (if bump then 1 else 0)
  let s := s.modVd v (fun _ => { VDev.empty with w := vset VDev.empty.w 0 (setBits 0 63 32 g) })
  { s with musts := s.musts.filter (fun m => m.vd ≠ v) }

/-- DESTROY (R269). -/
def execDestroy (v : Nat) (s : State) : Out :=
  mgmt (.destroy v) 0x0A v s (fun s =>
    match (s.vd v).state with
    | 1 => (0, freeDevice s v true)
    | 5 => (0, freeDevice s v false)
    | _ => (1, s))

/-- Whether SETF would change a device's queues. -/
def queuesChange (d e : VDev) : Bool := d.qbase ≠ e.qbase || d.qcnt ≠ e.qcnt

/-- SETF (R268, R269, R275). -/
def execSetf (v : Nat) (img : List Word) (mask : Word) (s : State) : Out :=
  mgmt (.setf v img mask) 0x0C v s (fun s =>
    let d := s.vd v
    let st := d.state
    if !(st = 1 || st = 2 || st = 3 || st = 6) then (1, s)
    else if !readableImage img then (3, s)
    else
      let e := takeImage (fun i => if bit mask i then rwMask i else 0) img d
      let counted := (e.minc ≠ d.minc || e.pset ≠ d.pset) && st ≠ 1
      let queuesBad := queuesChange d e && (st ≠ 1 || d.queues.any (fun q => !q.2.pend.isEmpty))
      if fieldsBad s v e || queuesBad || bits (e.word 17) 5 0 ≠ bits (d.word 17) 5 0 || (counted && overGuaranteed s v e) then (2, s)
      else (0, s.modVd v (fun _ => if queuesChange d e then { e with queues := [] } else e)))

/-- A command whose OPC is none of R291's completes with STATUS 4. -/
def execMgmtUndefinedOpc (opc v : Nat) (s : State) : Out :=
  if 1 ≤ opc && opc ≤ 0x12 then .next s else mgmt (.mgmtUndefinedOpc opc v) opc v s (fun s => (4, s))

end Sys2Proof.Machine
end

