-- ==== Sys2Proof/Machine/Migrate.lean ====
section
/-!
DEFINITION. Live migration (R81, R281, R287 to R289, R293, R349, R354, R385): its commands, the records a destination takes, and pulls.
-/

namespace Sys2Proof.Machine

/-! Commands at the source (R269, R288). -/

/-- Whether a transport word has one of the two forms of R293. -/
def transportOk (x : Word) : Bool := bits x 63 62 < 2

/-- MIGOUT (R269, R288 step 1). -/
def execMigout (v : Nat) (transport : Word) (s : State) : Out :=
  mgmt (.migout v transport) 0x05 v s (fun s =>
    let st := (s.vd v).state
    if !(st = 2 || st = 3) then (1, s)
    else if !transportOk transport then (2, s)
    else
      let run := b2n (st = 2)
      let s := s.modVd v (fun d => { (((d.setField 0 2 0 6).setField 0 12 11 1).setField 0 3 3 run).setField 16 0 0 1 with transport := transport })
      (0, copyPlots (takeBitmap s v).2 v))

/-- MIGSTOP (R269, R288 steps 3 and 4): complete once every cluster is free and the final copy is made. -/
def execMigstop (v : Nat) (s : State) : Out :=
  command (.migstop v) 0x06 v s (fun s =>
    if (s.vd v).state ≠ 6 || (s.vd v).mph ≠ 1 then (some 1, s)
    else (none, finishStop (stopDevice (s.modVd v (fun d => { d with stopTo := some 6 })) v) v))

/-- DBSWAP (R287); each round of a pre-copy copies the plots the bitmap names (R288 step 2). -/
def execDbswap (v : Nat) (s : State) : Out :=
  mgmt (.dbswap v) 0x0E v s (fun s =>
    let d := s.vd v
    if d.state = 0 || 6 < d.state then (1, s)
    else
      let (b, s) := takeBitmap s v
      let s := hostReply s v .success b
      (0, if d.state = 6 && d.mph = 1 then copyDirty s v b else s))

/-! Commands at the destination (R269, R288, R293). -/

/-- MIGIN (R269, R275, R293). -/
def execMigin (v : Nat) (transport : Word) (img : List Word) (s : State) : Out :=
  mgmt (.migin v transport img) 0x0B v s (fun s =>
    if (s.vd v).state ≠ 0 then (1, s)
    else if !readableImage img then (3, s)
    else
      let d := takeImage createMask img (freshDevice (s.vd v))
      if fieldsBad s v d || overGuaranteed s v d || !transportOk transport then (2, s)
      else
        let d := { (d.setField 0 2 0 6).setField 0 12 11 3 with pullFrom := some transport, transport := transport, lidBase := s.nextId }
        (0, { s with nextId := s.nextId + 2 ^ 40 }.modVd v (fun _ => d)))

/-- The blocks of a device's waiting teams take its own generation (R288 step 5). -/
def rewriteVgens (s : State) (v : Nat) : State :=
  (s.teams.filter (fun t => t.vd = v && !t.firstPlacement && t.cluster.isNone)).foldl (fun s t =>
    match s.launch? t.key.lid with
    | some l =>
      let s := s.walked .iod v (frameAddr l t.key + 96)
      (match walkBoth s v (frameAddr l t.key + 96) .any with
        | .ok x => if hbmDpa x.dpa then s.pokeBytes x.dpa (leBytes 4 (s.vd v).gen) else s
        | .error _ => s)
    | none => s) s

/-- Whether a home in time fault holds the write of some such block. -/
def vgensHeld (s : State) (v : Nat) : Bool :=
  s.teams.any (fun t => t.vd = v && !t.firstPlacement && t.cluster.isNone && (s.launch? t.key.lid).any (fun l =>
    match walkBoth s v (frameAddr l t.key + 96) .any with
    | .ok x => homeHolds s x.dpa
    | .error (.homeHolds _) => true
    | .error _ => false))

/-- A must-save list of an image is admitted, or Pelelo is told that the device runs without it (R385). -/
def admitImported (s : State) (v : Nat) (m : Nat × List (Nat × Nat)) : State :=
  let ds := m.2.map (fun d => ({ w0 := BitVec.ofNat 64 d.1, w1 := BitVec.ofNat 64 d.2 } : Desc16))
  if ds.any (·.bad) || 64 < ds.length then s.event v 10 m.1 3
  else
    let r := admitDescs s v m.1 ds
    if r.1 = 0 then r.2 else r.2.event v 10 m.1 r.1

/-- Plots not yet copied are held, to be pulled from the source (R289): their frames are free, and no longer charged. -/
def holdUncopied (s : State) (v : Nat) : State :=
  (plotsOf s v).foldl (fun s x =>
    if x.2.2.pulled || x.2.2.state ≠ 0 then s
    else
      let s := chargeHbm (mapPlot s x.2.1 true) x.2.2 false
      let s := s.modPlot x.2.1 (fun p => (p.set 0 63 61 3).set 0 59 59 1)
      { s with ms := { s.ms with tlb := s.ms.tlb.filter (fun e => e.dpage / 16 ≠ x.2.2.frame) },
               mg := { s.mg with freeFrames := s.mg.freeFrames ++ [x.2.2.frame] } }) s

/-- The destination runs (R281, R288 steps 5 and 6). -/
def runDestination (s : State) (v pauseNs : Nat) : State :=
  let s := rewriteVgens (holdUncopied s v) v
  let s := ((s.vd v).imported).foldl (fun s m => admitImported s v m) s
  (runAgain s v pauseNs).modVd v (fun d => { (d.setField 0 12 11 0) with imported := [] })

/-- MIGDONE (R269): the source is killed without waiting, its plots kept for pulls; the destination runs. -/
def execMigdone (v pauseNs : Nat) (s : State) : Out :=
  mgmt (.migdone v pauseNs) 0x07 v s (fun s =>
    let d := s.vd v
    if d.state = 6 && d.mph = 2 then (0, (killCore s v).modVd v (fun d => bumpGen (d.setField 0 2 0 5)))
    else if d.state = 6 && d.mph = 3 then (0, runDestination s v pauseNs)
    else (1, s))

/-- MIGABORT (R269, R282). -/
def execMigabort (v : Nat) (s : State) : Out :=
  mgmt (.migabort v) 0x08 v s (fun s =>
    let d := s.vd v
    let off := fun (s : State) (st : Nat) => s.modVd v (fun d => ((d.setField 0 2 0 st).setField 0 12 11 0).setField 16 0 0 0)
    if d.state ≠ 6 || d.mph = 0 then (1, s)
    else if d.mph = 3 then (0, freeDevice s v true)
    else if !d.prun then (0, off s 3)
    else if d.mph = 1 then (0, off s 2)
    else (0, runAgain (off s 2) v (s.now - d.stopAt)))

/-! Records (R293, R349). -/

/-- How often a record of a type and address has been asked for again, and the device with that forgotten. -/
def retriesOf (d : VDev) (r : MigRecord) : Nat := ((d.retries.find? (fun x => x.1 == (r.kind, r.gpa))).map (·.2)).getD 0
def forgetRetries (r : MigRecord) (d : VDev) : VDev := { d with retries := d.retries.filter (fun x => x.1 != (r.kind, r.gpa)) }

/-- A record whose CRC fails is asked for again, at most three times, and then Pelelo receives an event: a plot by a pull request, a record of
another type by its header (log entry 41). -/
def badRecord (s : State) (v : Nat) (r : MigRecord) : State :=
  let n := retriesOf (s.vd v) r
  let s := s.modVd v (forgetRetries r)
  if n < 3 then
    sendRecords (s.modVd v (fun d => { d with retries := d.retries ++ [((r.kind, r.gpa), n + 1)] })) v
      [record (if r.kind = 1 || r.kind = 2 then 9 else r.kind) r.gpa []]
  else s.event v 11 r.kind r.gpa

/-- A pull request answered by a source that still keeps the device's memory. -/
def answerPull (s : State) (v : Nat) (r : MigRecord) : State :=
  match plotAt s v r.gpa with
  | some (h, p) => if p.state ≤ 2 && frameHeld s p.frame then s else sendPlot v s (r.gpa, h, p)
  | none => s

/-- A record of another type asked for again by its header alone (log entry 41): every record of that type, and at that address, is sent once
more. -/
def answerAgain (s : State) (v : Nat) (r : MigRecord) : State :=
  sendRecords s v ((imageRecords s v).filter (fun x => x.kind = r.kind && x.gpa = r.gpa))

/-- The records that waited for homes in time fault are taken, those of one device in their order (R351). -/
def settleInbox (s : State) : State :=
  s.mg.inbox.foldl (fun s x =>
    if recordHeld s x.1 x.2 || s.mg.inbox.any (fun y => y.1 = x.1) then { s with mg := { s.mg with inbox := s.mg.inbox ++ [x] } }
    else receiveRecord s x.1 x.2) { s with mg := { s.mg with inbox := [] } }

/-- MIGRATION_RECORD (R289, R293): a destination takes a record of the image, or keeps it while a home holds it; a source answers a pull
request, or sends again what it is asked for. -/
def execMigrationRecord (v : Nat) (r : MigRecord) (s : State) : Out :=
  let d := s.vd v
  if s.power != .on then .next s
  else if r.kind = 9 then .next (if d.state = 5 || d.state = 6 then answerPull s v r else s)
  else if d.state = 6 && d.mph = 2 && r.payload.isEmpty && 3 ≤ r.kind && r.kind ≤ 7 then .next (answerAgain s v r)
  else if d.state ≠ 6 || d.mph ≠ 3 then .next s
  else if !recordGood r then .next (badRecord s v r)
  else
    let s := s.modVd v (forgetRetries r)
    if recordHeld s v r || s.mg.inbox.any (fun x => x.1 = v) then .next { s with mg := { s.mg with inbox := s.mg.inbox ++ [(v, r)] } }
    else .next (receiveRecord s v r)

/-! Pulls (R289, R354). -/

/-- A pull of a device has failed: every cluster is pre-empted, and the device will be suspended. A suspension in progress goes on to that
end, a MIGSTOP is overtaken (log entry 40), and a device that stands suspended loses its plots at once. -/
def pullFails (s : State) (v : Nat) : State :=
  let mark := fun (p : Plot) => if p.remote && p.mappers.any (fun m => m.1 = v) then { p with attempts := 3 } else p
  let s := { s with mg := { s.mg with plots := s.mg.plots.map (fun (p : Nat × Plot) => (p.1, mark p.2)) } }
  let d := s.vd v
  let stops := fun (s : State) => finishStop (stopDevice (s.modVd v (fun d => { d with stopTo := some 7 })) v) v
  match d.stopTo with
  | some 6 => stops (overtakeStop s v)
  | some 8 => stops (mgmtDone s 0x06 v 1)
  | some _ => s
  | none => if d.state = 3 then pullLoss s v else if d.state = 2 || d.state = 6 then stops s else s

/-- The device whose migration a plot is pulled for. -/
def pullerOf (p : Plot) : Nat := (p.mappers.map (·.1)).headD 0

/-- What a pull has brought is written to the plot's frame, once it has one and its homes and those of the leaves serve (R351). -/
def landPull (s : State) (h : Nat) : State :=
  match s.plot? h with
  | none => s
  | some p =>
    match p.arrived with
    | none => s
    | some (bytes, bad) =>
      let v := pullerOf p
      if s.power != .on || p.state ≠ 4 || !p.alloc || frameHeld s p.frame || leavesHeld s p || vgensHeld s v then s
      else rewriteVgens (promoted (s.modPlot h (fun p => { p with pulled := true })) h p bytes bad) v
def settlePulls (s : State) : State := (s.mg.plots.filter (·.2.arrived.isSome)).foldl (fun s p => landPull s p.1) s

/-- PULL_RESPONSE (R289, R293, R349): the pulled plot is promoted; a bad record is asked for again; a source that answers anything
else has released the memory. -/
def execPullResponse (h : Nat) (r : MigRecord) (s : State) : Out :=
  match look h s.mg.plots with
  | none => .next s
  | some p =>
    let v := pullerOf p
    if s.power != .on || p.state ≠ 4 || !p.remote then .next s
    else if r.kind ≠ 1 && r.kind ≠ 2 then .next (pullFails s v)
    else if !recordGood r then .next (badRecord s v r)
    else match recordBytes r with
      | some bytes =>
        .next (landPull ((s.modVd v (forgetRetries r)).modPlot h (fun p => { p with arrived := some (bytes, recordSpoilt r) })) h)
      | none => .next s

/-- PULL_TIMEOUT (R354): a request unanswered for 2 ms is made again; the third one, or a route that is down, Furrow's or PCI Express's,
fails the pull. -/
def execPullTimeout (x : PullCheck) (s : State) : Out :=
  let v := x.vd
  let late := s.mg.plots.find? (fun p => p.2.remote && p.2.state = 4 && p.2.arrived.isNone &&
    p.2.mappers.any (fun m => m.1 = v) && decide (p.2.attempts < 3) && decide (p.2.askedAt + 2000000 ≤ s.now))
  let overFurrow := match (s.vd v).pullFrom with
    | some x => bits x 63 62 = 1
    | none => false
  let down := (x.routeDown || (overFurrow && decide (144 ≤ s.mg.portsDown.length))) &&
    s.mg.plots.any (fun p => p.2.remote && p.2.mappers.any (fun m => m.1 = v))
  if s.power != .on then .next s
  else if down then .next (pullFails s v)
  else match late with
    | none => .next s
    | some (h, p) =>
      if p.attempts < 2 then .next (pullRequest (s.modPlot h (fun p => { p with attempts := p.attempts + 1, askedAt := s.now })) p)
      else .next (pullFails s v)

end Sys2Proof.Machine
end

