-- ==== Sys2Proof/Machine/HostIf.lean ====
section
/-!
DEFINITION. What the host writes and asks for (R6, R247, R263, R270, R275, R291, R292, R295, R304 to R310, R340 to R342, R346, R355,
R365): registers, scheduler and power settings, DVFS, the debugger, attestation.
-/

namespace Sys2Proof.Machine

/-! Scheduler registers (R263, R275). -/

/-- SCHCTL (R275): a length outside 50 to 10,000 leaves the field unchanged. -/
def execSchctlWrite (x : Word) (s : State) : Out :=
  let n := bits x 13 0
  .next (if homesOpen s && 50 ≤ n && n ≤ 10000 then { s with mg := { s.mg with sliceNext := n } } else s)

/-- The widths a PWIDTH write leaves: fields outside 1 to 48 unchanged. -/
def newWidths (s : State) (x : Word) : Vector Nat 8 :=
  (List.range 8).foldl (fun w k =>
    let n := bits x (6 * k + 5) (6 * k)
    if 1 ≤ n && n ≤ 48 then vset w k n else w) s.mg.widthsNext

/-- The guaranteed clusters of a partition: MINC of the devices in states 2, 3 and 6 that share it. -/
def guaranteed (s : State) (k : Nat) : Nat :=
  ((s.vds.filter (fun p => (p.2.state = 2 || p.2.state = 3 || p.2.state = 6) && p.2.pset.testBit k)).map (fun p => p.2.minc)).sum

/-- PWIDTH (R275): refused as a whole where a guaranteed sum would exceed a width. -/
def execPwidthWrite (x : Word) (s : State) : Out :=
  let w := newWidths s x
  .next (if !homesOpen s || (List.range 8).any (fun k => decide (vget w k 48 < guaranteed s k)) then s else { s with mg := { s.mg with widthsNext := w } })

/-- DSCTL of a die (R263). -/
def execDsctlWrite (die : Nat) (x : Word) (s : State) : Out :=
  let n := bits x 3 0
  .next (if !homesOpen s then s else s.modDie die (fun d => { d with hstr := bit x 32, brw := bits x 31 24, neng := if 1 ≤ n && n ≤ 12 then n else d.neng }))

/-! DVFS (R307 to R310). -/

/-- A die whose step changes toward a target. -/
def startChange (d : Die) (x : Nat) : Die := { d with busy := true, target := x }

/-- FSTEP (R307, R308, R310): a write while BUSY is held; after a trip it starts nothing until the die stands at step 0 and its junctions
have cooled. -/
def execFstepWrite (die : Nat) (x : Word) (s : State) : Out :=
  let n := bits x 3 0
  let d := s.die die
  if 10 < n || !homesOpen s then .next s
  else
    let d := { d with fstep := n, hot := d.hot && !(Config.cooled s.free && !d.busy && d.fcur = 0) }
    let d := if d.hot then d else if d.busy then { d with heldStep := some n } else if n = d.fcur then d else startChange d n
    .next (s.modDie die (fun _ => d))

/-- The end of a change: a die that has tripped meanwhile goes to step 0 (R310); else a held write that differs starts another. -/
def endChange (d : Die) : Die :=
  if d.hot && d.fcur ≠ 0 then startChange d 0
  else match d.heldStep with
  | some n => if n = d.fcur then { d with busy := false, heldStep := none } else { startChange d n with heldStep := none }
  | none => { d with busy := false }

/-- DVFS_SWITCH (R308): the clock stops for the relock, and then runs at the new step. -/
def execDvfsSwitch (die : Nat) (s : State) : Out :=
  let d := s.die die
  if !d.busy || !homesOpen s then .next s
  else if !d.stopped then .next (s.modDie die (fun d => { d with stopped := true }))
  else .next (s.modDie die (fun d => endChange { d with fcur := d.target, stopped := false }))

/-- THERMAL_TRIP (R310). -/
def execThermalTrip (die : Nat) (s : State) : Out :=
  let d := { s.die die with hot := true, heldStep := none }
  let d := if d.busy || d.fcur = 0 then d else startChange d 0
  .next (if !homesOpen s then s else (s.modDie die (fun _ => d)).event 0 12 die 0)

/-- POWER_MEASURE (R304). -/
def execPowerMeasure (die milliwatts : Nat) (s : State) : Out :=
  .next (if !homesOpen s then s else s.modDie die (fun d => { d with pmeas := milliwatts % 2 ^ 32 }))

/-! Registers without behaviour (R6). -/

/-- A word with the masked bits of a written one. -/
def maskWrite (old x : Word) (mask : Nat) : Word := (old &&& ~~~(BitVec.ofNat 64 mask)) ||| (x &&& BitVec.ofNat 64 mask)

/-- Counts that a write of 1 at a bit clears (RW1C). -/
def clearAt (x : Word) (b n : Nat) : Nat := if bit x b then 0 else n

/-- Eight bytes of an MSI-X table (R292, R295). -/
def msixWrite (s : State) (fn off : Nat) (x : Word) : State :=
  let old := (look fn s.mg.msixTab).getD []
  { s with mg := { s.mg with msixTab := put fn (memWriteN old (off / 8 * 8) (leBytes 8 x.toNat)) s.mg.msixTab }.postPending }

/-- A word of the SR-IOV capability, in the layout of PCI Express (log entry 52): VF Enable is bit 0 of word 0x08, NumVFs bits [15:0] of word 0x10 (R318). -/
def sriovWrite (s : State) (off : Nat) (x : Word) : State :=
  if off = 0x08 then { s with mg := { s.mg with vfEnable := bit x 0 } }
  else if off = 0x10 then { s with mg := { s.mg with numVfs := bits x 15 0 } }
  else s

/-- The first word of a function's MSI-X capability, in the layout of PCI Express (log entry 52): bit 31 enables, bit 30 masks the function (R318). -/
def msixCapWrite (s : State) (fn off : Nat) (x : Word) : State :=
  if off = 0 && fn ≤ 512 then { s with mg := { s.mg with msixCtl := put fn (b2n (bit x 31) + 2 * b2n (bit x 30)) s.mg.msixCtl }.postPending }
  else s

/-- A word of a device's debug block (R340). -/
def debugWrite (s : State) (v w : Nat) (x : Word) : State :=
  let set := fun (mask : Nat) => s.modVd v (fun d => { d with dbg := vset d.dbg w (maskWrite (vget d.dbg w 0) x mask) })
  match w with
  | 0 => set 0xFFFFFFFFFFFFF00F
  | 1 => set 0xFFFF0007
  | 3 => set 0xFFFFFFFF
  | 4 => set 0xFFFFFFFFFF00
  | 6 => if bit x 1 then s.modVd v (fun d => { d with dbg := vset d.dbg 6 (setBits (vget d.dbg 6 0) 1 1 0) }) else s
  | _ => s

/-- A word of a watchpoint (R355). -/
def watchWrite (s : State) (v w : Nat) (x : Word) : State :=
  s.modVd v (fun d =>
    let old := vget d.wp w 0
    let new :=
      if w % 2 = 0 then maskWrite old x 0xFFFFFFFFFFF8
      else
        let n := bits x 8 4
        let y := maskWrite old x (if 3 ≤ n && n ≤ 21 then 0x1FF else 0xF)
        let y := if bit x 63 then setBits y 63 63 0 else y
        if bit x 62 then setBits y 62 62 0 else y
    { d with wp := vset d.wp w new })

/-- A word of MERRd (R346) and of INTEGd (R365). -/
def merrWrite (s : State) (d : Nat) (x : Word) : State :=
  s.modMd d (fun m => { m with cecnt := clearAt x 48 m.cecnt, uecnt := clearAt x 32 m.uecnt })
def integWrite (s : State) (d w : Nat) (x : Word) : State :=
  s.modDie d (fun m =>
    if w = 0 then { m with shcnt := clearAt x 48 m.shcnt, ckcnt := clearAt x 32 m.ckcnt, srue := clearAt x 16 m.srue, srce := clearAt x 0 m.srce }
    else { m with rbcnt := clearAt x 48 m.rbcnt, escnt := clearAt x 32 m.escnt })

/-- A word of management BAR0 (R292). -/
def mgmtWrite (s : State) (off : Nat) (x : Word) : State :=
  let mg := s.mg
  if off = 0 then { s with mg := { mg with mcqbase := maskWrite mg.mcqbase x 0xFFFFFFFFFFFFF000 } }
  else if off = 0x08 then
    (let n := bits x 3 0
     if 4 ≤ n && n ≤ 12 && mg.mcqhead = mg.mcqtail then { s with mg := { mg with mcqsz := n } } else s)
  else if off = 0x10 then { s with mg := { mg with mcqtail := bits x 11 0 % 2 ^ mg.mcqsz } }
  else if off = 0x20 then { s with mg := { mg with mcqvec := bits x 10 0 } }
  else if off = 0x400 || off = 0x408 then s.modDie ((off - 0x400) / 8) (fun d => { d with plim := bits x 15 0 })
  else if 0x10000 ≤ off && off < 0x11000 then msixWrite s 0 (off - 0x10000) x
  else if 0x2000000 ≤ off && off < 0x2008000 then debugWrite s ((off - 0x2000000) / 64) ((off - 0x2000000) % 64 / 8) x
  else if 0x2100000 ≤ off && off < 0x2108000 then watchWrite s ((off - 0x2100000) / 64) ((off - 0x2100000) % 64 / 8) x
  else if 0x3000000 ≤ off && off < 0x3000200 && off % 64 = 0 then merrWrite s ((off - 0x3000000) / 64) x
  else if off = 0x3000400 then { s with mg := { mg with dupmap := maskWrite mg.dupmap x 0xFFFFFFFFFFFFF } }
  else if 0x3000600 ≤ off && off < 0x3000620 then integWrite s ((off - 0x3000600) / 16) ((off - 0x3000600) % 16 / 8) x
  else s

/-- A word of a kick page (R247). -/
def kickPageWrite (s : State) (v j off : Nat) (x : Word) : State :=
  match off with
  | 0x008 => if bit x 32 then s.modQueue v j (fun q => { q with err := false }) else s
  | 0x010 => s.modQueue v j (fun q => { q with qdonea := maskWrite q.qdonea x 0xFFFFFFFFFFF8 })
  | 0x018 => s.modQueue v j (fun q => { q with ivec := BitVec.ofNat 8 (bits x 15 8), irqr := bit x 1, irqc := bit x 0 })
  | _ => s

/-- A word of a virtual function's BAR0 (R270, R295). -/
def vfWrite (s : State) (v off : Nat) (x : Word) : State :=
  if (s.vd v).state = 0 then s
  else if off = 0x00 then s.modVd v (fun d => { d with w := vset d.w 2 (maskWrite (d.word 2) x 0xFFFFFFFFFF000) })
  else if off = 0x10 then (if bit x 1 then s.modVd v (fun d => { d with tinvOvf := false }) else s)
  else if off = 0x18 then s.modVd v (fun d => { d with fqcfg := maskWrite d.fqcfg x 0xFFFFFFFFF00F })
  else if off = 0x30 then s.modVd v (fun d => { d with cntsel := BitVec.ofNat 10 (bits x 9 0) })
  else if off = 0x40 then (if bit x 0 then s.modVd v (fun d => { d with cntden := false }) else s)
  else if 0x1000 ≤ off && off < 0x41000 then
    (let j := (off - 0x1000) / 0x1000
     if queueExists (s.vd v) j then kickPageWrite s v j (off % 0x1000) x else s)
  else if 0x41000 ≤ off && off < 0x42000 then msixWrite s (v + 1) (off - 0x41000) x
  else s

/-- REGISTER_WRITE (R6, R247, R270, R292, R295, R318, R340, R346, R352, R355, R365): a word whose write does nothing but set fields; read-only
and reserved fields ignore it, and the registers whose writes act are written by events of their own. -/
def execRegisterWrite (space : RegSpace) (off : Nat) (x : Word) (s : State) : Out :=
  if off % 8 ≠ 0 || !homesOpen s then .next s
  else match space with
    | .mgmt => .next (mgmtWrite s off x)
    | .vf v => .next (if v < 512 then vfWrite s v off x else s)
    | .sriov => .next (sriovWrite s off x)
    | .msixCap fn => .next (msixCapWrite s fn off x)

/-! What a host read of a register returns (R292, R295). -/

/-- A word of fields, each at a bit. -/
def fieldsWord (fs : List (Nat × Nat)) : Word := BitVec.ofNat 64 ((fs.map (fun f => f.1 * 2 ^ f.2)).sum)

/-- Eight bytes of an MSI-X table, and of a pending-bit array, of a function. -/
def msixRead (s : State) (fn off : Nat) : Word := memWord ((look fn s.mg.msixTab).getD []) (off / 8 * 8)
def pendingRead (s : State) (fn off : Nat) : Word :=
  fieldsWord ((List.range 64).map (fun i => (b2n (s.mg.msixPend.contains (fn, off / 8 * 64 + i)), i)))

/-- SCHCTL, PWIDTH, DSCTLd, DVFSd (R263, R275, R307): the values that are in force or next in force, as Pelelo has taken them. -/
def dsctlWord (d : Die) : Word := fieldsWord [(b2n d.hstr, 32), (d.brw, 24), (d.neng, 0)]
def dvfsWord (d : Die) : Word := fieldsWord [(b2n d.busy, 16), (d.fcur, 8), (d.fstep, 0)]
def pwidthWord (s : State) : Word := fieldsWord ((List.range 8).map (fun k => (vget s.mg.widthsNext k 48, 6 * k)))

/-- A word of MERRd, INTEGd, PARTSTk and HUSTAT (R346, R365, R373, R378). -/
def merrWord (m : MemDie) (w : Nat) : Word :=
  if w = 0 then fieldsWord [(m.cecnt, 48), (m.uecnt, 32), (m.pgf.toNat, 12)] else if w = 1 then fieldsWord [(m.laddr / 64, 6)] else 0
def integWord (d : Die) (w : Nat) : Word :=
  if w = 0 then fieldsWord [(d.shcnt, 48), (d.ckcnt, 32), (d.srue, 16), (d.srce, 0)] else fieldsWord [(d.rbcnt, 48), (d.escnt, 32)]
def partWord (p : Part) (w : Nat) : Word :=
  if w = 0 then fieldsWord [(p.rcnt, 16), (((List.range 48).filter p.failm.getLsbD).length, 2), (p.st, 0)] else BitVec.ofNat 64 p.failm.toNat
def hustatWord (s : State) (w : Nat) : Word :=
  let b0 := s.bank 0
  let b1 := s.bank 1
  if w = 0 then
    fieldsWord [(maxSave s, 32), (usedAll s, 16), (b2n b1.isSealed, 5), (b2n b0.isSealed, 4), (b2n b1.bad, 2), (b2n b0.bad, 1),
                (b2n (b1.isSealed && (!b0.isSealed || decide (b0.seq < b1.seq))), 0)]
  else BitVec.ofNat 64 s.mg.ecap

/-- A word of a debug block and of a watchpoint (R340, R355); TEAMSEL and OP are write-only. -/
def debugWord (d : VDev) (w : Nat) : Word := if w = 5 then 0 else vget d.dbg w 0

/-- A host read of management BAR0 (R292): what the table does not name is 0 (R6). -/
def mgmtRead (s : State) (off : Nat) : Word :=
  let mg := s.mg
  if off = 0 then mg.mcqbase
  else if off = 0x08 then BitVec.ofNat 64 mg.mcqsz
  else if off = 0x10 then BitVec.ofNat 64 mg.mcqtail
  else if off = 0x18 then BitVec.ofNat 64 mg.mcqhead
  else if off = 0x20 then BitVec.ofNat 64 mg.mcqvec
  else if off = 0x28 then fieldsWord [(if mg.booterr then mg.bootstep else 0, 8), (b2n mg.booterr, 1), (b2n mg.ready, 0)]
  else if off = 0x100 then BitVec.ofNat 64 mg.sliceNext
  else if off = 0x108 then pwidthWord s
  else if off = 0x200 || off = 0x208 then dsctlWord (s.die ((off - 0x200) / 8))
  else if off = 0x300 || off = 0x308 then dvfsWord (s.die ((off - 0x300) / 8))
  else if off = 0x400 || off = 0x408 then BitVec.ofNat 64 (s.die ((off - 0x400) / 8)).plim
  else if off = 0x480 || off = 0x488 then BitVec.ofNat 64 (s.die ((off - 0x480) / 8)).pmeas
  else if 0x10000 ≤ off && off < 0x11000 then msixRead s 0 (off - 0x10000)
  else if 0x11000 ≤ off && off < 0x11020 then pendingRead s 0 (off - 0x11000)
  else if 0x2000000 ≤ off && off < 0x2008000 then debugWord (s.vd ((off - 0x2000000) / 64)) ((off - 0x2000000) % 64 / 8)
  else if 0x2100000 ≤ off && off < 0x2108000 then vget (s.vd ((off - 0x2100000) / 64)).wp ((off - 0x2100000) % 64 / 8) 0
  else if 0x3000000 ≤ off && off < 0x3000200 then merrWord (s.md ((off - 0x3000000) / 64)) ((off - 0x3000000) % 64 / 8)
  else if off = 0x3000400 then mg.dupmap
  else if 0x3000600 ≤ off && off < 0x3000620 then integWord (s.die ((off - 0x3000600) / 16)) ((off - 0x3000600) % 16 / 8)
  else if 0x3000800 ≤ off && off < 0x3000880 then partWord (vget s.parts ((off - 0x3000800) / 16) { st := 0, rcnt := 0, failm := 0 }) ((off - 0x3000800) % 16 / 8)
  else if off = 0x3000A00 || off = 0x3000A08 then hustatWord s ((off - 0x3000A00) / 8)
  else 0

/-- A word of a kick page (R247). -/
def kickPageRead (q : Queue) (off : Nat) : Word :=
  match off with
  | 0x008 => fieldsWord [(q.cause, 40), (b2n q.err, 32), (q.pend.length, 0)]
  | 0x010 => q.qdonea
  | 0x018 => fieldsWord [(q.ivec.toNat, 8), (b2n q.irqr, 1), (b2n q.irqc, 0)]
  | 0x020 => q.qrej
  | 0x028 => fieldsWord [(q.completed.toNat, 32), (q.accepted.toNat, 0)]
  | _ => 0

/-- A read of a virtual function's BAR0 (R270, R295): the kick page of a queue the device does not have reads 0. CNTVAL has a step of its
own, and reads here as that step has left it. -/
def vfRead (s : State) (v off : Nat) : Word :=
  let d := s.vd v
  if off = 0x00 then d.word 2
  else if off = 0x10 then fieldsWord [(b2n d.tinvOvf, 1), (b2n d.tinvBusy, 0)]
  else if off = 0x18 then d.fqcfg
  else if off = 0x20 then BitVec.ofNat 64 d.fqhead.toNat
  else if off = 0x28 then BitVec.ofNat 64 d.fqtail.toNat
  else if off = 0x30 then BitVec.ofNat 64 d.cntsel.toNat
  else if off = 0x38 then d.cntval
  else if off = 0x40 then BitVec.ofNat 64 (b2n d.cntden)
  else if off = 0x50 then BitVec.ofNat 64 d.tierst.toNat
  else if 0x1000 ≤ off && off < 0x41000 then
    (let j := (off - 0x1000) / 0x1000
     if queueExists d j then kickPageRead (d.queue j) (off % 0x1000) else 0)
  else if 0x41000 ≤ off && off < 0x42000 then msixRead s (v + 1) (off - 0x41000)
  else if 0x42000 ≤ off && off < 0x42020 then pendingRead s (v + 1) (off - 0x42000)
  else 0

/-! The debugger (R340 to R342). -/

/-- Whether a team belongs to the launch a device's DBGTGT names. -/
def targeted (s : State) (v : Nat) (k : TeamKey) : Bool :=
  match s.launch? k.lid with
  | some l => l.vd = v && bits l.addr 47 8 = bits (vget (s.vd v).dbg 4 0) 47 8
  | none => false

/-- The threads of some teams are asked to halt (R341). -/
def haltTeams (s : State) (v : Nat) (mine : TeamKey → Bool) : State :=
  if debugBusy s v then s else askHalt s v mine

/-- The record a halted thread posts to the ring (R341). -/
def postHalt (s : State) (t : Thread) : State :=
  let i : TrapInfo := { cause := if t.brkCode.isSome then 0x21 else 0x22, detail := t.brkCode.getD 0, addr := 0, wr := false, src := 0,
                        rp := t.pc, rc := t.cpos, repa := t.repActive, repc := t.repc }
  (ringPost s t.vd (mkRec i false t.key.tid t.key.team.num)).modThr t.key (fun t => { t with haltReq := false, brkCode := none })

/-- The Halted threads of some teams become Runnable; one that left its landing slot waits for another (R278, R341). -/
def resumeTeams (s : State) (v : Nat) (mine : TeamKey → Bool) : State :=
  if debugBusy s v then s
  else
    let ts := s.threads.filter (fun t => mine t.key.team && t.st == .halted)
    let s := (ts.filter (·.haltReq)).foldl postHalt s
    ts.foldl (fun s t => s.modThr t.key (fun t =>
      if t.detached && t.landing.isNone then { t with st := .migrating, migTo := some (dieOfCluster t.clus), migSince := s.now }
      else { t with st := .runnable, lines := if lineHeld t 0 then vset t.lines 0 .dirty else t.lines })) s

/-- DEBUG_HALT_TEAM, command 1: every team of that number of the target launch. -/
def execDebugHaltTeam (v team : Nat) (s : State) : Out := .next (haltTeams s v (fun k => k.num = team && targeted s v k))

/-- DEBUG_HALT_LAUNCH, command 2. -/
def execDebugHaltLaunch (v : Nat) (s : State) : Out := .next (haltTeams s v (targeted s v))

/-- DEBUG_RESUME_TEAM, command 3. -/
def execDebugResumeTeam (v team : Nat) (s : State) : Out := .next (resumeTeams s v (fun k => k.num = team && targeted s v k))

/-- DEBUG_RESUME_LAUNCH, command 4. -/
def execDebugResumeLaunch (v : Nat) (s : State) : Out := .next (resumeTeams s v (targeted s v))

/-- The size of the aligned sets of the clause a thread stands at; 0 where it is free or no clause. -/
def setOf (s : State) (t : Thread) : Nat := match (fetchClause s (coreOf t) t.vd t.pc).head with
  | some h => setSize (hAlign h)
  | none => 0

/-- Whether a thread's aligned set is whole at its position: but for the halt it would become Runnable now (R38, R341). -/
def setGathered (s : State) (t : Thread) : Bool := setOf s t = 0 || (alignedSet s t (setOf s t)).all (gatheredWith t)

/-- Whether a thread asked to halt may enter Halted now. -/
def mayHalt (s : State) (t : Thread) : Bool :=
  t.haltReq && lineHeld t 0 && !inSlot s t.key && t.due.isEmpty && t.undelivered.isEmpty && !s.busy t.key &&
    match t.st with
    | .halted => true
    | .runnable | .unstarted => t.cpos = 0
    | .alignedWait => setGathered s t
    | _ => false

/-- The members of a whole aligned set that are asked to halt become Halted together with one of them (R341). -/
def haltGathered (s : State) (t : Thread) : State :=
  if t.st != .alignedWait || setOf s t = 0 then s
  else (alignedSet s t (setOf s t)).foldl (fun s u =>
    if u.haltReq then s.modThr u.key (fun u => ({ u with st := .halted } : Thread).changed) else s) s

/-- THREAD_HALT_ENTRY (R341): the thread is Halted, its dirty lines are written back and it is non-resident, and its record goes to the
ring; under TEAMHALT its team follows. A waitt it stood at is issued again when it is resumed (R213). -/
def execThreadHaltEntry (k : ThrKey) (s : State) : Out :=
  match s.thr? k with
  | some t =>
    if s.power == .on && mayHalt s t then
      let s := (haltGathered s t).modThr k (fun t => { t with st := .halted, waitUntil := none, lines := vset t.lines 0 .dirty })
      let s := (evictThread s k).modThr k (fun t => { t with since := none, aged := none })
      .next (postHalt (teamHalt s t.vd k) t)
    else .next s
  | none => .next s

/-- BUSY clears once every thread named has halted, exited or waits (R341). -/
def settleDebug (s : State) : State :=
  s.vds.foldl (fun s p => if debugBusy s p.1 && !(s.threads.any (fun t => t.vd = p.1 && halting t)) then setDebugBusy s p.1 false else s) s

/-! Attestation (R306). -/

/-- The RW fields of a device's entry as 256 B, everything else zero (log entry 44); zeros for a device that is free or none. -/
def entryDigest (s : State) (v : Nat) : List Byte :=
  let d := s.vd v
  if 512 ≤ v || d.state = 0 then List.replicate 32 0
  else sha256 ((List.range 32).flatMap (fun i => leBytes 8 (d.word i &&& BitVec.ofNat 64 (rwMask i)).toNat))

/-- The first 352 bytes of a report: its version, which the manual does not number (log entry 7), the device, MR0 to MR7, the nonce, the digest. -/
def reportBody (s : State) (v : Nat) (nonce : List Byte) : List Byte :=
  let version := BitVec.ofNat 8 (Config.freeWord s.free).toNat
  let dev := leBytes 2 (if 512 ≤ v then 0xFFFF else v)
  version :: 0 :: (dev ++ List.replicate 28 0 ++ s.mg.measures.toList.flatMap (fun m => (m ++ List.replicate 32 0).take 32) ++
    nonce.take 32 ++ entryDigest s v)

/-- ATTEST (R291, R306): the report of 736 B after the nonce. -/
def execAttest (v : Nat) (nonce : List Byte) (s : State) : Out :=
  mgmt (.attest v nonce) 0x0F v s (fun s =>
    if nonce.length < 32 then (3, s)
    else
      let b := reportBody s v nonce
      (0, hostReply s v .success (b ++ (Config.identitySignature b ++ List.replicate 384 0).take 384)))

end Sys2Proof.Machine
end

