-- ==== Sys2Proof/Machine/Service.lean ====
section
/-!
DEFINITION. Integrity of on-die arrays, rollback, partition resets, time faults, repairs and boot (R300, R305, R350, R351, R364,
R368, R370, R372 to R375, R378).
-/

namespace Sys2Proof.Machine

/-! Errors in on-die arrays (R364). -/

/-- A 64 B unit of a team's frame (R368): a line of a thread's slot, or a row of its scratchpad. -/
def unitOfLine (l : Launch) (k : ThrKey) (n : Nat) : Nat := (blockOf l k.team + 1024 * k.tid) / 64 + n
def unitOfRow (l : Launch) (row : Nat) : Nat := (167936 + if l.mstr then 262144 else 0) / 64 + row

/-- Bytes as the newest versions at their home give them. -/
def newestBytes (s : State) (a n : Nat) : List Byte := (List.range n).map (fun i => newestByte s (a + i))

/-- Whether a unit of a team's block is clean: its home holds what the cluster holds. -/
def unitClean (s : State) (k : TeamKey) (unit : Nat) : Bool :=
  match s.team? k, s.launch? k.lid with
  | some t, some l => (match walkBoth s t.vd (frameAddr l k + 64 * unit) .read with
      | .ok x => newestBytes s x.dpa 64 == memRange (blockImage t l (s.vd t.vd).gen []) (64 * unit) 64
      | .error _ => false)
  | _, _ => false

/-- Whether a unit of a team has been logged in the current interval, so that a rollback restores it (R370 step 2). -/
def unitLogged (s : State) (k : TeamKey) (unit : Nat) : Bool :=
  match s.team? k with
  | some t => (match t.snap with
      | some x => x.logged.contains unit
      | none => false)
  | none => false

/-- Content of a team is lost: an integrity error, rolled back where the unit is clean, and so dropped, or the log restores it (R370
step 2). -/
def unitLost (s : State) (k : TeamKey) (die tid src : Nat) (unit : Nat) : State :=
  let pc := (s.thr? { team := k, tid := tid }).map (·.pc)
  let i : TrapInfo := { cause := 0x1C, detail := 0, addr := 0, wr := false, src := src, rp := pc.getD 0, rc := 0, repa := false, repc := 0 }
  escalateTo (mayRollBack s k && (unitLogged s k unit || unitClean s k unit)) s k die tid i

/-- A pass or command of a team is given up: it writes nothing further and its flags fall. -/
def giveUpOp (s : State) (die : Nat) (o : EngOp) : State :=
  let i : TrapInfo := { cause := 0x1C, detail := 0, addr := 0, wr := false, src := opSrc o.i, rp := o.pc, rc := o.cpos, repa := o.repa, repc := o.repc }
  escalate (endOp s o) o.team die o.tid i

/-- Sectors that leave a write window as poisoned writes. -/
def windowLost (s : State) (cluster sector : Nat) : State :=
  let strip := fun (v : Version) =>
    if v.clusters.contains cluster then
      { v with cells := v.cells.filter (fun c => c.1 / 64 ≠ sector), clears := v.clears.filter (· ≠ sector) } else v
  let struck := s.ms.window.filter (fun e => e.cluster = cluster && e.sector = sector)
  let spoil := fun (m : StoreMsg) => if struck.any (fun w => w.owns.any (fun o => m.reqs.contains o.2.1)) then { m with poisoned := true } else m
  if struck.isEmpty then s
  else
    markPoison { s with ms := { s.ms with
      versions := s.ms.versions.map strip, stores := s.ms.stores.map spoil,
      window := s.ms.window.map (fun e => if e.cluster = cluster && e.sector = sector then { e with cells := [], owns := [] } else e) } } [sector]

/-- The SRC of a unit of a team's block, by the array that holds it (R66, R332): tiles and accumulators the tile path's, hypervectors,
counters and the match store the hypervector path's, the scratchpad the core's, the rest the context's. -/
def unitSrc (l : Launch) (unit : Nat) : Nat :=
  let a := 64 * unit
  if a < 4096 then 4 else if a < 126976 then 2 else if a < (if l.mstr then 430080 else 167936) then 3 else 0

/-- What a double-bit error does, by the content of the array. -/
def doubleBit (s : State) (die : Nat) : SramSite → State
  | .cleanCopy n => { s with ms := { s.ms with copies := s.ms.copies.eraseIdx n } }
  | .translation n => { s with ms := { s.ms with tlb := s.ms.tlb.eraseIdx n } }
  | .fetchedWord n => { s with ms := { s.ms with code := s.ms.code.eraseIdx n } }
  | .cleanLine k n => s.modThr k (fun t => if vget t.lines n .absent == .clean then { t with lines := vset t.lines n .absent } else t)
  | .dirtyLine k n => (match s.thr? k, s.launch? k.team.lid with
      | some t, some l => if vget t.lines n .absent == .dirty then unitLost s k.team die k.tid 4 (unitOfLine l k n) else s
      | _, _ => s)
  | .teamState k n => (match s.launch? k.lid with
      | some l => unitLost s k die 0 (unitSrc l n) n
      | none => s)
  | .scratchRow k row => (match s.launch? k.lid with
      | some l => unitLost s k die 0 0 (unitOfRow l row)
      | none => s)
  | .windowEntry c x => windowLost s c x
  | .combining id => { s with ms := { s.ms with stores := s.ms.stores.map (fun m => if m.id = id then { m with poisoned := true } else m) } }
  | .reservation c k => (match s.ops.filter (fun o => o.cluster = c && o.team == k && (unitOf o.i).isNone) with
      | [] => s
      | o :: rest => giveUpOp (rest.foldl endOp s) die o)
  | .engineCommand id => (match s.op? id with
      | some o => giveUpOp s die o
      | none => s)
  | .shared p =>
    let i : TrapInfo := { cause := 0x1C, detail := 0, addr := 0, wr := false, src := 6, rp := 0, rc := 0, repa := false, repc := 0 }
    escalatePartition (s.toStream 0 (mkRec i false 0 0)) p die

/-- SRAM_ECC_ERROR (R364, R365). -/
def execSramEccError (die : Nat) (site : SramSite) (double : Bool) (s : State) : Out :=
  if !homesOpen s then .next s
  else if double then .next (doubleBit (s.modDie die (fun d => { d with srue := satInc d.srue })) die site)
  else .next (s.modDie die (fun d => { d with srce := satInc d.srce }))

/-! Rollback (R370). -/

/-- The groups of a team stop, but for one whose must-save lists are being decided (R212, R277 step 1). -/
def stopTeam (s : State) (k : TeamKey) : State :=
  let stops := fun (g : Group) => g.team == k &&
    !(s.ms.reqs.any (fun q => (mustsOf q).isSome && q.thr.team == g.team && g.members.contains q.thr.tid))
  { s with cores := s.cores.map (fun p => if p.2.slot.any stops then (p.1, { p.2 with slot := none }) else p) }

/-- Whether nothing of a team is under way any more. -/
def teamStill (s : State) (k : TeamKey) : Bool :=
  !teamBusy s k && !(s.cores.any (fun p => p.2.slot.any (fun g => g.team == k)))

/-- R370 steps 1 and 2: what the team holds on chip begins its write-back, and it leaves its cluster. -/
def rollBackSave (s : State) (t : Team) (c : Nat) : State :=
  let ts := s.members t.key
  let s := saveBlock s c t
  let s := ts.foldl (fun s x => evictThread (s.modThr x.key (savedThread s.now)) x.key) s
  let s := { s with clusters := s.clusters.map (fun (p : Nat × Cluster) => (p.1, { p.2 with
    landing := p.2.landing.filter (fun x => x.2.team != t.key), spawners := p.2.spawners.filter (fun w => w.thr.team != t.key) })) }
  s.modTeam t.key (fun t => { t with cluster := none })

/-- Where a device access of a rollback lands, or what stops it. -/
def snapXlat (s : State) (v gva len : Nat) (need : Need) : Except (XErr × Nat) Xlat :=
  match walkBoth s v gva need with
  | .ok x => if need == .read && anyPoison s x.dpa len then .error (.poison x.dpa, gva) else .ok x
  | .error e => .error (e, gva)

/-- A device access of a rollback, with what its reads leave (R345): where it lands, or what stops it. -/
def snapReach (s : State) (v gva len : Nat) (need : Need) : State × Except (XErr × Nat) Xlat :=
  let s := s.walked .iod v gva
  let s := match walkBoth s v gva need with
    | .ok x => if need == .read then decodeRange s x.dpa len else s
    | .error _ => s
  (s, snapXlat s v gva len need)

/-- R370 step 3: log entries n - 1 down to 0 are written back to their frame offsets; what stops one. -/
def restoreEntries (v frame snap data : Nat) : Nat → State → State × Option (XErr × Nat)
  | 0, s => (s, none)
  | n + 1, s =>
    match snapReach s v (snap + 64 + 4 * n) 4 .read with
    | (s, .error e) => (s, some e)
    | (s, .ok x) =>
      match snapReach s v (snap + data + 64 * n) 64 .read with
      | (s, .error e) => (s, some e)
      | (s, .ok y) =>
        match snapReach s v (frame + leNat (newestBytes s x.dpa 4)) 64 .write with
        | (s, .error e) => (s, some e)
        | (s, .ok z) => restoreEntries v frame snap data n (storeAt s v z (newestBytes s y.dpa 64))

/-- A thread of a team that has not been activated (R258): one of the grid's, or one of a spawned team's. -/
def freshThread (l : Launch) (t : Team) (x : Thread) : Thread :=
  ((if t.key.spawned then seedThreads l t x.clus else gridThreads l t.gen t.key x.clus).find? (fun y => y.key == x.key)).getD x

/-- Line n of a thread as the checkpoint had it, its slot restored (R370): formed again where it was not formed then (R258), else as its
home has it. -/
def lineBack (s : State) (l : Launch) (fresh : Thread) (x : SnapLog) (t : Thread) (n : Nat) : Thread :=
  if !x.logged.contains (unitOfLine l t.key n) then t
  else if x.unformed.contains (t.key.tid, n) then
    { loadLine t n (fun j => fresh.heldV (8 * n - 8 + j)) with lines := vset t.lines n .unformed }
  else match walkBoth s t.vd (slotAddr l t.key + 64 * n) .read with
    | .ok y =>
      let w := fun (j : Nat) => BitVec.ofNat 64 (leNat (newestBytes s (y.dpa + 8 * j) 8))
      { (if n = 0 then loadControl t w else loadLine t n w) with lines := vset t.lines n .absent }
    | .error _ => t

/-- A thread as the checkpoint left it (R370): nothing raised or begun since stands, a thread not activated then is to be activated,
the lines the log has restored are as their slots have them, and a detached one waits for a landing slot again (R278). -/
def threadBack (s : State) (l : Launch) (tm : Team) (x : SnapLog) (t : Thread) : Thread :=
  let fresh := freshThread l tm t
  if x.unformed.contains (t.key.tid, 0) then { fresh with haltReq := t.haltReq }
  else
    let t := { t with due := [], undelivered := [], faultPending := false, retrying := false, barrier := none, releaseAt := none, owed := false }
    let t := (List.range 9).foldl (lineBack s l fresh x) t
    let waits := s.ms.held.any (fun h => h.what == .member t.key)
    let st := if t.st == .parked && !waits then .runnable else t.st
    if t.detached && st != .exited && st != .halted then
      { t with st := .migrating, migTo := some (t.migTo.getD (dieOfCluster t.clus)), migSince := s.now }
    else { t with st := st }

/-- R370 steps 4 and 5: the header counts the rollback, and the team waits ahead of its launch's others. -/
def rollBackEnd (s : State) (t : Team) (l : Launch) (x : SnapLog) (die : Nat) : State :=
  let s := { s with threads := s.threads.map (fun (u : Thread) => if u.key.team == t.key then threadBack s l t x u else u) }
  let stale := fun (h : Held) => match h.what with
    | .member k => k.team == t.key && !((s.thr? k).any (fun (u : Thread) => u.st == .parked))
    | _ => false
  let s := { s with ms := { s.ms with held := s.ms.held.filter (fun h => !stale h) } }
  let x := { x with nlog := 0, inel := false, rbn := x.rbn + 1, logged := [], unformed := unformedLines s t.key }
  let s := storeHeader (s.modTeam t.key (fun t => { t with snap := some x, integrity := false, ahead := true })) t l x
  s.modDie die (fun d => { d with rbcnt := satInc d.rbcnt })

/-- ROLLBACK (R370): the team stops; its units are written back; its log is restored; it waits to be placed again. -/
def execRollback (k : TeamKey) (s : State) : Out :=
  match s.team? k, s.launch? k.lid with
  | some t, some l =>
    if !t.integrity || s.power != .on then .next s
    else match t.cluster with
      | some c =>
        let s := stopTeam s k
        .next (if teamStill s k then rollBackSave s t c else s)
      | none =>
        let die := match s.threads.find? (fun u => u.key.team == k && !u.detached) with
          | some u => dieOfCluster u.clus
          | none => 0
        let (a, data) := snapAddr l k
        let x := t.snap.getD SnapLog.empty
        if s.ms.wbs.any (fun w => w.thr.team == k) || isHeld s (.blockRead k) || anyHolds s then .next s
        else match restoreEntries t.vd (frameAddr l k) a data x.nlog s with
          | (s, none) => .next (rollBackEnd s t l x die)
          | (s, some (e, gva)) =>
            let info : TrapInfo := { cause := (xCause s e).1, detail := 0, addr := gva, wr := false, src := 4, rp := 0, rc := 0, repa := false, repc := 0 }
            .next (if (xCause s e).2 then holdFault s t.vd (.blockRead k) info 0 k.num e
              else endTeam s l k (if (xCause s e).1 = 0x1C then 0x1C else 0x32))
  | _, _ => .next s

/-! Partition resets (R372 to R374). -/

/-- A hardware partition. -/
def State.part (s : State) (k : Nat) : Part := vget s.parts k { st := 0, rcnt := 0, failm := 0 }
def State.modPart (s : State) (k : Nat) (f : Part → Part) : State := { s with parts := vset s.parts k (f (s.part k)) }

/-- Whether a device has anything on the clusters of a partition. -/
def holdsIn (s : State) (k v : Nat) : Bool :=
  s.clusters.any (fun p => partOfCluster p.1 = k && (p.2.holder == some v || p.2.preempting == some v || deviceOn s p.1 v))

/-- R374 step 2: dirty lines of the home slice are written to HBM; one that cannot be is poisoned (log entry 47). -/
def flushHome (s : State) (k : Nat) : State :=
  let dirty := s.ms.homes.filter (fun p => mdOfDpa (p.1 * 256) = k && p.2.tlast ≠ 0 && Config.lineUnwritable s.free p.1)
  dirty.foldl (fun s p => (List.range 4).foldl (fun s i => poisonSector s (4 * p.1 + i)) s) s

/-- R374 steps 2 and 3: the logic of the partition is emptied, and the leases of its memory-side die become the floor. -/
def emptyPartition (s : State) (k : Nat) : State :=
  let s := flushHome s k
  let coreIn := fun (c : Nat) => decide (partOfCluster (clusterOfCore c) = k)
  let copyIn := fun (x : LeasedCopy) => if x.level = 1 then coreIn x.place else decide (x.place = k / 4) && decide (mdOfDpa (x.line * 256) = k)
  let xlatIn := fun (x : TlbEntry) => (x.level = 1 && coreIn x.place) || (x.level = 2 && decide (partOfCluster x.place = k))
  let home := fun (p : Nat × HomeLine) =>
    if mdOfDpa (p.1 * 256) = k then (p.1, { p.2 with lmax := s.now + 4096, heat := 0 }) else p
  let s := s.modMd k (fun m => { m with floor := s.now + 4096, timeFaultSince := none })
  { s with
    clusters := s.clusters.filter (fun p => partOfCluster p.1 ≠ k), cores := s.cores.filter (fun p => !coreIn p.1),
    ms := { s.ms with copies := s.ms.copies.filter (fun x => !copyIn x), window := s.ms.window.filter (fun e => partOfCluster e.cluster ≠ k),
                      tlb := s.ms.tlb.filter (fun x => !xlatIn x), code := s.ms.code.filter (fun x => !coreIn x.core), homes := s.ms.homes.map home } }

/-- PARTITION_RESET (R374): first the partition is isolated, its devices are killed, and requests from outside are held at the links; then its
logic is emptied, the held requests are served, and its self-test begins. The second half follows as the next step of the agenda. -/
def execPartitionReset (k : Nat) (s : State) : Out :=
  if !homesOpen s then .next s
  else if (s.part k).st = 0 then
    let vs := (s.vds.filter (fun p => holdsIn s k p.1)).map (·.1)
    let s := vs.foldl (fun s v => if (s.vd v).state = 4 || (s.vd v).state = 5 then s else killDevice s v) (s.modPart k (fun p => { p with st := 1 }))
    .next { s with agenda := .event (.partitionReset k) :: s.agenda }
  else if (s.part k).st = 1 then .next (retryTimeHeld ((emptyPartition s k).modPart k (fun p => { p with st := 2 })))
  else .next s

/-- PARTITION_RESET_REQUEST (R373): RST written as 1. -/
def execPartitionResetRequest (k : Nat) (x : Word) (s : State) : Out :=
  .next (if bit x 8 then { s with agenda := s.agenda ++ [.event (.partitionReset k)] } else s)

/-- SELF_TEST_COMPLETE (R374 step 5): clusters by their number within the partition. -/
def execSelfTestComplete (k : Nat) (failed : List Nat) (s : State) : Out :=
  if (s.part k).st ≠ 2 then .next s
  else
    let m := (failed.filter (· < 48)).foldl (fun m j => m ||| BitVec.ofNat 48 (2 ^ j)) (s.part k).failm
    .next ((s.modPart k (fun p => { st := 0, rcnt := satInc p.rcnt, failm := m })).event 0 15 k 0)

/-! Time faults (R351). -/

/-- What an event of the agenda comes from: the machine's own reset of a partition, and a core's instruction, go with a package reset; what
the outside world does next stays to come. -/
def outside : Sched → Bool
  | .event (.partitionReset _) => false
  | .core _ => false
  | _ => true

/-- The package as a reset leaves it: MRAM keeps its banks, and the model's own counters and what stands to come go on (log entries 3, 46 and 53). -/
def packageReset (s : State) : State :=
  { State.reset with free := s.free, nextId := s.nextId, banks := s.banks, agenda := s.agenda.filter outside }

/-- TIME_CHECK (R351): a die off by more than 1 ns, or without the distributed time, is in time fault. -/
def execTimeCheck (die : TimeDie) (offNs : Option Nat) (s : State) : Out :=
  let off := match offNs with
    | some n => decide (1 < n)
    | none => true
  if !off || !homesOpen s then .next s
  else match die with
    | .compute d => .next (if (s.die d).timeFault then s else (s.modDie d (fun x => { x with timeFault := true })).event 0 16 d 0)
    | .memory d => .next (if (s.md d).timeFaultSince.isSome then s else (s.modMd d (fun x => { x with timeFaultSince := some s.now })).event 0 16 (2 + d) 0)

/-- TIME_RELOCK (R351). -/
def execTimeRelock (die : TimeDie) (s : State) : Out :=
  if !homesOpen s then .next s
  else match die with
  | .compute d => .next (s.modDie d (fun x => { x with timeFault := false }))
  | .memory d => .next (retryTimeHeld (s.modMd d (fun x => { x with timeFaultSince := none })))

/-- TIME_FAULT_TIMEOUT (R351, R372): a memory-side die 100 µs in time fault. -/
def execTimeFaultTimeout (md : Nat) (s : State) : Out :=
  match (s.md md).timeFaultSince with
  | some n => .next (if n + 100000 ≤ s.now && homesOpen s then escalatePartition s md (md / 4) else s)
  | none => .next s

/-- IOD_REFERENCE_LOSS (R351): a package reset. -/
def execIodReferenceLoss (s : State) : Out := .next (packageReset s)

/-! Repairs (R375). -/

/-- Modules of a link (R17): memory-side dies to their home compute die 0 to 7 and to the other 8 to 15, the bridge 16,
memory-side dies to the IOD 17 to 24, compute dies to the IOD 25 and 26. -/
def modulesOf (link : Nat) : Nat :=
  if link < 8 then 16 else if link < 16 then 8 else if link = 16 then 32 else if link < 25 then 10 else if link < 27 then 8 else 0

/-- UCIE_LANE_REPAIR (R375): a spare lane of the module, or the module is disabled; the bridge or a memory-side die's link with no
module left is a package reset. -/
def execUcieLaneRepair (link modl lane : Nat) (s : State) : Out :=
  if modulesOf link ≤ modl || s.mg.modulesOff.contains (link, modl) then .next s
  else
    let used := (s.mg.lanes.filter (fun x => x.1 = link && x.2.1 = modl)).length
    if used < Config.spareLanes link then .next { s with mg := { s.mg with lanes := s.mg.lanes ++ [(link, modl, lane)] } }
    else
      let off := s.mg.modulesOff ++ [(link, modl)]
      if link < 25 && modulesOf link ≤ (off.filter (fun x => x.1 = link)).length then .next (packageReset s)
      else .next { s with mg := { s.mg with modulesOff := off } }

/-- FURROW_PORT_DOWN (R375): flows go through the remaining ports. -/
def execFurrowPortDown (port : Nat) (s : State) : Out :=
  .next (if 144 ≤ port || s.mg.portsDown.contains port then s else { s with mg := { s.mg with portsDown := s.mg.portsDown ++ [port] } })

/-- FURROW_RESERVATION_RENEW (R300): the window of a flow whose endpoint reserves bandwidth now expires at a later time. -/
def execFurrowReservationRenew (v e expiry : Nat) (s : State) : Out :=
  let w := endpointWords s v e
  if (s.vd v).state = 0 || !bit w.1 63 || bits w.2 47 40 = 0 || 256 ≤ e || expiry ≤ s.now then .next s
  else .next { s with mg := { s.mg with flows := s.mg.flows.filter (fun f => f.1 ≠ (v, e)) ++ [((v, e), expiry)] } }

/-! Boot (R305, R375, R378, R391). -/

/-- Clusters that failed at boot and found no spare on their die: FAILM of a partition. -/
def failedAtBoot (failed : List Nat) (k : Nat) : BitVec 48 :=
  let kept := (failed.filter (fun c => dieOfCluster c = k / 4)).drop 16
  (kept.filter (fun c => partOfCluster c = k)).foldl (fun m c => m ||| BitVec.ofNat 48 (2 ^ (c % 48))) 0

/-- A measurement register extended (R305 step 5). -/
def extend (m digest : List Byte) : List Byte := sha256 (m ++ digest)

/-- The boot stops at a step. -/
def bootFails (s : State) (step : Nat) : State := { s with mg := { s.mg with booterr := true, bootstep := step } }

/-- The second-tier pool (R18, R299): the expanders' whole capacities, each in its window of the system aperture, and the host ranges granted,
cut at 16 TiB. -/
def poolOf (cxl host : List (Nat × Nat)) : List (Nat × Nat) :=
  let windows := cxl.map (fun p => (0xC000000000000 + p.1 * 0x400000000000, p.2))
  ((windows ++ host).foldl (fun (acc : Nat × List (Nat × Nat)) r =>
    let n := min acc.1 r.2
    (acc.1 - n, acc.2 ++ [(r.1, n)])) (2 ^ 44, [])).2

/-- The firmware's part: later stages are measured, every device is free, clusters and banks are checked, ports 1 to 3 take their
modes, port 0 staying in host mode (R294), READY is set. -/
def bootRest (s : State) (b : BootImage) : State :=
  let m := (List.range 7).foldl (fun m i => match b.stages[i]? with
    | some x => vset m (i + 1) (extend (vget m (i + 1) []) (sha256 x))
    | none => m) (vset s.mg.measures 0 (extend (vget s.mg.measures 0 []) (sha256 b.bytes)))
  let s := (List.range 8).foldl (fun s k => s.modPart k (fun p => { p with failm := failedAtBoot b.failedClusters k })) s
  let s := (List.range 2).foldl (fun s n => s.putBank n { s.bank n with bad := b.badBanks.contains n }) s
  let s := (b.badBanks.filter (· < 2)).foldl (fun s n => s.event 0 14 n 0) s
  let cxl := b.cxlPorts.filter (fun p => 1 ≤ p.1 && p.1 < 4)
  let s := { s with vds := [], mg := { s.mg with measures := m, cxl := cxl, pool := poolOf cxl b.hostRanges, ecap := min 0xFFFF b.ecap, ready := true } }
  if b.ecap < 1600 then s.event 0 13 b.ecap 0 else s

/-- BOOT (R305). -/
def execBoot (b : BootImage) (s : State) : Out :=
  if s.power != .on || s.mg.ready || s.mg.booterr then .next s
  else
    let digest := sha256 b.bytes
    if leNat (sha256 b.key) ≠ Config.vendorKeyDigest || !Config.signatureValid b.key digest b.signature then .next (bootFails s 3)
    else if b.version < Config.minSecurityVersion then .next (bootFails s 4)
    else .next (bootRest s b)

end Sys2Proof.Machine
end

