-- ==== Sys2Proof/Machine/Holdup.lean ====
section
/-!
DEFINITION. Supply loss, the hold-up sequence and the image banks (R377 to R382, R386 to R394).
-/

namespace Sys2Proof.Machine

/-! Items of a bank (R392). -/

/-- Chunks of an item. -/
def chunksOf (bytes : Nat) : Nat := (bytes + 65535) / 65536

/-- The bytes of an item that lie in its chunk number c. -/
def Bank.chunkBytes (b : Bank) (i : BankItem) (c : Nat) : List Byte :=
  memRange b.data (i.doff + 65536 * c) (min 65536 (i.bytes - 65536 * c))

/-- Whether a chunk of an item can be trusted. -/
def Bank.chunkGood (b : Bank) (i : BankItem) (c : Nat) : Bool :=
  let e := b.chunk (i.doff / 65536 + c)
  e.wrt && !e.poison && !e.unsave && !e.wfail && e.ccrc == crc32c (b.chunkBytes i c)

/-- GOOD: leading chunks that can be trusted, of n from chunk c on. -/
def Bank.goodFrom (b : Bank) (i : BankItem) : Nat → Nat → Nat
  | 0, _ => 0
  | n + 1, c => if b.chunkGood i c then b.goodFrom i n (c + 1) + 1 else 0

/-- Whether a bank's items are reported at all. -/
def Bank.readable (b : Bank) : Bool := !b.bad && b.ver == 1 && decide (b.nitem ≤ 4096)

/-- The state of an item, 0 whole, 1 torn, 2 absent, and GOOD. -/
def Bank.itemState (b : Bank) (i : BankItem) : Nat × Nat :=
  if !b.readable || !i.strt then (2, 0)
  else
    let n := chunksOf i.bytes
    let good := b.goodFrom i n 0
    if i.done && i.crc == crc32c (memRange b.data i.doff i.bytes) && good = n then (0, good) else (1, good)

/-! Hold-up commands (R393, R394). -/

/-- What HUQUERY writes. -/
def queryBytes (b : Bank) : List Byte :=
  let item := fun (i : BankItem) =>
    let st := b.itemState i
    i.bytesWith (st.2 * 2 ^ 32 + st.1)
  b.header ++ leBytes 8 (b2n b.isSealed) ++ List.replicate 24 0 ++ (b.items.take b.nitem).flatMap item

/-- HUQUERY (R393). -/
def execHuquery (bank : Nat) (s : State) : Out := mgmt (.huquery bank) 0x10 0 s (fun s => (0, hostReply s 0 .success (queryBytes (s.bank bank))))

/-- HURESTORE (R394). -/
def execHurestore (bank item v : Nat) (s : State) : Out :=
  mgmt (.hurestore bank item v) 0x11 v s (fun s =>
    let b := s.bank bank
    let st := (s.vd v).state
    if !(st = 1 || st = 3) || b.nitem ≤ item || b.bad then (1, s)
    else match b.items[item]? with
      | none => (0, s)
      | some i =>
        let bytes := match b.itemState i with
          | (0, _) => memRange b.data i.doff i.bytes
          | (1, good) => memRange b.data i.doff (min i.bytes (65536 * good))
          | _ => []
        (match devWrite s .iod v i.base bytes with
          | (s, none, none) => (0, s)
          | (s, _, _) => (3, s)))

/-- HUCLEAR (R393). -/
def execHuclear (bank : Nat) (s : State) : Out :=
  mgmt (.huclear bank) 0x12 0 s (fun s => (0, s.putBank bank { s.bank bank with sealseq := 0, sealcrc := 0 }))

/-- BANK_MEASURE (R378). -/
def execBankMeasure (millijoules : Nat) (s : State) : Out :=
  let e := min 0xFFFF millijoules
  let s := { s with mg := { s.mg with ecap := e } }
  .next (if e < 1600 then s.event 0 13 e 0 else s)

/-! The sequence (R377, R379). -/

/-- SUPPLY_LOSS (R377, R379 steps 1 and 2): TDET is recorded, with whether any set is admitted, and issue stops. -/
def execSupplyLoss (s : State) : Out :=
  match s.power with
  | .on => .next { s with power := .stopping s.now, armed := !s.musts.isEmpty, cores := s.cores.map (fun p => (p.1, { p.2 with slot := none })) }
  | _ => .next s

/-- Whether something issued before the stop has yet to reach a home that still takes requests. -/
def onTheWay (s : State) : Bool :=
  s.ms.stores.any (fun m => !homeHolds s (m.line * 256) && (match m.stage with
    | .replica _ => false
    | _ => true)) ||
  s.ms.reqs.any (fun q => q.space == .hbm && q.phase == .issued && (isAtomReq q || isRedReq q) && !homeHolds s q.dpa) ||
  s.ms.wbs.any (fun w => w.tw = 0 && !(s.ms.held.any (fun h => h.what == .writeBack w.id)) &&
    !anyHolds s)

/-- A list put in an order of keys. -/
def insertKey {α : Type} (key : α → List Nat) (x : α) : List α → List α
  | [] => [x]
  | y :: rest => if lexLt (key x) (key y) then x :: y :: rest else y :: insertKey key x rest

/-- Every admitted item with its set, in save order (R389): ORDER, VD, order of admission, DIDX. -/
def saveOrder (s : State) : List (MustSet × MustItem) :=
  let key := fun (p : MustSet × MustItem) => [p.2.order, p.1.vd, p.1.admitted, p.2.didx]
  (s.musts.flatMap (fun m => m.items.map (fun i => (m, i)))).foldl (fun l p => insertKey key p l) []

/-- The bank an image goes to, if any (R390, R391). -/
def saveBank (s : State) : Option Nat :=
  let b0 := s.bank 0
  let b1 := s.bank 1
  if saveBarred s then none
  else if b0.bad then some 1
  else if b1.bad then some 0
  else if b0.isSealed && b1.isSealed then some (if b0.seq < b1.seq then 0 else 1)
  else some (if b0.isSealed then 1 else 0)

/-- The SEQ of the next image. -/
def nextSeq (s : State) : Nat :=
  let of := fun (b : Bank) => if b.isSealed then b.seq else 0
  max (of (s.bank 0)) (of (s.bank 1)) + 1

/-- Chunks of an image that the energy of the capacitor bank reaches (R378). -/
def energyChunks (s : State) : Nat := if usedAll s ≤ maxSave s then usedAll s else maxSave s + Config.extraChunks s.free

/-- One byte of a range as it is saved (R380, R386, R388): the byte, whether its sector is poisoned, whether its page is unsaveable. -/
def savedByte (s : State) (i : MustItem) (off : Nat) : Byte × Bool × Bool :=
  let a := i.base + off
  match (i.pages[a / 4096 - i.base / 4096]?).join with
  | some d => if s.poisoned (d + a % 4096) then (0, true, false) else (memRead s.ms.mem (d + a % 4096), false, false)
  | none => (0, false, true)

/-- Whether a write to a bank fails twice (R391). -/
def writeFails (bank seq region : Nat) : Bool := Config.mramWriteFails bank seq region 0 && Config.mramWriteFails bank seq region 1

/-- One chunk of an item is written (R389 step 3, R391). -/
def saveChunk (s : State) (n : Nat) (i : MustItem) (doff : Nat) (b : Bank) (c : Nat) : Bank :=
  let got := (List.range (min 65536 (i.bytes - 65536 * c))).map (fun o => savedByte s i (65536 * c + o))
  let bytes := got.map (·.1)
  let fails := writeFails n b.seq (doff / 65536 + c)
  let e : Chunk := { wrt := true, poison := got.any (·.2.1), unsave := got.any (·.2.2), wfail := fails, ccrc := if fails then 0 else crc32c bytes }
  { b with chunks := put (doff / 65536 + c) e b.chunks, data := if fails then b.data else memWriteN b.data (doff + 65536 * c) bytes }

/-- One item is written, as far as the energy reaches: its entry's place in the bank and number of chunks reached. -/
def saveItem (s : State) (n : Nat) (b : Bank) (p : MustSet × MustItem) (doff limit : Nat) : Bank :=
  let i := p.2
  let all := chunksOf i.bytes
  let reach := min all (limit - doff / 65536)
  let b := (List.range reach).foldl (saveChunk s n i doff) b
  let whole := reach = all
  let good := (List.range all).all (fun c => !(b.chunk (doff / 65536 + c)).wfail)
  let lrec := match s.launch? p.1.lid with
    | some l => bits l.addr 47 0
    | none => 0
  let e : BankItem := { done := whole && good, strt := reach ≠ 0, vd := p.1.vd, order := i.order, bytes := i.bytes, base := i.base,
                        lrec := lrec, doff := doff, crc := if whole then crc32c (memRange b.data doff i.bytes) else 0, didx := i.didx }
  { b with items := b.items ++ [e] }

/-- The items from a place of the bank on. -/
def saveItems (s : State) (n limit : Nat) : Nat → List (MustSet × MustItem) → Bank → Bank
  | _, [], b => b
  | doff, p :: rest, b => saveItems s n limit (doff + 65536 * chunksOf p.2.bytes) rest (saveItem s n b p doff limit)

/-- Steps 1 to 3 of R389. -/
def saveImage (s : State) (n tdet tc : Nat) : State :=
  let order := saveOrder s
  let used := (order.map (fun p => chunksOf p.2.bytes)).sum
  let b : Bank := { s.bank n with ver := 1, nitem := order.length, seq := nextSeq s, tc := tc, tdet := tdet, sealseq := 0, sealcrc := 0, items := [],
                                  chunks := (s.bank n).chunks.filter (fun c => used ≤ c.1) }
  s.putBank n (saveItems s n (energyChunks s) 0 order b)

/-- R379 step 3: every version takes effect, and the compute dies lose what they hold. -/
def freeze (s : State) : State :=
  let last := s.ms.versions.foldl (fun n v => max n v.tw) s.now
  let s := { settleLoop s.ms.versions.length { s with now := last } with now := s.now }
  let s := s.ms.badSymbols.foldl (fun s b => decodeSector s b.1) s
  { s with teams := [], threads := [], cores := [], clusters := [], ops := [],
           ms := { s.ms with versions := [], copies := [], window := [], stores := [], reqs := [], tlb := [], code := [], wbs := [], held := [], outs := [] } }

/-- The sequence has ended and the package has no power: a return of the supply during it is next to take effect (R382). -/
def powerOff (s : State) : State :=
  { s with power := .off, supplyBack := none, agenda := match s.supplyBack with
      | some e => .event (.supplyReturn e) :: s.agenda
      | none => s.agenda }

/-- HOLDUP_FREEZE (R379, R380, R389): at Tc the homes freeze and the image is written; with no set admitted there is none. -/
def execHoldupFreeze (s : State) : Out :=
  match s.power with
  | .stopping tdet =>
    let tc := tdet + 20000
    if s.now < tc || onTheWay s then .next s
    else
      let s := freeze s
      (match saveBank s with
        | some n => if s.armed then .next { saveImage s n tdet tc with power := .saving tdet tc } else .next (powerOff s)
        | none => .next (powerOff s))
  | _ => .next s

/-- Whether the image in a bank may be sealed: every chunk reached, no directory write failed. -/
def sealable (n : Nat) (b : Bank) : Bool :=
  !writeFails n b.seq 4096 && b.items.all (fun i => i.strt && (List.range (chunksOf i.bytes)).all (fun c => (b.chunk (i.doff / 65536 + c)).wrt))

/-- HOLDUP_SEAL (R379 step 5, R389 step 4): the image is sealed and power is removed. -/
def execHoldupSeal (s : State) : Out :=
  match s.power with
  | .saving _ _ =>
    let s' := match saveBank s with
      | some n => let b := s.bank n
        if sealable n b then s.putBank n { b with sealcrc := crc32c b.sealed, sealseq := b.seq } else s
      | none => s
    .next (powerOff s')
  | _ => .next s

/-- SUPPLY_RETURN (R382): a cold reset once the sequence has ended; a return during it changes nothing until then. -/
def execSupplyReturn (millijoules : Nat) (s : State) : Out :=
  match s.power with
  | .off =>
    let r := packageReset s
    .next { r with mg := { r.mg with ecap := min 0xFFFF millijoules } }
  | .on => .next s
  | _ => .next { s with supplyBack := some millijoules }

end Sys2Proof.Machine
end

