-- ==== Sys2Proof/Machine/Counters.lean ====
section
/-!
DEFINITION. The event counters of a device (R280, R303), read off what a step has changed.
-/

namespace Sys2Proof.Machine

/-- A counter raised. -/
def bumpCount (s : State) (v e n : Nat) : State :=
  if n = 0 then s else s.modVd v (fun d => { d with counts := put e ((look e d.counts).getD 0 + n) d.counts })

/-- Whether a core's group must leave its issue slot after the instruction it has issued (R277, R370, R379). -/
def mustStop (s : State) (c : Nat) (g : Group) : Bool :=
  s.power != .on || (match s.team? g.team with
    | some t => t.integrity || (s.cluster (clusterOfCore c)).preempting == some t.vd ||
        s.clusters.any (fun p => p.2.preempting == some t.vd && (t.cluster == some p.1))
    | none => true)

/-- Whether a step has issued a musts, whose group keeps its slot until its lists are decided (R212). -/
def issuesMusts (s t : State) : Bool := t.ms.reqs.any (fun q => (mustsOf q).isSome && decide (s.nextId ≤ q.id))

/-- What a core's step or its selector did: an instruction's issue cycles (R34), where it issued one, or a group formed, aged or not
(group 0). -/
def countIssue (s : State) (c : Nat) (t : State) : State :=
  match (s.core c).slot with
  | some g =>
    if (s.die (dieOfCluster (clusterOfCore c))).stopped || mustStop s c g || ((t.core c).slot == some g && !issuesMusts s t) then t
    else (match s.team? g.team with
      | some tm => bumpCount t tm.vd 0 ((g.members.length + 7) / 8)
      | none => t)
  | none => t
def countSelect (s : State) (c : Nat) (t : State) : State :=
  match (s.core c).slot, (t.core c).slot with
  | none, some g => (match t.team? g.team with
      | some tm =>
        let aged := g.members.any (fun n => match s.thr? { team := g.team, tid := n } with
          | some x => x.aged.isSome
          | none => false)
        bumpCount (bumpCount t tm.vd 1 1) tm.vd 3 (if aged then 1 else 0)
      | none => t)
  | _, _ => t

/-- Lines of a thread that are being fetched. -/
def fetching (t : Thread) : Nat := (t.lines.toList.filter (· == .fetching)).length

/-- Register misses: lines whose fetch a selection began (R54). -/
def countMisses (s : State) (c : Nat) (t : State) : State :=
  (t.threads.filter (fun x => coreOf x = c)).foldl (fun t x => match s.thr? x.key with
    | some y => bumpCount t x.vd 2 (fetching x - fetching y)
    | none => t) t

/-- A load served at its L1 or beyond it, and whether a renewal brought data (group 1). -/
def countLoad (s : State) (id : Nat) (renews : Bool) (t : State) : State :=
  match s.req? id, t.req? id with
  | some q, some r =>
    if q.phase == .issued && r.phase != .issued then
      let line := servedDpa (dieOfCluster q.cluster) q.dpa q.repl / 256
      let tw := fun (s : State) => (s.ms.copies.find? (fun c => c.level = 2 && c.place = dieOfCluster q.cluster && c.line = line)).map (·.tw)
      let t := bumpCount t q.vd 17 1
      if renews then bumpCount t q.vd (if tw s == tw t then 18 else 19) 1 else t
    else t
  | _, _ => t
def countReturn (s : State) (id : Nat) (t : State) : State :=
  match s.req? id with
  | some q => if q.phase == .issued && q.space == .hbm && (t.req? id).isNone then bumpCount t q.vd (if l1Hit s q then 16 else 17) 1 else t
  | none => t

/-- Whether an operation has just had its effect. -/
def justDone (t : State) (o : EngOp) : Bool :=
  o.phase == .queued && match t.op? o.id with
    | some p => p.phase != .queued
    | none => true

/-- Passes, fused quarters and limiter refusals of some clusters (group 2). -/
def countPasses (s : State) (cluster : Nat) (t : State) : State :=
  match s.ops.filter (fun o => o.cluster = cluster && isPass o && justDone t o) with
  | o :: rest => (match s.team? o.team with
      | some tm => bumpCount (bumpCount t tm.vd 32 1) tm.vd 33 (rest.length + 1)
      | none => t)
  | [] => t
def countRefusal (s : State) (cluster : Nat) (t : State) : State :=
  if (s.cluster cluster).refusedAt.isNone && (t.cluster cluster).refusedAt.isSome then
    match (s.cluster cluster).holder with
    | some v => bumpCount t v 34 1
    | none => t
  else t

/-- Entries of a match store that a chunk compares. -/
def compared (o p : EngOp) : Nat := match o.i with
  | .hnear _ | .hnearK _ => o.vals.getD 0 0
  | .hscan _ => p.prog - o.prog
  | _ => 0

/-- Bytes a copy has moved by its cursor: bytes in a run, rows and bytes in a rectangle, elements in a gather or scatter (R204, R205). -/
def movedBy (f : FM) (o : EngOp) : Nat :=
  let lo := o.vals.getD 2 0 % 2 ^ 32
  match f.sub.toNat with
  | 0 => o.prog
  | 1 => o.prog / 2 ^ 32 * lo + o.prog % 2 ^ 32
  | _ => o.prog * lo

/-- Bytes a chunk of a copy moved. -/
def moved (o p : EngOp) : Nat := match o.i with
  | .cpy f => movedBy f p - movedBy f o
  | _ => 0

/-- A chunk of a command (groups 3 and 4). -/
def countChunk (s : State) (cluster : Nat) (u : EngineUnit) (t : State) : State :=
  match nextServed s cluster u with
  | none => t
  | some o => match s.team? o.team, t.op? o.id with
    | some tm, some p =>
      let v := tm.vd
      let t := bumpCount (bumpCount t v 65 1) v 64 (moved o p)
      bumpCount (bumpCount t v 48 (if u == .hyper && p.phase != .queued then 1 else 0)) v 49 (compared o p)
    | _, _ => t

/-- Tier faults met, promotions and evictions made (group 5). -/
def countTier (s t : State) : State :=
  let t := (t.ms.held.filter (fun h => h.info.cause = 0x34 && s.nextId ≤ h.id)).foldl (fun t h => bumpCount t h.vd 80 1) t
  t.mg.plots.foldl (fun t p =>
    match look p.1 s.mg.plots with
    | some q =>
      if q.state = 4 && p.2.state = 0 then p.2.mappers.foldl (fun t m => bumpCount t m.1 81 1) t
      else if q.state = 2 && p.2.state = 3 then p.2.mappers.foldl (fun t m => bumpCount t m.1 82 1) t
      else t
    | none => t) t

/-- Furrow flits of n payload bytes (R300). -/
def flits (n : Nat) : Nat := max 1 ((n + 239) / 240)

/-- What a step sent through apertures (groups 6 and 7). -/
def countSent (s t : State) : State :=
  (t.ms.outs.filter (fun o => s.nextId ≤ o.id)).foldl (fun t o =>
    if furrowDpa o.dpa then bumpCount t o.vd 96 (flits o.data.length) else if pcieDpa o.dpa then bumpCount t o.vd 113 o.data.length else t) t

/-- What came back through an aperture. -/
def countBack (s : State) (id : Nat) (data : List Byte) (t : State) : State :=
  match s.ms.outs.find? (fun o => o.id = id) with
  | some o => if furrowDpa o.dpa then bumpCount t o.vd 97 (flits data.length) else bumpCount t o.vd 112 data.length
  | none => t

/-- The remote accesses that a step has answered, with one flit each: no answer is longer (R300, R302). -/
def countAnswers (i : Instr) (s t : State) : State :=
  let remote := fun (w : Bar2Wait) => match w.what with
    | .remote _ => true
    | _ => false
  let ended := (s.mg.bar2.filter (fun w => remote w && !(t.mg.bar2.any (fun x => x.id = w.id)))).map (·.vd)
  let now_ := match i with
    | .remoteAccess q => if homesOpen s && !(t.mg.bar2.any (fun x => remote x && s.nextId ≤ x.id)) then [q.vd] else []
    | _ => []
  (ended ++ now_).foldl (fun t v => bumpCount t v 96 1) t

/-- The counters after a step of the table. -/
def countEvent (i : Instr) (s t : State) : State :=
  let t := countAnswers i s t
  match i with
  | .bucketSelection c => countMisses s c (countSelect s c t)
  | .homeReadRequest id => countLoad s id false t
  | .leaseRenewal id => countLoad s id true t
  | .loadReturn id => countReturn s id t
  | .matrixArbitration c => countRefusal s c (countPasses s c t)
  | .limiterWindow d => ((s.clusters.map (·.1)).filter (fun c => dieOfCluster c = d)).foldl (fun t c => countPasses s c t) t
  | .engineChunk c u => countChunk s c u t
  | .apertureCompletion id _ data => countBack s id data t
  | .remoteAccess q => if homesOpen s then bumpCount t q.vd 97 1 else t
  | .hostBar2Write v _ data _ => bumpCount t v 112 data.length
  | .hostBar2Read v _ n => bumpCount t v 113 n
  | _ => t

/-- The counters after any step. -/
def countStep (x : Sched) (s t : State) : State :=
  let t := countSent s (countTier s t)
  match x with
  | .event i => countEvent i s t
  | .core c => countIssue s c t
  | .wait _ => t

end Sys2Proof.Machine
end

