-- ==== Sys2Proof/Machine/Integer.lean ====
section
/-!
DEFINITION. Integer and address arithmetic, select and move (R163 to R166).
-/

namespace Sys2Proof.Machine

/-- D_i of R164: the exact value wrapped, or clamped under SAT. -/
def narrow (f : FR) (x : Int) : Nat := if f.sat then clampTy f.ty x else wrapW (tyW f.ty) x

/-- A_i, B_i and C_i of R164 as numbers. -/
def opA (s : State) (e : FR) (t : Thread) (i : Nat) : Int := intVal e.ty (sub (tyW e.ty) (s.readV t.key e.a.toNat) i)
def opB (s : State) (cx : Ctx) (e : FR) (t : Thread) (i : Nat) : Int := intVal e.ty (sub (tyW e.ty) (operandB s cx.a e true t) i)
def opC (s : State) (e : FR) (t : Thread) (i : Nat) : Int := intVal e.ty (sub (tyW e.ty) (s.readV t.key e.c.toNat) i)

/-- Two- and three-operand integer arithmetic by its exact result (R164). -/
def arith (s : State) (mk : FR → Instr) (f : FR) (x : Int → Int → Int → Int) : Out :=
  packedR s mk f (fun cx e t i => narrow e (x (opA s e t i) (opB s cx e t i) (opC s e t i)))

/-- add (R164): A_i + B_i. -/
def execAdd (f : FR) (s : State) : Out := arith s .add f (fun a b _ => a + b)

/-- sub (R164): A_i − B_i. -/
def execSub (f : FR) (s : State) : Out := arith s .sub f (fun a b _ => a - b)

/-- mul (R164): A_i × B_i. -/
def execMul (f : FR) (s : State) : Out := arith s .mul f (fun a b _ => a * b)

/-- mad (R164): A_i × B_i + C_i. -/
def execMad (f : FR) (s : State) : Out := arith s .mad f (fun a b c => a * b + c)

/-- mulhi (R164): the floor of A_i × B_i / 2^w. -/
def execMulhi (f : FR) (s : State) : Out := arith s .mulhi f (fun a b _ => a * b / 2 ^ tyW f.ty)

/-- The dot product of four byte pairs (R164): signed or unsigned by the type, with .su signed by unsigned. -/
def dotBytes (e : FR) (a b : Word) (i : Nat) : Int :=
  let sa := variant e == 1 || isSint e.ty
  let sb := variant e == 0 && isSint e.ty
  let byte := fun (signed : Bool) (w : Word) (n : Nat) => if signed then sgn 8 (sub 8 w n) else ((sub 8 w n : Nat) : Int)
  (List.range 4).foldl (fun acc j => acc + byte sa a (4 * i + j) * byte sb b (4 * i + j)) 0

/-- dot4 (R164): C_i plus the dot product. -/
def execDot4 (f : FR) (s : State) : Out :=
  packedR s .dot4 f (fun cx e t i => narrow e (opC s e t i + dotBytes e (s.readV t.key e.a.toNat) (operandB s cx.a e false t) i))

/-- sad (R164): C_i + |A_i − B_i|. -/
def execSad (f : FR) (s : State) : Out := arith s .sad f (fun a b c => c + (a - b).natAbs)

/-- min (R164). -/
def execMin (f : FR) (s : State) : Out := arith s .min_ f (fun a b _ => min a b)

/-- max (R164). -/
def execMax (f : FR) (s : State) : Out := arith s .max_ f (fun a b _ => max a b)

/-- abs (R164): the most negative value wraps to itself or clamps. -/
def execAbs (f : FR) (s : State) : Out := arith s .abs_ f (fun a _ _ => a.natAbs)

/-- neg (R164). -/
def execNeg (f : FR) (s : State) : Out := arith s .neg f (fun a _ _ => -a)

/-- The index of lea (R165): all of v.b, or its low half sign- or zero-extended. -/
def leaIndex (e : FR) (b : Word) : Int :=
  match variant e with
  | 1 => sgn 32 (sub 32 b 0)
  | 2 => ((sub 32 b 0 : Nat) : Int)
  | _ => (b.toNat : Int)

/-- lea (R165). -/
def execLea (f : FR) (s : State) : Out :=
  wholeR s .lea f (fun cx e t =>
    BitVec.ofInt 64 ((s.readV t.key e.a.toNat).toNat + leaIndex e (operandB s cx.a e false t) * 2 ^ (e.ext.toNat % 8)))

/-- sel (R165): A_i where the predicate's bit i·(8/k) is 1, else B_i. -/
def execSel (f : FR) (s : State) : Out :=
  packedR s .sel f (fun cx e t i =>
    if (t.readP e.c.toNat).getLsbD (i * (8 / tyK e.ty)) then sub (tyW e.ty) (s.readV t.key e.a.toNat) i
    else sub (tyW e.ty) (operandB s cx.a e false t) i)

/-- mov (R165). -/
def execMov (f : FR) (s : State) : Out :=
  packedR s .mov f (fun cx e t i => sub (tyW e.ty) (operandB s cx.a e true t) i)

/-- A format I instruction that writes a whole register under enabled(0). -/
def wholeI (s : State) (mk : FI → Instr) (f : FI) (d : FI → Thread → Word) : Out :=
  datapath s (fun cx => mk (cx.fi f))
    (fun cx t => if enabled t f.g then [(cx.fi f).d.toNat] else [])
    (fun cx t => if enabled t f.g then t.writeV (cx.fi f).d.toNat (d (cx.fi f) t) else t)

/-- movi (R166): the sign-extended IMM36. -/
def execMovi (f : FI) (s : State) : Out := wholeI s .movi f (fun e _ => e.imm.signExtend 64)

/-- movi.hi (R166): the high half from IMM36 [31:0], the low half kept. -/
def execMoviHi (f : FI) (s : State) : Out :=
  wholeI s .moviHi f (fun e t => setBits (t.heldV e.d.toNat) 63 32 e.imm.toNat)

end Sys2Proof.Machine
end

