-- ==== Sys2Proof/Machine/Logic.lean ====
section
/-!
DEFINITION. Logic, shifts, bit counts and bit fields (R167, R168).
-/

namespace Sys2Proof.Machine

/-- Unsigned sub-elements of operands a, b and c. -/
def rawA (s : State) (e : FR) (t : Thread) (i : Nat) : Nat := sub (tyW e.ty) (s.readV t.key e.a.toNat) i
def rawB (s : State) (cx : Ctx) (e : FR) (t : Thread) (i : Nat) : Nat := sub (tyW e.ty) (operandB s cx.a e true t) i
def rawC (s : State) (e : FR) (t : Thread) (i : Nat) : Nat := sub (tyW e.ty) (s.readV t.key e.c.toNat) i

/-- A two-operand instruction of R167 by its result on w-bit patterns. -/
def logic2 (s : State) (mk : FR → Instr) (f : FR) (x : Nat → Nat → Nat → Nat) : Out :=
  packedR s mk f (fun cx e t i => x (tyW e.ty) (rawA s e t i) (rawB s cx e t i))

/-- A one-operand instruction of R167. -/
def logic1 (s : State) (mk : FR → Instr) (f : FR) (x : Nat → Nat → Nat) : Out :=
  packedR s mk f (fun _ e t i => x (tyW e.ty) (rawA s e t i))

/-- The w-bit complement. -/
def compl (w a : Nat) : Nat := 2 ^ w - 1 - a % 2 ^ w

/-- and (R167). -/
def execAnd (f : FR) (s : State) : Out := logic2 s .and_ f (fun _ a b => Nat.land a b)

/-- or (R167). -/
def execOr (f : FR) (s : State) : Out := logic2 s .or_ f (fun _ a b => Nat.lor a b)

/-- xor (R167). -/
def execXor (f : FR) (s : State) : Out := logic2 s .xor_ f (fun _ a b => Nat.xor a b)

/-- andn (R167): A_i and not B_i. -/
def execAndn (f : FR) (s : State) : Out := logic2 s .andn f (fun w a b => Nat.land a (compl w b))

/-- not (R167). -/
def execNot (f : FR) (s : State) : Out := logic1 s .not_ f (fun w a => compl w a)

/-- shl (R167): 0 for amounts of w or more. -/
def execShl (f : FR) (s : State) : Out := logic2 s .shl f (fun w a n => if w ≤ n then 0 else a * 2 ^ n % 2 ^ w)

/-- shr (R167): logical, 0 for amounts of w or more. -/
def execShr (f : FR) (s : State) : Out := logic2 s .shr f (fun w a n => if w ≤ n then 0 else a / 2 ^ n)

/-- sar (R167): sign fill, the amount limited to w − 1. -/
def execSar (f : FR) (s : State) : Out := logic2 s .sar f (fun w a n => wrapW w (sgn w a / 2 ^ min n (w - 1)))

/-- rot (R167): left by n mod w. -/
def execRot (f : FR) (s : State) : Out :=
  logic2 s .rot f (fun w a n => a * 2 ^ (n % w) % 2 ^ w + a / 2 ^ (w - n % w))

/-- clz (R167): w for zero. -/
def execClz (f : FR) (s : State) : Out := logic1 s .clz f (fun w a => if a = 0 then w else w - 1 - Nat.log2 a)

/-- The number of one bits among the low w. -/
def popcount : Nat → Nat → Nat
  | 0, _ => 0
  | w + 1, a => a % 2 + popcount w (a / 2)

/-- popc (R167). -/
def execPopc (f : FR) (s : State) : Out := logic1 s .popc f (fun w a => popcount w a)

/-- The low w bits in reverse order. -/
def reverseBits : Nat → Nat → Nat
  | 0, _ => 0
  | w + 1, a => a % 2 * 2 ^ w + reverseBits w (a / 2)

/-- bitrev (R167). -/
def execBitrev (f : FR) (s : State) : Out := logic1 s .bitrev f reverseBits

/-- The extracted field of R168: position B [7:0], width min(B [15:8], w), read from the extension above bit w − 1. -/
def extractField (t : Ty) (a b : Nat) : Nat :=
  let w := tyW t
  let pos := b % 256
  let wid := min (b / 256 % 256) w
  if wid = 0 then 0
  else
    let ext : Int := if isSint t then sgn w a else ((a : Nat) : Int)
    let fld := (ext / 2 ^ pos % 2 ^ wid).toNat
    if isSint t then wrapW w (sgn wid fld) else fld

/-- bfe (R168). -/
def execBfe (f : FR) (s : State) : Out :=
  packedR s .bfe f (fun cx e t i => extractField e.ty (rawA s e t i) (rawB s cx e t i))

/-- The insertion of R168: bits of A into C at the field of B, up to bit w − 1. -/
def insertField (w a b c : Nat) : Nat :=
  let pos := b % 256
  let wid := min (b / 256 % 256) w
  bitsOf w (fun j => if pos ≤ j && j < pos + wid then Nat.testBit a (j - pos) else Nat.testBit c j)

/-- bfi (R168). -/
def execBfi (f : FR) (s : State) : Out :=
  packedR s .bfi f (fun cx e t i => insertField (tyW e.ty) (rawA s e t i) (rawB s cx e t i) (rawC s e t i))

end Sys2Proof.Machine
end

