-- ==== Sys2Proof/Machine/Compare.lean ====
section
/-!
DEFINITION. Comparisons, classes and predicate instructions (R169 to R171).
-/

namespace Sys2Proof.Machine

/-- cmp (R169). -/
def execCmp (f : FR) (s : State) : Out :=
  predR s .cmp f (fun cx e t old =>
    predSubs (tyK e.ty) (enabledAt t f.g (tyK e.ty)) (fun i => cmpCode e.c.toNat (opA s e t i) (opB s cx e t i)) old)

/-- fcmp (R169). -/
def execFcmp (f : FR) (s : State) : Out :=
  predR s .fcmp f (fun cx e t old =>
    predSubs (tyK e.ty) (enabledAt t f.g (tyK e.ty)) (fun i => fcmpCode e.ty e.c.toNat (rawA s e t i) (rawB s cx e t i)) old)

/-- fclass (R170): the mask bit of the class. -/
def execFclass (f : FR) (s : State) : Out :=
  predR s .fclass f (fun _ e t old =>
    predSubs (tyK e.ty) (enabledAt t f.g (tyK e.ty)) (fun i => e.ext.getLsbD (fclassOf e.ty (rawA s e t i))) old)

/-- A predicate instruction under its bitwise guard (R171). -/
def predOp (s : State) (mk : FR → Instr) (f : FR) (op : Bool → Bool → Bool) : Out :=
  predR s mk f (fun _ e t old =>
    predBits (guardVal t f.g) (fun j => op ((t.readP e.a.toNat).getLsbD j) ((t.readP e.b.toNat).getLsbD j)) old)

/-- pand (R171). -/
def execPand (f : FR) (s : State) : Out := predOp s .pand f (fun a b => a && b)

/-- por (R171). -/
def execPor (f : FR) (s : State) : Out := predOp s .por f (fun a b => a || b)

/-- pxor (R171). -/
def execPxor (f : FR) (s : State) : Out := predOp s .pxor f (fun a b => a != b)

/-- pnot (R171). -/
def execPnot (f : FR) (s : State) : Out := predOp s .pnot f (fun a _ => !a)

/-- pmov pd, va (R171): the low eight bits of a vector register. -/
def execPmovFromVector (f : FR) (s : State) : Out :=
  predR s .pmovFromVector f (fun _ e t old => predBits (guardVal t f.g) (fun j => (s.readV t.key e.a.toNat).getLsbD j) old)

/-- pmov vd, pa (R171): a predicate, zero-extended, under enabled(0). -/
def execPmovToVector (f : FR) (s : State) : Out :=
  wholeR s .pmovToVector f (fun _ e t => (t.readP e.a.toNat).setWidth 64)

end Sys2Proof.Machine
end

