-- ==== Sys2Proof/Machine/CrossLane.lean ====
section
/-!
DEFINITION. Exchange between the lanes of an aligned set (R182 to R185).
-/

namespace Sys2Proof.Machine

/-- The lanes of a member's aligned set that exist and have not exited, with their lane numbers. -/
def setLanes (s : State) (cx : Ctx) (t : Thread) : List (Nat × Thread) :=
  (List.range cx.a).filterMap (fun l => (lanePeer s t cx.a l).map (fun p => (l, p)))

/-- vote.any and vote.all (R185): bit j over the lanes whose guard bit j is 1. -/
def voteBit (s : State) (cx : Ctx) (f e : FR) (all : Bool) (t : Thread) (j : Nat) : Bool :=
  let ls := (setLanes s cx t).filter (fun p => (guardVal p.2 f.g).getLsbD j)
  if all then ls.all (fun p => (p.2.readP e.a.toNat).getLsbD j) else ls.any (fun p => (p.2.readP e.a.toNat).getLsbD j)

/-- vote.any (R185). -/
def execVoteAny (f : FR) (s : State) : Out :=
  predR s .voteAny f (fun cx e t old => predBits (guardVal t f.g) (voteBit s cx f e false t) old)

/-- vote.all (R185). -/
def execVoteAll (f : FR) (s : State) : Out :=
  predR s .voteAll f (fun cx e t old => predBits (guardVal t f.g) (voteBit s cx f e true t) old)

/-- vote.ballot (R185): bit l is 1 where lane l has enabled(0) and its predicate bit is 1. -/
def execVoteBallot (f : FR) (s : State) : Out :=
  wholeR s .voteBallot f (fun cx e t =>
    let ls := setLanes s cx t
    BitVec.ofNat 64 (bitsOf 64 (fun l => ls.any (fun p => p.1 == l && enabled p.2 f.g && (p.2.readP e.a.toNat).getLsbD (e.ext.toNat % 8)))))

/-- The sub-element an index names, zero where R182 says so. -/
def laneElem (s : State) (cx : Ctx) (e : FR) (t : Thread) (idx : Nat) : Nat :=
  match lanePeer s t cx.a (idx / 8) with
  | some p => if idx % 8 < tyK e.ty then sub (tyW e.ty) (s.readV p.key e.a.toNat) (idx % 8) else 0
  | none => 0

/-- shfl (R183). -/
def execShfl (f : FR) (s : State) : Out :=
  packedR s .shfl f (fun cx e t i => laneElem s cx e t (sub (tyW e.ty) (operandB s cx.a e false t) i))

/-- What the highest sending index sends to an index (R184): senders in ascending order, the last one kept. -/
def bpermValue (s : State) (cx : Ctx) (f e : FR) (t : Thread) (dst : Nat) : Nat :=
  let sends := fun (acc : Nat) (p : Nat × Thread) =>
    (List.range (tyK e.ty)).foldl (fun acc i =>
      if enabledAt p.2 f.g (tyK e.ty) i && sub (tyW e.ty) (operandB s cx.a e false p.2) i == dst
      then sub (tyW e.ty) (s.readV p.2.key e.a.toNat) i else acc) acc
  (setLanes s cx t).foldl sends 0

/-- bperm (R184): a destination takes the highest sender's value, or 0. -/
def execBperm (f : FR) (s : State) : Out :=
  packedR s .bperm f (fun cx e t i => bpermValue s cx f e t (t.key.tid % cx.a * 8 + i))

end Sys2Proof.Machine
end

