-- ==== Sys2Proof/Machine/Float.lean ====
section
/-!
DEFINITION. Floating-point arithmetic and functions (R172 to R175), each result checked by the shadow unit (R360, R361) but for
fmin, fmax, fabs and fneg.
-/

namespace Sys2Proof.Machine

/-- RND of an exact value in the instruction's format and modes; RS draws with SEED 0 and e = i (R173). -/
def roundTo (cx : Ctx) (e : FR) (t : Thread) (i : Nat) (x : XVal) : Nat := rnd (tyFmt e.ty) e.rnd e.sat (cx.draw t 0 i) x

/-- Arithmetic by its exact value from A_i, B_i and C_i (R172). -/
def floatArith (s : State) (mk : FR → Instr) (f : FR) (x : XVal → XVal → XVal → XVal) : Out :=
  floatR s mk f (fun cx e t i =>
    let fm := tyFmt e.ty
    roundTo cx e t i (x (fm.value (rawA s e t i)) (fm.value (rawB s cx e t i)) (fm.value (rawC s e t i))))

/-- A function by its code (R173). -/
def floatFunc (s : State) (mk : FR → Instr) (f : FR) (fn : Func) : Out :=
  floatR s mk f (fun cx e t i => funcCode e.ty e.rnd e.sat (cx.draw t 0 i) fn (rawA s e t i))

/-- fadd (R173). -/
def execFadd (f : FR) (s : State) : Out := floatArith s .fadd f (fun a b _ => xadd (f.rnd == .rd) a b)

/-- fsub (R173). -/
def execFsub (f : FR) (s : State) : Out := floatArith s .fsub f (fun a b _ => xadd (f.rnd == .rd) a b.negate)

/-- fmul (R173). -/
def execFmul (f : FR) (s : State) : Out := floatArith s .fmul f (fun a b _ => xmul a b)

/-- fma (R173): one rounding. -/
def execFma (f : FR) (s : State) : Out := floatArith s .fma f (fun a b c => xadd (f.rnd == .rd) (xmul a b) c)

/-- fmin (R174). -/
def execFmin (f : FR) (s : State) : Out := packedR s .fmin f (fun cx e t i => fminmax e.ty false (rawA s e t i) (rawB s cx e t i))

/-- fmax (R174). -/
def execFmax (f : FR) (s : State) : Out := packedR s .fmax f (fun cx e t i => fminmax e.ty true (rawA s e t i) (rawB s cx e t i))

/-- The sign bit changed, a NaN canonicalised (R174). -/
def signOp (t : Ty) (code : Nat) (neg : Bool → Bool) : Nat :=
  let f := tyFmt t
  if (f.value code).isNan then f.nanCode else f.withSign (neg (decide (f.signBit ≤ code))) (code % f.signBit)

/-- fabs (R174). -/
def execFabs (f : FR) (s : State) : Out := packedR s .fabs f (fun _ e t i => signOp e.ty (rawA s e t i) (fun _ => false))

/-- fneg (R174). -/
def execFneg (f : FR) (s : State) : Out := packedR s .fneg f (fun _ e t i => signOp e.ty (rawA s e t i) (fun n => !n))

/-- frnd (R175). -/
def execFrnd (f : FR) (s : State) : Out := floatR s .frnd f (fun cx e t i => frndCode e.ty e.rnd (cx.draw t 0 i) (rawA s e t i))

/-- frcp (R173). -/
def execFrcp (f : FR) (s : State) : Out := floatArith s .frcp f (fun a _ _ => xinv a)

/-- frsq (R173). -/
def execFrsq (f : FR) (s : State) : Out := floatArith s .frsq f (fun a _ _ => xrsqrt a)

/-- fsqrt (R173). -/
def execFsqrt (f : FR) (s : State) : Out := floatArith s .fsqrt f (fun a _ _ => xsqrt a)

/-- fexp2 (R173). -/
def execFexp2 (f : FR) (s : State) : Out := floatFunc s .fexp2 f .exp2

/-- flog2 (R173). -/
def execFlog2 (f : FR) (s : State) : Out := floatFunc s .flog2 f .log2

/-- fsin (R173). -/
def execFsin (f : FR) (s : State) : Out := floatFunc s .fsin f .sin

/-- fcos (R173). -/
def execFcos (f : FR) (s : State) : Out := floatFunc s .fcos f .cos

/-- ftanh (R173). -/
def execFtanh (f : FR) (s : State) : Out := floatFunc s .ftanh f .tanh

end Sys2Proof.Machine
end

