-- ==== Sys2Proof/Machine/Dispatch.lean ====
section
/-!
DEFINITION. What one step of the table does: one arm per constructor, each one call of its meaning.
-/

namespace Sys2Proof.Machine

/-- The meaning of an instruction or event. -/
def exec (i : Instr) (s : State) : Host.Outcome State Fault Refusal :=
  match i with
  | .add f => Sys2Proof.Machine.execAdd f s
  | .sub f => Sys2Proof.Machine.execSub f s
  | .mul f => Sys2Proof.Machine.execMul f s
  | .mad f => Sys2Proof.Machine.execMad f s
  | .mulhi f => Sys2Proof.Machine.execMulhi f s
  | .dot4 f => Sys2Proof.Machine.execDot4 f s
  | .sad f => Sys2Proof.Machine.execSad f s
  | .min_ f => Sys2Proof.Machine.execMin f s
  | .max_ f => Sys2Proof.Machine.execMax f s
  | .abs_ f => Sys2Proof.Machine.execAbs f s
  | .neg f => Sys2Proof.Machine.execNeg f s
  | .lea f => Sys2Proof.Machine.execLea f s
  | .sel f => Sys2Proof.Machine.execSel f s
  | .mov f => Sys2Proof.Machine.execMov f s
  | .movi f => Sys2Proof.Machine.execMovi f s
  | .moviHi f => Sys2Proof.Machine.execMoviHi f s
  | .and_ f => Sys2Proof.Machine.execAnd f s
  | .or_ f => Sys2Proof.Machine.execOr f s
  | .xor_ f => Sys2Proof.Machine.execXor f s
  | .andn f => Sys2Proof.Machine.execAndn f s
  | .not_ f => Sys2Proof.Machine.execNot f s
  | .shl f => Sys2Proof.Machine.execShl f s
  | .shr f => Sys2Proof.Machine.execShr f s
  | .sar f => Sys2Proof.Machine.execSar f s
  | .rot f => Sys2Proof.Machine.execRot f s
  | .clz f => Sys2Proof.Machine.execClz f s
  | .popc f => Sys2Proof.Machine.execPopc f s
  | .bitrev f => Sys2Proof.Machine.execBitrev f s
  | .bfe f => Sys2Proof.Machine.execBfe f s
  | .bfi f => Sys2Proof.Machine.execBfi f s
  | .cmp f => Sys2Proof.Machine.execCmp f s
  | .fcmp f => Sys2Proof.Machine.execFcmp f s
  | .fclass f => Sys2Proof.Machine.execFclass f s
  | .pand f => Sys2Proof.Machine.execPand f s
  | .por f => Sys2Proof.Machine.execPor f s
  | .pxor f => Sys2Proof.Machine.execPxor f s
  | .pnot f => Sys2Proof.Machine.execPnot f s
  | .pmovFromVector f => Sys2Proof.Machine.execPmovFromVector f s
  | .pmovToVector f => Sys2Proof.Machine.execPmovToVector f s
  | .voteAny f => Sys2Proof.Machine.execVoteAny f s
  | .voteAll f => Sys2Proof.Machine.execVoteAll f s
  | .voteBallot f => Sys2Proof.Machine.execVoteBallot f s
  | .shfl f => Sys2Proof.Machine.execShfl f s
  | .bperm f => Sys2Proof.Machine.execBperm f s
  | .fadd f => Sys2Proof.Machine.execFadd f s
  | .fsub f => Sys2Proof.Machine.execFsub f s
  | .fmul f => Sys2Proof.Machine.execFmul f s
  | .fma f => Sys2Proof.Machine.execFma f s
  | .fmin f => Sys2Proof.Machine.execFmin f s
  | .fmax f => Sys2Proof.Machine.execFmax f s
  | .fabs f => Sys2Proof.Machine.execFabs f s
  | .fneg f => Sys2Proof.Machine.execFneg f s
  | .frnd f => Sys2Proof.Machine.execFrnd f s
  | .frcp f => Sys2Proof.Machine.execFrcp f s
  | .frsq f => Sys2Proof.Machine.execFrsq f s
  | .fsqrt f => Sys2Proof.Machine.execFsqrt f s
  | .fexp2 f => Sys2Proof.Machine.execFexp2 f s
  | .flog2 f => Sys2Proof.Machine.execFlog2 f s
  | .fsin f => Sys2Proof.Machine.execFsin f s
  | .fcos f => Sys2Proof.Machine.execFcos f s
  | .ftanh f => Sys2Proof.Machine.execFtanh f s
  | .cvt f => Sys2Proof.Machine.execCvt f s
  | .qnt f => Sys2Proof.Machine.execQnt f s
  | .dqnt f => Sys2Proof.Machine.execDqnt f s
  | .pack f => Sys2Proof.Machine.execPack f s
  | .unpack f => Sys2Proof.Machine.execUnpack f s
  | .bra f => Sys2Proof.Machine.execBra f s
  | .call f => Sys2Proof.Machine.execCall f s
  | .brx f => Sys2Proof.Machine.execBrx f s
  | .ret f => Sys2Proof.Machine.execRet f s
  | .exit f => Sys2Proof.Machine.execExit f s
  | .yield f => Sys2Proof.Machine.execYield f s
  | .rep f => Sys2Proof.Machine.execRep f s
  | .waitt f => Sys2Proof.Machine.execWaitt f s
  | .trap f => Sys2Proof.Machine.execTrap f s
  | .brk f => Sys2Proof.Machine.execBrk f s
  | .eret f => Sys2Proof.Machine.execEret f s
  | .movs f => Sys2Proof.Machine.execMovs f s
  | .movt f => Sys2Proof.Machine.execMovt f s
  | .ld f => Sys2Proof.Machine.execLd f s
  | .st f => Sys2Proof.Machine.execSt f s
  | .ldu f => Sys2Proof.Machine.execLdu f s
  | .atom f => Sys2Proof.Machine.execAtom f s
  | .atomFadd f => Sys2Proof.Machine.execAtomFadd f s
  | .red f => Sys2Proof.Machine.execRed f s
  | .fence f => Sys2Proof.Machine.execFence f s
  | .fenceX f => Sys2Proof.Machine.execFenceX f s
  | .pref f => Sys2Proof.Machine.execPref f s
  | .cpy f => Sys2Proof.Machine.execCpy f s
  | .barArr f => Sys2Proof.Machine.execBarArr f s
  | .barWait f => Sys2Proof.Machine.execBarWait f s
  | .barRed f => Sys2Proof.Machine.execBarRed f s
  | .barScan f => Sys2Proof.Machine.execBarScan f s
  | .spawn f => Sys2Proof.Machine.execSpawn f s
  | .migr f => Sys2Proof.Machine.execMigr f s
  | .musts f => Sys2Proof.Machine.execMusts f s
  | .tld f => Sys2Proof.Machine.execTld f s
  | .tst f => Sys2Proof.Machine.execTst f s
  | .acl f => Sys2Proof.Machine.execAcl f s
  | .mma f => Sys2Proof.Machine.execMma f s
  | .adrn f => Sys2Proof.Machine.execAdrn f s
  | .abyp f => Sys2Proof.Machine.execAbyp f s
  | .ast f => Sys2Proof.Machine.execAst f s
  | .hld f => Sys2Proof.Machine.execHld f s
  | .hst f => Sys2Proof.Machine.execHst f s
  | .hclr f => Sys2Proof.Machine.execHclr f s
  | .hbind f => Sys2Proof.Machine.execHbind f s
  | .hperm f => Sys2Proof.Machine.execHperm f s
  | .hbun f => Sys2Proof.Machine.execHbun f s
  | .hmaj f => Sys2Proof.Machine.execHmaj f s
  | .hdist f => Sys2Proof.Machine.execHdist f s
  | .hpop f => Sys2Proof.Machine.execHpop f s
  | .hams f => Sys2Proof.Machine.execHams f s
  | .hnear f => Sys2Proof.Machine.execHnear f s
  | .hnearK f => Sys2Proof.Machine.execHnearK f s
  | .hscan f => Sys2Proof.Machine.execHscan f s
  | .deferredTrap k => Sys2Proof.Machine.execDeferredTrap k s
  | .bucketSelection core => Sys2Proof.Machine.execBucketSelection core s
  | .groupSuspend core => Sys2Proof.Machine.execGroupSuspend core s
  | .threadAged k => Sys2Proof.Machine.execThreadAged k s
  | .teamStallDetect t => Sys2Proof.Machine.execTeamStallDetect t s
  | .threadActivation core => Sys2Proof.Machine.execThreadActivation core s
  | .contextLineFetchComplete k line => Sys2Proof.Machine.execContextLineFetchComplete k line s
  | .victimWritebackComplete id => Sys2Proof.Machine.execVictimWritebackComplete id s
  | .barrierRelease k => Sys2Proof.Machine.execBarrierRelease k s
  | .yieldExpire k => Sys2Proof.Machine.execYieldExpire k s
  | .waittDeadline k => Sys2Proof.Machine.execWaittDeadline k s
  | .fenceComplete k => Sys2Proof.Machine.execFenceComplete k s
  | .loadReturn id => Sys2Proof.Machine.execLoadReturn id s
  | .storeAck id => Sys2Proof.Machine.execStoreAck id s
  | .atomReturn id => Sys2Proof.Machine.execAtomReturn id s
  | .homeReadRequest id => Sys2Proof.Machine.execHomeReadRequest id s
  | .leaseRenewal id => Sys2Proof.Machine.execLeaseRenewal id s
  | .homeStoreArrival id => Sys2Proof.Machine.execHomeStoreArrival id s
  | .homeAtomic id => Sys2Proof.Machine.execHomeAtomic id s
  | .replicaUpdate id => Sys2Proof.Machine.execReplicaUpdate id s
  | .combiningFlush id => Sys2Proof.Machine.execCombiningFlush id s
  | .windowRetire cluster sector => Sys2Proof.Machine.execWindowRetire cluster sector s
  | .heatDecay line => Sys2Proof.Machine.execHeatDecay line s
  | .scrub sector => Sys2Proof.Machine.execScrub sector s
  | .leaseEntryError line => Sys2Proof.Machine.execLeaseEntryError line s
  | .tinv vd x => Sys2Proof.Machine.execTinv vd x s
  | .tinvComplete vd => Sys2Proof.Machine.execTinvComplete vd s
  | .fqtail vd x => Sys2Proof.Machine.execFqtail vd x s
  | .stage2FaultRelease id retry => Sys2Proof.Machine.execStage2FaultRelease id retry s
  | .cntvalRead vd => Sys2Proof.Machine.execCntvalRead vd s
  | .tierreqEvict vd x => Sys2Proof.Machine.execTierreqEvict vd x s
  | .tierreqPromote vd x => Sys2Proof.Machine.execTierreqPromote vd x s
  | .evictionStart h => Sys2Proof.Machine.execEvictionStart h s
  | .containerSealed h writeFails => Sys2Proof.Machine.execContainerSealed h writeFails s
  | .promotionComplete h => Sys2Proof.Machine.execPromotionComplete h s
  | .kick vd j x => Sys2Proof.Machine.execKick vd j x s
  | .kickRecordRead vd j => Sys2Proof.Machine.execKickRecordRead vd j s
  | .dependenceReport vd j pair => Sys2Proof.Machine.execDependenceReport vd j pair s
  | .launchStart vd j => Sys2Proof.Machine.execLaunchStart vd j s
  | .teamPlacement vd => Sys2Proof.Machine.execTeamPlacement vd s
  | .teamComplete t => Sys2Proof.Machine.execTeamComplete t s
  | .launchComplete lid => Sys2Proof.Machine.execLaunchComplete lid s
  | .qdoneAck lid => Sys2Proof.Machine.execQdoneAck lid s
  | .seedBinTimer cluster bin => Sys2Proof.Machine.execSeedBinTimer cluster bin s
  | .spawnedTeamRelease cluster bin => Sys2Proof.Machine.execSpawnedTeamRelease cluster bin s
  | .landingSlotGrant die => Sys2Proof.Machine.execLandingSlotGrant die s
  | .engineChunk cluster unit => Sys2Proof.Machine.execEngineChunk cluster unit s
  | .engineCommandComplete id => Sys2Proof.Machine.execEngineCommandComplete id s
  | .matrixArbitration cluster => Sys2Proof.Machine.execMatrixArbitration cluster s
  | .limiterWindow die => Sys2Proof.Machine.execLimiterWindow die s
  | .create vd img => Sys2Proof.Machine.execCreate vd img s
  | .start vd => Sys2Proof.Machine.execStart vd s
  | .suspend vd => Sys2Proof.Machine.execSuspend vd s
  | .resume vd => Sys2Proof.Machine.execResume vd s
  | .migout vd transport => Sys2Proof.Machine.execMigout vd transport s
  | .migstop vd => Sys2Proof.Machine.execMigstop vd s
  | .migdone vd pauseNs => Sys2Proof.Machine.execMigdone vd pauseNs s
  | .migabort vd => Sys2Proof.Machine.execMigabort vd s
  | .migin vd transport img => Sys2Proof.Machine.execMigin vd transport img s
  | .kill vd => Sys2Proof.Machine.execKill vd s
  | .destroy vd => Sys2Proof.Machine.execDestroy vd s
  | .setf vd img mask => Sys2Proof.Machine.execSetf vd img mask s
  | .s2inv vd base len => Sys2Proof.Machine.execS2inv vd base len s
  | .dbswap vd => Sys2Proof.Machine.execDbswap vd s
  | .attest vd nonce => Sys2Proof.Machine.execAttest vd nonce s
  | .huquery bank => Sys2Proof.Machine.execHuquery bank s
  | .hurestore bank item vd => Sys2Proof.Machine.execHurestore bank item vd s
  | .huclear bank => Sys2Proof.Machine.execHuclear bank s
  | .mgmtUndefinedOpc opc vd => Sys2Proof.Machine.execMgmtUndefinedOpc opc vd s
  | .sliceBoundary => Sys2Proof.Machine.execSliceBoundary s
  | .preemptionComplete cluster vd => Sys2Proof.Machine.execPreemptionComplete cluster vd s
  | .drainComplete vd => Sys2Proof.Machine.execDrainComplete vd s
  | .drainTimeout vd => Sys2Proof.Machine.execDrainTimeout vd s
  | .migrationRecord vd r => Sys2Proof.Machine.execMigrationRecord vd r s
  | .pullResponse h r => Sys2Proof.Machine.execPullResponse h r s
  | .pullTimeout vd => Sys2Proof.Machine.execPullTimeout vd s
  | .hostBar2Write vd off data poison => Sys2Proof.Machine.execHostBar2Write vd off data poison s
  | .hostBar2Read vd off len => Sys2Proof.Machine.execHostBar2Read vd off len s
  | .remoteAccess q => Sys2Proof.Machine.execRemoteAccess q s
  | .apertureCompletion id ok data => Sys2Proof.Machine.execApertureCompletion id ok data s
  | .apertureTimeout id => Sys2Proof.Machine.execApertureTimeout id s
  | .furrowReservationRenew vd e expiry => Sys2Proof.Machine.execFurrowReservationRenew vd e expiry s
  | .mustsAdmission id => Sys2Proof.Machine.execMustsAdmission id s
  | .schctlWrite x => Sys2Proof.Machine.execSchctlWrite x s
  | .pwidthWrite x => Sys2Proof.Machine.execPwidthWrite x s
  | .dsctlWrite die x => Sys2Proof.Machine.execDsctlWrite die x s
  | .fstepWrite die x => Sys2Proof.Machine.execFstepWrite die x s
  | .dvfsSwitch die => Sys2Proof.Machine.execDvfsSwitch die s
  | .thermalTrip die => Sys2Proof.Machine.execThermalTrip die s
  | .powerMeasure die milliwatts => Sys2Proof.Machine.execPowerMeasure die milliwatts s
  | .debugHaltTeam vd team => Sys2Proof.Machine.execDebugHaltTeam vd team s
  | .debugHaltLaunch vd => Sys2Proof.Machine.execDebugHaltLaunch vd s
  | .debugResumeTeam vd team => Sys2Proof.Machine.execDebugResumeTeam vd team s
  | .debugResumeLaunch vd => Sys2Proof.Machine.execDebugResumeLaunch vd s
  | .threadHaltEntry k => Sys2Proof.Machine.execThreadHaltEntry k s
  | .partitionResetRequest k x => Sys2Proof.Machine.execPartitionResetRequest k x s
  | .partitionReset k => Sys2Proof.Machine.execPartitionReset k s
  | .selfTestComplete k failed => Sys2Proof.Machine.execSelfTestComplete k failed s
  | .sramEccError die site double => Sys2Proof.Machine.execSramEccError die site double s
  | .rollback t => Sys2Proof.Machine.execRollback t s
  | .timeCheck die offNs => Sys2Proof.Machine.execTimeCheck die offNs s
  | .timeRelock die => Sys2Proof.Machine.execTimeRelock die s
  | .timeFaultTimeout md => Sys2Proof.Machine.execTimeFaultTimeout md s
  | .ucieLaneRepair link modl lane => Sys2Proof.Machine.execUcieLaneRepair link modl lane s
  | .furrowPortDown port => Sys2Proof.Machine.execFurrowPortDown port s
  | .boot image => Sys2Proof.Machine.execBoot image s
  | .bankMeasure millijoules => Sys2Proof.Machine.execBankMeasure millijoules s
  | .supplyLoss => Sys2Proof.Machine.execSupplyLoss s
  | .holdupFreeze => Sys2Proof.Machine.execHoldupFreeze s
  | .holdupSeal => Sys2Proof.Machine.execHoldupSeal s
  | .supplyReturn millijoules => Sys2Proof.Machine.execSupplyReturn millijoules s
  | .registerWrite space off x => Sys2Proof.Machine.execRegisterWrite space off x s
  | .bar2PromotionTimeout id => Sys2Proof.Machine.execBar2PromotionTimeout id s
  | .iodReferenceLoss => Sys2Proof.Machine.execIodReferenceLoss s
  | .peleloPlotRequest h ask => Sys2Proof.Machine.execPeleloPlotRequest h ask s

end Sys2Proof.Machine
end

