-- ==== Sys2Proof/Machine/Run.lean ====
section
/-!
DEFINITION. What surrounds the meanings in a step: the passing of time (R120, R307, R309), the instruction in a core's issue slot
(R33, R34, R152), what follows each step, the machine's own steps to choose from, and a state that is about to run one instruction.
-/

namespace Sys2Proof.Machine

/-! Time. -/

/-- A compute die n nanoseconds on: CYC by its clock, NCYC by INC for each cycle; neither while its clock is stopped (R309). -/
def Die.tick (d : Die) (n : Nat) : Die :=
  if d.stopped then d
  else
    let f := 1000 + 100 * d.fcur
    let x := d.rem + n * f
    { d with rem := x % 1000, cyc := (d.cyc + x / 1000) % 2 ^ 64, ncyc := (d.ncyc + x / 1000 * (131072000 / f)) % 2 ^ 64 }

/-- How far time may pass at once: not beyond the next slice boundary (R275), nor beyond Tc while the hold-up sequence stops the
machine (R379). -/
def waitFor (s : State) (n : Nat) : Nat :=
  match s.power with
  | .on => min n (s.mg.boundary - s.now)
  | .stopping tdet => min n (tdet + 20000 - s.now)
  | _ => n

/-- Time passes, and with it write times come; from the freeze on the compute dies are without power (R19). -/
def passTime (s : State) (n : Nat) : State :=
  let s := stampReady s
  let n := waitFor s n
  settle { s with now := s.now + n, dies := if homesOpen s then s.dies.map (fun d => d.tick n) else s.dies }

/-! A core. -/

/-- The word a core's group stands at. -/
def Group.word (g : Group) : Word := g.words.getD (g.pos + 1) 0

/-- One instruction of the group in a core's issue slot: a word that decodes to nothing raises illegal-instruction (R152). -/
def coreStep (c : Nat) (s : State) : Out :=
  let s := { s with cur := c }
  match (s.core c).slot with
  | none => .next s
  | some g =>
    if (s.die (dieOfCluster (clusterOfCore c))).stopped then .next s
    else if mustStop s c g then
      .next { s with cores := s.cores.map (fun p => if p.1 = c && !(s.ms.reqs.any (fun q => (mustsOf q).isSome && q.thr.team == g.team &&
        g.members.contains q.thr.tid)) then (p.1, { p.2 with slot := none }) else p) }
    else match decodeWord g.word with
      | some i => exec i s
      | none => (match ctx? s with
          | some cx => .next (raiseAll s cx 0x02)
          | none => .next s)

/-! What follows a step. -/

/-- The 64 B units of a team's block as they stand on chip (R368): frame offset over 64, and content. -/
def blockUnits (s : State) (t : Team) (l : Launch) : List (Nat × List Byte) :=
  let img := blockImage t l (s.vd t.vd).gen []
  (List.range (blockOf l t.key / 64)).filterMap (fun i =>
    let b := memRange img (64 * i) 64
    if b.all (· == 0) then none else some (i, b))

/-- The old content of a unit; what a block does not list is zero. -/
def unitContent (us : List (Nat × List Byte)) (i : Nat) : List Byte := (look i us).getD (List.replicate 64 0)

/-- The units of a team's block that a step has changed, with their old content. -/
def blockChanges (s u : State) (l : Launch) (t t' : Team) : List (Nat × List Byte) :=
  let old := blockUnits s t l
  let new := blockUnits u t' l
  (((old ++ new).map (·.1)).eraseDups.filter (fun i => unitContent old i != unitContent new i)).map (fun i => (i, unitContent old i))

/-- A line of a thread's slot where the device has it: on chip, in its write-back, or at its home; none where it cannot be found. -/
def lineNow (s : State) (l : Launch) (t : Thread) (n : Nat) : Option (List Byte) :=
  if lineHeld t n then some (lineBytes t n)
  else match (s.ms.wbs.filter (fun w => w.thr == t.key && w.line = n)).getLast? with
    | some w => some w.bytes
    | none => (match walkBoth s t.vd (slotAddr l t.key + 64 * n) .read with
      | .ok x => some (newestBytes s x.dpa 64)
      | .error _ => none)

/-- Line n of a thread's slot where a step has changed its content, with the old one (R368). A fetch and a write-back change nothing, nor
does the installation of what a release made (R366); an exit changes the STATE and gives up the lines that were dirty; the creation of the
slot zeroes its rest (R258). -/
def lineChange (s u : State) (l : Launch) (t t' : Thread) (n : Nat) : Option (Nat × List Byte) :=
  let exits := t.st != .exited && t'.st == .exited
  let made := !t.created && t'.created
  let unit := unitOfLine l t.key n
  if 9 ≤ n then (if made then (lineNow s l t n).map (fun a => (unit, a)) else none)
  else if n = 0 && t.owed then none
  else if n = 0 && exits then (lineNow s l t n).map (fun a => (unit, a))
  else if !(lineHeld t n || lineHeld t' n) then none
  else match lineNow s l t n, lineNow u l t' n with
    | some a, some b => if a == b then none else some (unit, a)
    | _, _ => none

/-- The units of a team's slots that a step has changed. -/
def slotChanges (s u : State) (l : Launch) (k : TeamKey) : List (Nat × List Byte) :=
  (s.threads.filter (fun t => t.key.team == k)).flatMap (fun t => match u.thr? t.key with
    | some t' => if t == t' then [] else (List.range 16).filterMap (lineChange s u l t t')
    | none => [])

/-- One unit is logged: its old content at the entry, its frame offset in the offset array (R368). -/
def logUnit (t : Team) (l : Launch) (s : State) (i : Nat × List Byte) : State :=
  match (s.team? t.key).bind (·.snap) with
  | none => s
  | some x =>
    let (a, data) := snapAddr l t.key
    let k : ThrKey := { team := t.key, tid := 0 }
    let c := t.cluster.getD 0
    let s := addWb s t.vd c k 15 i.2 (a + data + 64 * x.nlog)
    let s := addWb s t.vd c k 15 (leBytes 4 (64 * i.1)) (a + 64 + 4 * x.nlog)
    let x := { x with nlog := x.nlog + 1, logged := x.logged ++ [i.1] }
    storeHeader (s.modTeam t.key (fun t => { t with snap := some x })) t l x

/-- Logs the units of one team that a step has changed for the first time since the checkpoint (R366, R368, R369). -/
def logTeam (s : State) (u : State) (t : Team) : State :=
  match t.snap, u.team? t.key, s.launch? t.key.lid with
  | some x, some t', some l =>
    (match t'.snap with
      | some y =>
        if t.cluster.isNone || t'.cluster != t.cluster || y.inel || y.icnt ≠ x.icnt || y.rbn ≠ x.rbn then u
        else ((blockChanges s u l t t' ++ slotChanges s u l t.key).filter (fun i => !y.logged.contains i.1)).foldl (logUnit t' l) u
      | none => u)
  | _, _, _ => u

/-- The stops that can end, and the invalidations that are done (R269, R271, R288). -/
def settleStops (s : State) : State := (s.vds.filter (fun p => p.2.stopTo.isSome)).foldl (fun s p => finishStop s p.1) (settleS2 s)

/-- Management commands that have waited are executed, each in its turn (R269). -/
def pumpCommands : Nat → State → State
  | 0, s => s
  | n + 1, s => match commandDue s with
    | none => s
    | some i => match exec i { s with mg := { s.mg with cmds := s.mg.cmds.erase i, taken := true } } with
      | .next t => pumpCommands n { t with mg := { t.mg with taken := false } }
      | _ => s

/-- A plot's entry of the plot table, 32 B, and its mapper list, 8 B a mapper with the device index in bits [63:55] (R283). -/
def plotEntry (p : Plot) : List Byte := p.w.toList.flatMap (fun w => leBytes 8 w.toNat)
def mapperList (p : Plot) : List Byte := p.mappers.flatMap (fun m => leBytes 8 (m.1 * 2 ^ 55 + m.2 % 2 ^ 55))

/-- Pelelo's plot table in device memory says what has become of the plots (R283; log entry 73). -/
def mirrorPlots (s t : State) : State :=
  (t.mg.plots.filter (fun p => look p.1 s.mg.plots != some p.2)).foldl (fun t p =>
    (t.pokeBytes (Config.plotEntry p.1) (plotEntry p.2)).pokeBytes p.2.mapl (mapperList p.2)) t

/-- What every step ends with: write times that have come, traps that can be delivered, barrier phases that are complete (R45), debug
commands that are done (R341), plots, fault-queue records and management commands whose turn has come (R272, R285, R269), units logged
(R368), the plot table (R283), rows to be scrubbed (R375), events counted (R303), and the model's own counter. -/
def afterStep (x : Sched) (s t : State) : State :=
  let t := settleSpawners (settle t)
  let t := (t.threads.filter (!·.undelivered.isEmpty)).foldl (fun t y => retryDelivery t y.key) t
  let t := (t.teams.map (·.key)).foldl tryAll t
  let t := settleTails (pumpFqs (settlePulls (settleInbox (settlePlots (settleDebug t)))))
  let t := settleStops t
  let t := pumpCommands t.mg.cmds.length t
  let t := (s.teams.filter (·.snap.isSome)).foldl (fun t tm => logTeam s t tm) t
  let t := (List.range 8).foldl scrubRows (mirrorPlots s t)
  let t := countStep x s t
  settle { t with free := t.free + 1 }

/-- One thing that happens, with what follows it. -/
def perform (x : Sched) (s : State) : Out :=
  let r := match x with
    | .event i => exec i s
    | .core c => coreStep c s
    | .wait n => .next (passTime s n)
  match r with
  | .next t => .next (afterStep x s t)
  | .fault f => .fault f
  | .refused f => .refused f

/-! What may happen next, where nothing is on the agenda: time, the groups in issue slots, and the machine's own steps. -/

/-- Steps of the cores that have threads. -/
def coreEvents (s : State) : List Sched :=
  let cs := (s.threads.map coreOf ++ s.cores.map (·.1)).eraseDups
  cs.flatMap (fun c => [.core c, .event (.bucketSelection c), .event (.groupSuspend c), .event (.threadActivation c)])

/-- Steps of the threads. -/
def threadEvents (s : State) : List Sched :=
  s.threads.flatMap (fun t =>
    let k := t.key
    [.event (.deferredTrap k), .event (.threadAged k), .event (.barrierRelease k), .event (.yieldExpire k), .event (.waittDeadline k),
      .event (.fenceComplete k), .event (.threadHaltEntry k)] ++
    ((List.range 9).filter (fun n => vget t.lines n .absent == .fetching)).map (fun n => .event (.contextLineFetchComplete k n)))

/-- Steps of the memory system. -/
def memoryEvents (s : State) : List Sched :=
  s.ms.reqs.flatMap (fun q => [.event (.loadReturn q.id), .event (.storeAck q.id), .event (.atomReturn q.id), .event (.homeReadRequest q.id),
    .event (.leaseRenewal q.id), .event (.homeAtomic q.id), .event (.mustsAdmission q.id)]) ++
  s.ms.stores.flatMap (fun m => [.event (.combiningFlush m.id), .event (.homeStoreArrival m.id), .event (.replicaUpdate m.id)]) ++
  s.ms.window.map (fun e => .event (.windowRetire e.cluster e.sector)) ++ s.ms.homes.map (fun h => .event (.heatDecay h.1)) ++
  s.ms.wbs.map (fun w => .event (.victimWritebackComplete w.id)) ++ s.ms.outs.map (fun o => .event (.apertureTimeout o.id)) ++
  (List.range 8).map (fun k => .event (.timeFaultTimeout k))

/-- Steps of teams, launches and devices. -/
def deviceEvents (s : State) : List Sched :=
  s.teams.flatMap (fun t => [.event (.teamStallDetect t.key), .event (.teamComplete t.key), .event (.rollback t.key)]) ++
  s.launches.flatMap (fun l => [.event (.launchComplete l.lid), .event (.qdoneAck l.lid)]) ++
  s.vds.flatMap (fun p => [.event (.tinvComplete p.1), .event (.teamPlacement p.1), .event (.drainComplete p.1), .event (.drainTimeout p.1),
      .event (.pullTimeout { vd := p.1, routeDown := false })] ++
    (match nextPull s p.1 with
      | some h => [.event (.peleloPlotRequest h .promote)]
      | none => []) ++
    p.2.queues.flatMap (fun q => [.event (.kickRecordRead p.1 q.1), .event (.launchStart p.1 q.1)] ++
      (List.range 4).map (fun n => .event (.dependenceReport p.1 q.1 n))))

/-- Steps of the clusters, their engines and the dies. -/
def engineEvents (s : State) : List Sched :=
  s.clusters.flatMap (fun p => [.event (.engineChunk p.1 .copy), .event (.engineChunk p.1 .tile), .event (.engineChunk p.1 .hyper),
      .event (.matrixArbitration p.1)] ++ p.2.bins.flatMap (fun b => [.event (.seedBinTimer p.1 b.1), .event (.spawnedTeamRelease p.1 b.1)]) ++
    (match p.2.preempting with
      | some v => [.event (.preemptionComplete p.1 v)]
      | none => [])) ++
  s.ops.map (fun o => .event (.engineCommandComplete o.id)) ++
  (List.range 2).flatMap (fun d => [.event (.landingSlotGrant d), .event (.limiterWindow d), .event (.dvfsSwitch d)])

/-- Steps of the IOD. -/
def packageEvents (s : State) : List Sched :=
  s.mg.plots.flatMap (fun p => [.event (.evictionStart p.1), .event (.containerSealed p.1 false), .event (.promotionComplete { plot := p.1, bad := 0 })]) ++
  s.mg.bar2.map (fun w => .event (.bar2PromotionTimeout w.id)) ++
  [.event .sliceBoundary, .event .holdupFreeze, .event .holdupSeal]

/-- Everything that may happen of itself. -/
def mayHappen (s : State) : List Sched :=
  coreEvents s ++ threadEvents s ++ memoryEvents s ++ deviceEvents s ++ engineEvents s ++ packageEvents s

/-- Whether a slice boundary falls due: it comes before anything else at its very time (R275, R276). -/
def boundaryDue (s : State) : Bool := s.power == .on && decide (s.mg.boundary ≤ s.now)

/-- What happens next: a slice boundary that is due; else the head of the agenda; else one of the things that may happen, whichever the
free choice names. -/
def nextSched (s : State) : Sched × State :=
  if boundaryDue s then (.event .sliceBoundary, s)
  else match s.agenda with
    | x :: rest => (x, { s with agenda := rest })
    | [] => ((Sched.wait 1 :: mayHappen s).getD (Config.pick s.free % ((mayHappen s).length + 1)) (.wait 1), s)

/-- Whether a package without power may still do something: its supply returns (R382). -/
def wakes : Sched → Bool
  | .event (.supplyReturn _) => true
  | _ => false

/-- One step. -/
def stepOnce (s : State) : Out :=
  let x := nextSched s
  if s.power == .off && !wakes x.1 then .fault .poweredOff else perform x.1 x.2

/-! One instruction made ready to run. -/

/-- A thread on cluster 0 in the middle of nothing, its context formed. -/
def placedThread : Thread :=
  { newThread { team := { lid := 0, spawned := false, num := 0 }, tid := 0 } 0 0 0 false 8 0x10000 (Vector.replicate 4 0) with
    st := .runnable, created := true, lines := Vector.replicate 9 .dirty }

/-- The class a word asks of its clause (R137). -/
def classFor (w : Word) : Nat := match parse w with
  | some i => (reqClass i).getD 0
  | none => 0

/-- A clause header for one word: marked, of its class, its flag set f0, aligned where the word needs it (R135). -/
def headerFor (w : Word) : Word :=
  let align := match parse w with
    | some i => needsAligned i
    | none => false
  BitVec.ofNat 64 (0xC * 2 ^ 60 + classFor w * 2 ^ 56 + if align then 2 ^ 30 else 0)

/-- The launch of such a program: 64 registers a thread, a match store and 16 scratchpad rows. -/
def placedLaunch : Launch :=
  let words := vset (vset (Vector.replicate 32 0) 4 (BitVec.ofNat 64 (7 * 2 ^ 51 + 7 * 2 ^ 48))) 5 (BitVec.ofNat 64 (2 ^ 50 + 16))
  { newLaunch 0 0 0 0 0 words with phase := .started, nextTeam := 1 }

/-- The state with one team of one thread of device 0 on cluster 0, its group in the issue slot of core 0 at an instruction, and that
core next on the agenda: what loading, kicking and placing a program of one instruction comes to (log entry 19). -/
def placeWord (s : State) (w : Word) : State :=
  let k : TeamKey := { lid := 0, spawned := false, num := 0 }
  { s with
    agenda := [.core 0], launches := [placedLaunch], threads := [placedThread],
    mg := { s.mg with boundary := max s.mg.boundary (s.now + 1) },
    vds := [(0, VDev.empty.setField 0 2 0 2)], clusters := [(0, { Cluster.idle with holder := some 0 })],
    teams := [{ newTeam k 0 0 1 0 [] 0 with cluster := some 0, firstPlacement := false }],
    cores := [(0, { slot := some { team := k, members := [0], h := 0x10000, words := [headerFor w, w], pos := 0, cycles := 0 }, last := none, yld := false })] }

end Sys2Proof.Machine
end

