-- ==== Sys2Proof/Machine/Step.lean ====
section
/-!
DEFINITION. One step of the package, and a state about to run one instruction.
-/

namespace Sys2Proof.Machine

/-- One step (R3): a slice boundary that is due, else the head of the agenda, else a freely chosen one of the things that may happen. -/
def step (s : State) : Host.Outcome State Fault Refusal := stepOnce s

/-- The state with an instruction of the table where the next step takes its instruction. -/
def State.withFetchWord (s : State) (nbits w : Nat) : State := placeWord s (BitVec.ofNat 64 (w % 2 ^ nbits))

end Sys2Proof.Machine
end

