-- ==== Sys2Proof/Safety.lean ====
section
/-!
DEFINITION. What a sound state and a safe run are, and the terms in which claims speak of an instruction: when a group issues it,
and what it leaves of the state, of a thread and of its registers.
-/

namespace Sys2Proof.Machine

/-! Soundness. -/

/-- No version waits past its write time (R121, R122): every listed version's write time is still to come. -/
def VersionsAhead (s : State) : Prop := ∀ v ∈ s.ms.versions, s.now < v.tw

/-- No watch record waits past the write it announces (R357). -/
def WatchesAhead (s : State) : Prop := ∀ r ∈ s.mg.ringDue, s.now ≤ r.1

/-- The invariant every step keeps: memory and the debug ring hold all that is due. -/
def Inv (s : State) : Prop := VersionsAhead s ∧ WatchesAhead s

/-- What a run may not do: stop for any reason but the want of power (R379 step 5). -/
def SafeStep (s : State) : Prop :=
  match step s with
  | .next _ => True
  | .fault .poweredOff => s.power = .off
  | .refused _ => False

/-! Numbers. -/

/-- The number a finite value stands for; 0 for the others. -/
def XVal.rat : XVal → ℚ
  | .fin neg n d => if neg then -((n : ℚ) / d) else (n : ℚ) / d
  | _ => 0

/-- The largest finite value of a format, as R83's table has it. -/
def Fmt.maxF (f : Fmt) : ℚ :=
  match f.sp with
  | .ieee => (2 - 1 / 2 ^ f.p) * 2 ^ f.bias
  | .e4m3 => 448
  | .none => 6

/-- Whether x lies below y, for values that are not NaN (R169). -/
def XVal.below : XVal → XVal → Prop
  | .inf a, .inf b => a = true ∧ b = false
  | .inf a, .fin _ _ _ => a = true
  | .fin _ _ _, .inf b => b = false
  | .fin n a b, .fin m c d => (XVal.fin n a b).rat < (XVal.fin m c d).rat
  | _, _ => False

/-- q is what a mode makes of a magnitude m, of a number of sign `neg` and under a draw r (R92, R93). -/
def RoundsTo (mode : Rnd) (neg : Bool) (r : Nat) (m : ℝ) (q : Nat) : Prop :=
  match mode with
  | .rne => |(q : ℝ) - m| ≤ 1 / 2 ∧ (|(q : ℝ) - m| = 1 / 2 → q % 2 = 0)
  | .rz => q = ⌊m⌋₊
  | .ru => q = if neg then ⌊m⌋₊ else ⌈m⌉₊
  | .rd => q = if neg then ⌈m⌉₊ else ⌊m⌋₊
  | .rs => q = ⌊m + (r : ℝ) / 65536⌋₊

/-- `code` is RND of a number of magnitude y > 0 (R93): q times the unit in the last place, or what OVF gives. -/
def RoundedTo (f : Fmt) (mode : Rnd) (sat : Bool) (r : Nat) (neg : Bool) (y : ℝ) (code : Nat) : Prop :=
  ∃ (e : ℤ) (q : Nat), e = max (Int.log 2 y) (1 - f.bias) ∧ RoundsTo mode neg r (y / 2 ^ (e - f.p)) q ∧ code < 2 ^ f.width ∧
    (((f.maxF : ℚ) : ℝ) < q * 2 ^ (e - f.p) → code = f.ovf neg mode sat) ∧
    ((q : ℝ) * 2 ^ (e - f.p) ≤ ((f.maxF : ℚ) : ℝ) → ∃ n d, f.value code = .fin neg n d ∧ 0 < d ∧ (n : ℝ) / d = q * 2 ^ (e - f.p))

/-- S is the exact sum of some values, with the rules of R103 for NaN and infinities and of R91 for a zero sum. -/
structure ExactSum (xs : List XVal) (S : XVal) : Prop where
  nan : (XVal.nan ∈ xs ∨ (XVal.inf true ∈ xs ∧ XVal.inf false ∈ xs)) → S = .nan
  inf : ∀ neg, XVal.nan ∉ xs → XVal.inf neg ∈ xs → XVal.inf (!neg) ∉ xs → S = .inf neg
  fin : (∀ x ∈ xs, x.isFin = true) → S.isFin = true ∧ S.rat = (xs.map XVal.rat).sum ∧
    (S.rat = 0 → (S.isNeg = true ↔ xs ≠ [] ∧ ∀ x ∈ xs, x.isZero = true ∧ x.isNeg = true))

/-- S is the sum of R103: of finite products that are not all zero, each truncated to a multiple of 2^(emax − 47) toward zero, emax the
greatest exponent among them; else their exact sum. -/
def TruncatedSum (ps : List XVal) (S : XVal) : Prop :=
  if (∀ x ∈ ps, x.isFin = true) ∧ ∃ x ∈ ps, x.rat ≠ 0 then
    ∃ emax : ℤ, (∃ x ∈ ps, x.rat ≠ 0 ∧ Int.log 2 |x.rat| = emax) ∧ (∀ x ∈ ps, x.rat ≠ 0 → Int.log 2 |x.rat| ≤ emax) ∧
      S.isFin = true ∧ (S.rat = 0 → S.isNeg = false) ∧
      S.rat = (ps.map (fun x => (if x.isNeg then -1 else 1) * (⌊|x.rat| / 2 ^ (emax - 47)⌋ : ℚ) * 2 ^ (emax - 47))).sum
  else ExactSum ps S

/-- P is P_k of R104, of a block's products, whether one of them is live, and the two scales. -/
def BlockTerm (ps : List XVal) (live : Bool) (sa sb P : XVal) : Prop :=
  ∃ S, ExactSum ps S ∧
    if sa = .nan ∨ sb = .nan then P = if live then .nan else posZero
    else if sa.isFin = false ∨ sb.isFin = false then
      (live = false → P = posZero) ∧ (live = true → S.isZero = true ∨ S = .nan → P = .nan) ∧
      (live = true → S.isZero = false → S ≠ .nan → P = .inf (S.isNeg ^^ sa.isNeg ^^ sb.isNeg))
    else P = xmul (xmul S sa) sb

/-! When a group issues an instruction. -/

/-- The group of the current core stands before an instruction that no rule of its encoding (R152), of its slots (R225), of alignment (R40),
of a pending fence (R200) or of a full completion flag (R80) holds back. -/
structure Issues (s : State) (cx : Ctx) (i : Instr) : Prop where
  group : ctx? s = some cx
  legal : legal i = true
  slots : slotIllegal cx i = false
  aligned : needsAligned i = true → cx.a ≠ 0
  unfenced : ∀ t ∈ cx.ts, fenceHolds i t = false
  room : ∀ t ∈ cx.ts, flagRoom (flagOfInstr cx.hdr i) t = true

/-- The group is one member that its instruction's guard enables. -/
structure Alone (s : State) (cx : Ctx) (i : Instr) (g : Guard) (t : Thread) : Prop where
  issues : Issues s cx i
  one : cx.ts = [t]
  on : enabled t g = true

/-- No long-latency instruction has yet to write some registers of the members (R161). -/
def Unwritten (s : State) (cx : Ctx) (rs : List Nat) : Prop := ∀ t ∈ cx.ts, ∀ r ∈ rs, s.pendingWrite t.key r = false

/-- No upset strikes the shadow unit at a member (R360). -/
def Unstruck (s : State) (cx : Ctx) : Prop := ∀ t ∈ cx.ts, shadowStruck s cx.core t.key.tid = false

/-! What an instruction leaves. -/

/-- t' is t but for where it stands in its program: PC, CPOS, its repeats, and the start of a yield. -/
def Thread.Moved (t t' : Thread) : Prop :=
  t' = { t with pc := t'.pc, cpos := t'.cpos, repa := t'.repa, repc := t'.repc, yieldUntil := t'.yieldUntil, yieldHint := t'.yieldHint }

/-- t' is t but for its place, and for vector registers of a list (with the state of their lines in the register cache). -/
structure RegsOnly (t t' : Thread) (ds : List Nat) : Prop where
  rest : { t with v := t'.v, lines := t'.lines }.Moved t'
  regs : ∀ r, r ∉ ds → t'.heldV r = t.heldV r

/-- Sub-elements of v.d written under the guard, the others kept, and nothing else (R160, R163). -/
structure SubsWritten (f e : FR) (t t' : Thread) (x : Nat → Nat) : Prop where
  only : RegsOnly t t' [e.d.toNat]
  subs : ∀ i, i < tyK f.ty → sub (tyW f.ty) (t'.heldV e.d.toNat) i =
    if enabledAt t f.g (tyK f.ty) i then x i % 2 ^ tyW f.ty else sub (tyW f.ty) (t.heldV e.d.toNat) i

/-- A whole register written under enabled(0), and nothing else. -/
structure WordWritten (g : Guard) (d : Nat) (t t' : Thread) (x : Word) : Prop where
  only : RegsOnly t t' [d]
  word : t'.heldV d = if enabled t g then x else t.heldV d

/-- A run of registers written under enabled(0), and nothing else. -/
structure RunWritten (g : Guard) (d : Nat) (t t' : Thread) (xs : List Word) : Prop where
  only : RegsOnly t t' ((List.range xs.length).map (d + ·))
  words : ∀ n, n < xs.length → t'.heldV (d + n) = if enabled t g then xs.getD n 0 else t.heldV (d + n)

/-- A predicate written bit by bit, and nothing else; p7 ignores the write (R58). -/
structure PredWritten (d : Nat) (t t' : Thread) (x : Nat → Bool) : Prop where
  rest : { t with pred := t'.pred }.Moved t'
  others : ∀ p, p ≠ d → t'.readP p = t.readP p
  bits : d < 7 → ∀ j, j < 8 → (t'.readP d).getLsbD j = x j
  fixed : 7 ≤ d → t'.readP d = t.readP d

/-- t' stands where a member stands that has completed the instruction (R78, R134). -/
def Ctx.Past (cx : Ctx) (t t' : Thread) : Prop :=
  t'.pc = (advance cx.g.h (hCount cx.hdr) cx.g.pos t).pc ∧ t'.cpos = (advance cx.g.h (hCount cx.hdr) cx.g.pos t).cpos

/-- A trap raised for a thread goes straight to its handler (R328): it is live, outside a handler, has one, no long-latency write to its
record registers is outstanding, and their line and its control line are resident (R73). -/
structure TrapsNow (s : State) (t : Thread) : Prop where
  live : t.st ≠ .exited
  ready : deliveryWaits s t = false
  handler : handlerOf s t ≠ 0
  outside : t.tact = false
  budget : 1 ≤ t.budget ∧ t.budget ≤ 8

/-- What a thread that has entered its handler is (R328, R329). -/
structure InHandler (s : State) (k : ThrKey) (i : TrapInfo) (t t' : Thread) : Prop where
  entry : t'.pc = BitVec.ofNat 64 (handlerOf s t) ∧ t'.cpos = 0 ∧ t'.st = .runnable
  saved : t'.tcause = i.cause ∧ t'.trpc = i.rp ∧ t'.tcpos = i.rc ∧ t'.tact = true
  record : t'.heldV (8 * t.budget - 4) = (mkRec i false k.tid k.team.num).w0 ∧ t'.heldV (8 * t.budget - 3) = (mkRec i false k.tid k.team.num).w1 ∧
    t'.heldV (8 * t.budget - 2) = (mkRec i false k.tid k.team.num).w2 ∧ t'.heldV (8 * t.budget - 1) = (mkRec i false k.tid k.team.num).w3
  registers : ∀ r, (r + 4 < 8 * t.budget ∨ 8 * t.budget ≤ r) → t'.heldV r = t.heldV r
  kept : t'.pred = t.pred ∧ t'.flags = t.flags ∧ t'.repa = t.repa ∧ t'.repn = t.repn ∧ t'.repc = t.repc ∧ t'.repsd = t.repsd ∧
    t'.repsa = t.repsa ∧ t'.repsb = t.repsb ∧ t'.repsc = t.repsc ∧ t'.arrv = t.arrv ∧ t'.bpar = t.bpar ∧ t'.aph = t.aph ∧ t'.key = t.key

/-- An instruction takes a trap of member t, whose registers are those of u, to its handler, and does nothing else. -/
def TakesTrap (s : State) (i : Instr) (t u : Thread) (info : TrapInfo) : Prop :=
  ∃ s' t', exec i s = .next s' ∧ s'.thr? t.key = some t' ∧ InHandler s t.key info u t' ∧
    (∀ k, k ≠ t.key → s'.thr? k = s.thr? k) ∧ s' = { s with threads := s'.threads, cores := s'.cores }

/-- An access of a member that nothing turns away (R191), once the homes have read the words of its walk: where it goes, with no watchpoint
on it (R356). -/
structure Reaches (s : State) (cx : Ctx) (i : Instr) (e : FM) (t : Thread) (ea len : Nat) (need : Need) (kind : AccessKind) (x : Located) : Prop where
  able : kindCheck cx e t = none
  place : locate (wayTo s cx e t ea len) cx e t.vd ea len need = .ok x
  allowed : apertureRefusal (wayTo s cx e t ea len) t.vd i x kind = none
  first : t.retrying = false
  unwatched : x.space = .scratch ∨ ∀ i, i < 4 → watchHit (s.vd cx.vd) i x.gpa len (kind ≠ .store) (need == .write) = false

/-- One access of member t has started (R139, R192): a request with its captured data and operands is outstanding, its flag counts it,
the member has gone on with its registers as they were, and nothing is stored or loaded yet. -/
structure Started (s s' : State) (cx : Ctx) (i : Instr) (t : Thread) (x : Located) (len : Nat) (data : List Byte) (opB opB2 : Nat) : Prop where
  request : ∃ q, s'.ms.reqs = s.ms.reqs ++ [q] ∧ q.thr = t.key ∧ q.i = i ∧ q.flag = flagOfInstr cx.hdr i ∧ q.space = x.space ∧
    q.gva = x.gva ∧ q.dpa = x.dpa ∧ q.len = len ∧ q.lcls = x.lcls ∧ q.data = data ∧ q.opB = opB ∧ q.opB2 = opB2 ∧ q.phase = .issued
  memory : s'.ms.mem = s.ms.mem ∧ s'.ms.versions = s.ms.versions
  member : ∃ t', s'.thr? t.key = some t' ∧ cx.Past t t' ∧ (∀ r, t'.heldV r = t.heldV r) ∧ t'.pred = t.pred ∧
    ∀ n, n < 12 → t'.flag n = t.flag n + if flagOfInstr cx.hdr i = some n then 1 else 0
  others : ∀ k, k ≠ t.key → s'.thr? k = s.thr? k

/-- Only the members of the group and their core's issue slot change, each member as told. -/
structure GroupResult (s s' : State) (cx : Ctx) (r : Thread → Thread → Prop) : Prop where
  rest : s' = { s with threads := s'.threads, cores := s'.cores }
  others : ∀ k, (∀ t ∈ cx.ts, t.key ≠ k) → s'.thr? k = s.thr? k
  cores : ∀ c, c ≠ cx.core → s'.core c = s.core c
  members : ∀ t ∈ cx.ts, ∃ t', s'.thr? t.key = some t' ∧ r t t'

/-- An instruction that writes sub-elements of v.d runs wherever it issues and no outstanding write to v.d holds it (R160, R161). -/
def Packed (mk : FR → Instr) (x : State → Ctx → FR → Thread → Nat → Nat) : Prop :=
  ∀ s cx f, Issues s cx (mk (cx.fr f)) → Unwritten s cx [(cx.fr f).d.toNat] →
    ∃ s', exec (mk f) s = .next s' ∧ GroupResult s s' cx (fun t t' => SubsWritten f (cx.fr f) t t' (x s cx (cx.fr f) t))

/-- The same of a floating-point instruction that the shadow unit checks, no upset striking it (R360, R361). -/
def PackedFloat (mk : FR → Instr) (x : State → Ctx → FR → Thread → Nat → Nat) : Prop :=
  ∀ s cx f, Issues s cx (mk (cx.fr f)) → Unwritten s cx [(cx.fr f).d.toNat] → Unstruck s cx →
    ∃ s', exec (mk f) s = .next s' ∧ GroupResult s s' cx (fun t t' => SubsWritten f (cx.fr f) t t' (x s cx (cx.fr f) t))

/-- An instruction that writes a whole register. -/
def Whole (mk : FR → Instr) (x : State → Ctx → FR → Thread → Word) : Prop :=
  ∀ s cx f, Issues s cx (mk (cx.fr f)) → Unwritten s cx [(cx.fr f).d.toNat] →
    ∃ s', exec (mk f) s = .next s' ∧ GroupResult s s' cx (fun t t' => WordWritten f.g (cx.fr f).d.toNat t t' (x s cx (cx.fr f) t))

/-- An instruction that writes a predicate, from its old value. -/
def Predicate (mk : FR → Instr) (x : State → Ctx → FR → FR → Thread → Nat → Bool) : Prop :=
  ∀ s cx f, Issues s cx (mk (cx.fr f)) →
    ∃ s', exec (mk f) s = .next s' ∧ GroupResult s s' cx (fun t t' => PredWritten (cx.fr f).d.toNat t t' (x s cx f (cx.fr f) t))

/-- An operation of a cluster engine has been taken on for member t (R220, R221): it joins the table with its captured operands, its
flag counts, the member has gone on with its registers as they were, and no memory has changed. -/
structure Queued (s s' : State) (cx : Ctx) (i : Instr) (t : Thread) (rd wr vals : List Nat) : Prop where
  op : ∃ o, s'.ops = s.ops ++ [o] ∧ o.i = i ∧ o.team = cx.team.key ∧ o.tid = t.key.tid ∧ o.lanes = [t.key.tid] ∧ o.owners = [t.key.tid] ∧
    o.cluster = cx.cluster ∧ o.flag = flagOfInstr cx.hdr i ∧ o.rd = rd ∧ o.wr = wr ∧ o.vals = vals ∧ o.phase = .queued
  memory : s'.ms = s.ms
  member : ∃ t', s'.thr? t.key = some t' ∧ cx.Past t t' ∧ (∀ r, t'.heldV r = t.heldV r) ∧ t'.pred = t.pred ∧
    ∀ n, n < 12 → t'.flag n = t.flag n + if flagOfInstr cx.hdr i = some n then 1 else 0
  others : ∀ k, k ≠ t.key → s'.thr? k = s.thr? k

/-- The member may use its team's tiles, hypervectors and counters (R222 steps 1 and 2). -/
def TeamWide (cx : Ctx) (t : Thread) : Prop := cx.team.key.spawned = false ∧ t.detached = false

/-- A run of n bytes from a lies where an engine may go (R191 steps 1, 3 and 5). -/
def InReach (cx : Ctx) (sp : Bool) (a n : Nat) : Prop :=
  if sp then 0 < scratchBytes cx.team.key cx.launch ∧ a + n ≤ scratchBytes cx.team.key cx.launch else a + n ≤ 2 ^ 48

/-- Bit j of hypervector h of a team, and counter j of m, as R67 places them. -/
def hvBit (tm : Team) (h j : Nat) : Bool := (memRead tm.hv (1024 * h + j / 8)).getLsbD (j % 8)
def hvCounter (tm : Team) (m j : Nat) : Int := (memRead tm.mc (8192 * m + j)).toInt

/-- The operation has been served and only its team's bulk state has changed: it is done. -/
structure Served (s s' : State) (o : EngOp) (tm' : Team) : Prop where
  team : s'.team? o.team = some tm'
  done : ∃ o' ∈ s'.ops, o'.id = o.id ∧ o'.phase = .done (max o.lastTw s.now)
  rest : s' = { s with teams := s'.teams, ops := s'.ops }

/-- The distance of two hypervectors, and of a match-store entry and one (R242). -/
def hvDist (tm : Team) (a b : Nat) : Nat := ((List.range 8192).filter (fun j => hvBit tm a j != hvBit tm b j)).length
def storeDist (tm : Team) (x a : Nat) : Nat :=
  ((List.range 8192).filter (fun j => (memRead tm.ms (1024 * x + j / 8)).getLsbD (j % 8) != hvBit tm a j)).length

/-- A chunk has been served: what its accesses leave, t, stands but for the table of operations; the operation's cursor is `prog`, and it is
done where that is its end. -/
def ChunkDone (t s' : State) (o : EngOp) (prog : Nat) (last : Bool) : Prop :=
  s' = { t with ops := s'.ops } ∧ ∃ o' ∈ s'.ops, o'.id = o.id ∧ o'.prog = prog ∧ (last = true → o'.phase = .done (max o'.lastTw t.now))

/-- What a chunk moves of len bytes at src to dst takes s to s' (R204): each run inside a 64 B sector of the destination is read and then
written. Source bytes in the scratchpad are as they stood at the start of the chunk, s0, and stand so still. -/
def MovesRun (s0 : State) (o : EngOp) (srcScr dstScr : Bool) (src dst len : Nat) (s s' : State) : Prop :=
  0 < len ∧ dst + len ≤ 2 ^ 48 ∧ src + len ≤ 2 ^ 48 ∧
  ∃ (st mid : Nat → State) (bs : Nat → List Byte), st 0 = s ∧ st ((dst % 64 + len + 63) / 64) = s' ∧
    ∀ i, i < (dst % 64 + len + 63) / 64 →
      let off := 64 * i - dst % 64
      let n := min (64 * (i + 1) - dst % 64) len - off
      (if srcScr then mid i = st i ∧ scrRead s0 o.team (src + off) n = bs i ∧ scrRead (st i) o.team (src + off) n = bs i
        else engRead (st i) o false (src + off) n = (mid i, .ok (bs i))) ∧
      engWrite (mid i) o dstScr (dst + off) (bs i) = (st (i + 1), none)

/-- The k nearest of the first n entries, each an index with its distance, nearest first and the lower index of equal ones (R242, R243). -/
structure NearestK (dist : Nat → Nat) (n k : Nat) (l : List (Nat × Nat)) : Prop where
  size : l.length = min n k
  real : ∀ p ∈ l, p.1 < n ∧ p.2 = dist p.1
  order : l.Pairwise (fun p q => p.2 < q.2 ∨ (p.2 = q.2 ∧ p.1 < q.1))
  best : ∀ x, x < n → (∀ p ∈ l, p.1 ≠ x) → ∀ p ∈ l, p.2 < dist x ∨ (p.2 = dist x ∧ p.1 < x)

/-- Place r of a search's results: the distance and the index, or all ones where there is none. -/
def nearWord (l : List (Nat × Nat)) (r : Nat) : Nat := match l[r]? with
  | some p => p.2 * 2 ^ 32 + p.1
  | none => 2 ^ 64 - 1

/-- The distance of 1,024 bytes and a hypervector. -/
def bytesDist (tm : Team) (bs : List Byte) (h : Nat) : Nat :=
  ((List.range 8192).filter (fun j => (bs.getD (j / 8) 0).getLsbD (j % 8) != hvBit tm h j)).length

/-- r is what the pairwise tree of R47 makes of a non-empty list, level by level. -/
def TreeSum (add : Nat → Nat → Nat) (xs : List Nat) (r : Nat) : Prop :=
  ∃ (m : Nat) (level : Nat → List Nat), level 0 = xs ∧ level m = [r] ∧ ∀ i, i < m →
    let n := (level i).length
    1 < n ∧ (level (i + 1)).length = (n + 1) / 2 ∧
      (∀ j, j < n / 2 → (level (i + 1)).getD j 0 = add ((level i).getD (2 * j) 0) ((level i).getD (2 * j + 1) 0)) ∧
      (n % 2 = 1 → (level (i + 1)).getD (n / 2) 0 = (level i).getD (n - 1) 0)

/-- r is the combination of some contributions in ascending TID under a payload's operation and type, or the operation's identity (R47). -/
def PayloadResult (p : Payload) (xs : List Nat) (r : Nat) : Prop :=
  let w := tyW p.ty
  let n := (xs.map (intVal p.ty)).sum
  let add := fun a b => rnd (tyFmt p.ty) p.mode false 0 (xadd (p.mode == .rd) ((tyFmt p.ty).value a) ((tyFmt p.ty).value b))
  let number := fun (x : Nat) => if (tyFmt p.ty).value x = .nan then (tyFmt p.ty).nanCode else x
  (xs = [] → (p.op ∈ [0, 4, 5, 6] → r = 0) ∧ (p.op = 1 → r < 2 ^ w ∧ intVal p.ty r = tyMax p.ty) ∧ (p.op = 2 → r < 2 ^ w ∧ intVal p.ty r = tyMin p.ty) ∧
    (p.op = 3 → r = 2 ^ w - 1) ∧ (p.op = 7 → (tyFmt p.ty).sp = .ieee → (tyFmt p.ty).value r = .inf false) ∧
    (p.op = 8 → (tyFmt p.ty).sp = .ieee → (tyFmt p.ty).value r = .inf true)) ∧
  (xs ≠ [] → r < 2 ^ w ∧
    (p.op = 0 → p.sat = false → (2 ^ w : ℤ) ∣ (r : ℤ) - n) ∧ (p.op = 0 → p.sat = true → intVal p.ty r = max (tyMin p.ty) (min (tyMax p.ty) n)) ∧
    (p.op = 1 → r ∈ xs ∧ ∀ y ∈ xs, intVal p.ty r ≤ intVal p.ty y) ∧ (p.op = 2 → r ∈ xs ∧ ∀ y ∈ xs, intVal p.ty y ≤ intVal p.ty r) ∧
    (p.op = 3 → ∀ j, r.testBit j = xs.all (·.testBit j)) ∧ (p.op = 4 → ∀ j, r.testBit j = xs.any (·.testBit j)) ∧
    (p.op = 5 → ∀ j, r.testBit j = decide ((xs.filter (·.testBit j)).length % 2 = 1)) ∧
    (p.op = 6 → if p.scan then ∃ x rest, xs = x :: rest ∧ r = number (rest.foldl add x) else ∃ y, TreeSum add xs y ∧ r = number y) ∧
    (p.op = 7 → ∃ x rest, xs = x :: rest ∧ r = rest.foldl (fminmax p.ty false) (fminmax p.ty false x x)) ∧
    (p.op = 8 → ∃ x rest, xs = x :: rest ∧ r = rest.foldl (fminmax p.ty true) (fminmax p.ty true x x)))

/-- Thread k is now t', and nothing else has changed. -/
structure OneThread (s s' : State) (k : ThrKey) (t' : Thread) : Prop where
  rest : s' = { s with threads := s'.threads }
  it : s'.thr? k = some t'
  others : ∀ k', k' ≠ k → s'.thr? k' = s.thr? k'

/-- A management command of a device is taken from its ring and is the next to run (R269, R291): the supply is on, the ring holds one, and
no command of the device is in execution or waits. -/
structure InTurn (s : State) (v : Nat) : Prop where
  on : s.power = .on
  inRing : s.mg.mcqhead ≠ s.mg.mcqtail
  first : (s.vd v).stopTo = none ∧ (∀ w ∈ s.mg.s2invs, w.1 ≠ v) ∧ ∀ j ∈ s.mg.cmds, commandVd j ≠ some v

/-- No access of a device that a translation serves has yet to perform (R271). -/
def Performed (s : State) (v : Nat) : Prop :=
  (∀ q ∈ s.ms.reqs, q.vd ≠ v ∨ q.phase ≠ .issued) ∧ ∀ o ∈ s.ms.outs, o.vd ≠ v ∨ o.op = none ∨ o.abandoned = true

/-- A management command has completed with a status (R291), its report being the last. -/
def Reported (s s' : State) (opc v status : Nat) : Prop := s'.mg.done = s.mg.done ++ [{ opc := opc, vd := v, status := status }]

/-- A promotion has its frame, its container's homes serve reads, and no access waits on it. -/
structure Fetching (s : State) (h : Nat) (p : Plot) : Prop where
  on : s.power = .on
  plot : look h s.mg.plots = some p
  frame : p.state = 4 ∧ p.remote = false ∧ p.alloc = true
  serves : frameHeld s p.frame = false ∧ (bits s.mg.dupmap 51 12 ≠ 0 → homeHolds s (bits s.mg.dupmap 51 12 * 4096 + 8 * h) = false)
  quiet : p.requesters = [] ∧ s.mg.bar2 = []
  leaves : leavesHeld s p = false

end Sys2Proof.Machine
end

