-- ==== Sys2Proof/Certificates/Slice0/Obligations.lean ====
section
/-!
DEFINITION. The statements for the provers: what the rules of the specification say the instructions and the machine do. Where a
statement is about an instruction's issue it is of a group that no stall holds back (`Issues`); `Sys2Proof/Safety.lean` defines the terms.
-/

open Sys2Proof Sys2Proof.Machine

/-- Encoding and decoding agree, both ways: a well-formed instruction's bytes, followed by any others, decode to it and leave those; and a
word decodes only to a well-formed instruction that encodes to that very word, so that no bit is dropped (R134, R140 to R152). -/
def Obligations.DecodeEncode : Prop :=
  (∀ i bs rest, encode i = some bs → bs.length = 8 ∧ decode (bs ++ rest) = .ok (i, rest)) ∧
  (∀ bs i rest, decode bs = .ok (i, rest) → i.wf = true ∧ encode i = some (bs.take 8) ∧ rest = bs.drop 8)

/-- The words the specification writes out decode to the instructions it writes beside them; the reserved major opcodes (R337), and a word
with F set where no flag is counted, decode to nothing. -/
def Obligations.SpecWords : Prop :=
  let g : Guard := { neg := false, p := 7 }
  decodeWord 0x1074_0C10_0001_45FB = some (.add { g, sub := 4, d := 3, a := 1, b := 0, c := 0, swz := 0, ty := .s16, rnd := .rne, sat := true, reuse := false, ext := 0x1FB }) ∧
  decodeWord 0x7176_0021_4000_0008 = some (.st { g, f := false, sub := 6, d := 0, a := 2, b := 5, scope := 0, lh := 0, ub := false, sp := false, cnt := 0, off := 8 }) ∧
  decodeWord 0x6B70_1400_0000_0010 = some (.movs { g, d := 5, a := 0, code := 0x10 }) ∧
  decodeWord 0x6670_0000_0000_014F = some (.rep { g, sub := 0, d := 0, a := 0, imm := 0x14F }) ∧
  (∀ w, let op := (opOf w).toNat
    (op ≤ 0x0F ∨ op = 0x1F ∨ op = 0x2E ∨ op = 0x2F ∨ (0x3B ≤ op ∧ op ≤ 0x3F) ∨ (0x56 ≤ op ∧ op ≤ 0x5F) ∨ (0x6D ≤ op ∧ op ≤ 0x6F) ∨ (0x7A ≤ op ∧ op ≤ 0x7F) ∨
      (0x87 ≤ op ∧ op ≤ 0x8F) ∨ (0x97 ≤ op ∧ op ≤ 0x9F) ∨ 0xAC ≤ op) → decodeWord w = none) ∧
  decodeWord 0x1078_0C10_0001_4000 = none

/-- A step runs what it finds: a slice boundary that is due (R275), else what stands at the head of the agenda, or the freely chosen one where
the agenda is empty. A core's turn is one instruction of the group in its issue slot: the word it stands at, decoded; a word that is no
instruction raises illegal-instruction for every member (R152). An event's turn is that event. What follows a step (`afterStep`) is the
same for all. That an agenda orders the events, and that a free choice stands where it is empty, is the model's choice (log entry 3), as
are the events as inputs (log entry 18). -/
def Obligations.StepRunsDecoded : Prop :=
  let after := fun (x : Sched) (s : State) (r : Host.Outcome State Fault Refusal) =>
    match r with
    | .next t => .next (afterStep x s t)
    | .fault f => .fault f
    | .refused f => .refused f
  (∀ s c rest g, s.power = .on → s.now < s.mg.boundary → s.agenda = .core c :: rest → (s.core c).slot = some g →
    (s.die (dieOfCluster (clusterOfCore c))).stopped = false → mustStop { s with agenda := rest, cur := c } c g = false →
    (∀ i, decodeWord (g.words.getD (g.pos + 1) 0) = some i →
      step s = after (.core c) { s with agenda := rest } (exec i { s with agenda := rest, cur := c })) ∧
    (∀ cx, decodeWord (g.words.getD (g.pos + 1) 0) = none → ctx? { s with agenda := rest, cur := c } = some cx →
      step s = .next (afterStep (.core c) { s with agenda := rest } (raiseAll { s with agenda := rest, cur := c } cx 0x02)))) ∧
  (∀ s i rest, s.power ≠ .off → boundaryDue s = false → s.agenda = .event i :: rest → step s = after (.event i) { s with agenda := rest } (exec i { s with agenda := rest })) ∧
  (∀ s n rest, s.power ≠ .off → boundaryDue s = false → s.agenda = .wait n :: rest →
    step s = .next (afterStep (.wait n) { s with agenda := rest } (passTime { s with agenda := rest } n)) ∧ (s.power = .on → (passTime s n).now = s.now + min n (s.mg.boundary - s.now))) ∧
  (∀ s, s.power = .on → s.mg.boundary ≤ s.now → step s = after (.event .sliceBoundary) s (exec .sliceBoundary s)) ∧
  (∀ s, s.power ≠ .off → boundaryDue s = false → s.agenda = [] → ∃ x ∈ Sched.wait 1 :: mayHappen s, step s = perform x s)

/-- The machine never stops while it has power: every instruction and every event of the table answers a next state in every state, and a step
faults only where the package has no power and its supply does not return (R379 step 5, R382). -/
def Obligations.NeverStops : Prop :=
  (∀ i s, ∃ s', exec i s = .next s') ∧
  (∀ s, SafeStep s) ∧
  (∀ s, s.power ≠ .off → ∃ s', step s = .next s') ∧
  (∀ s, s.power = .off → (∀ e, (nextSched s).1 ≠ .event (.supplyReturn e)) → step s = .fault .poweredOff)

/-- Memory stays in its one canonical form through every step, from any state in which it has it: addresses rising, no zero listed. -/
def Obligations.MemoryStaysCanonical : Prop :=
  ∀ s s', Memory.wf s.ms.mem = true → step s = .next s' → Memory.wf s'.ms.mem = true

/-- Global time never steps backwards (R120): a step leaves it or moves it on, and only a cold reset sets it to zero. -/
def Obligations.TimeNeverStepsBack : Prop :=
  ∀ s s', step s = .next s' → s.now ≤ s'.now ∨ (s'.now = 0 ∧ ∃ i, (nextSched s).1 = .event i ∧ (i = .iodReferenceLoss ∨ ∃ e, i = .supplyReturn e))

/-- Every step merges what is due: after it every version's write time and every watch record's time is still to come (R121, R122, R357). -/
def Obligations.StepKeepsInv : Prop :=
 ∀ s s', Machine.Inv s → step s = .next s' → Machine.Inv s'

/-- The package after cold reset: global time zero (R120), every device free and READY 0 (R267, R305), nothing placed, no memory listed, and
the reset values the register tables give (R263, R275, R304, R307); the invariants hold. CYC, NCYC, the measurement registers and the
contents of memory have no reset value in the specification: their zeros are the model's choice (log 1 and 2). -/
def Obligations.ResetState : Prop :=
  let s := State.reset
  s.now = 0 ∧ s.power = .on ∧ s.mg.ready = false ∧ s.mg.booterr = false ∧ (∀ v, (s.vd v).state = 0) ∧
  s.threads = [] ∧ s.teams = [] ∧ s.launches = [] ∧ s.ops = [] ∧ (∀ c, (s.core c).slot = none) ∧ s.ms.mem = [] ∧ s.ms.versions = [] ∧ s.agenda = [] ∧
  (∀ d, d < 2 → (s.die d).fcur = 10 ∧ (s.die d).fstep = 10 ∧ (s.die d).busy = false ∧ (s.die d).plim = 3000 ∧ (s.die d).hstr = false ∧ (s.die d).brw = 16 ∧
    (s.die d).neng = 12) ∧
  s.mg.slice = 250 ∧ (∀ k, k < 8 → vget s.mg.widths k 0 = 48) ∧ (∀ k, k < 8 → (s.part k).st = 0 ∧ (s.part k).rcnt = 0 ∧ (s.part k).failm = 0) ∧
  Machine.Inv s ∧ Memory.wf s.ms.mem = true

/-- Integer arithmetic (R164, under R160): each enabled sub-element takes x of the table, wrapped or clamped; and the table's remarks. WRAP
and CLAMP (R9): the wrapped value is congruent to x modulo 2^w, the clamped value is the nearest of the type's range, and both are read
back as such values of the type. -/
def Obligations.IntegerArithmetic : Prop :=
  (Packed .add (fun s cx e t i => narrow e (opA s e t i + opB s cx e t i)) ∧
    Packed .sub (fun s cx e t i => narrow e (opA s e t i - opB s cx e t i)) ∧
    Packed .mul (fun s cx e t i => narrow e (opA s e t i * opB s cx e t i)) ∧
    Packed .mad (fun s cx e t i => narrow e (opA s e t i * opB s cx e t i + opC s e t i)) ∧
    Packed .mulhi (fun s cx e t i => narrow e (opA s e t i * opB s cx e t i / 2 ^ tyW e.ty)) ∧
    Packed .dot4 (fun s cx e t i => narrow e (opC s e t i + dotBytes e (s.readV t.key e.a.toNat) (operandB s cx.a e false t) i)) ∧
    Packed .sad (fun s cx e t i => narrow e (opC s e t i + |opA s e t i - opB s cx e t i|)) ∧
    Packed .min_ (fun s cx e t i => narrow e (if opA s e t i ≤ opB s cx e t i then opA s e t i else opB s cx e t i)) ∧
    Packed .max_ (fun s cx e t i => narrow e (if opA s e t i ≤ opB s cx e t i then opB s cx e t i else opA s e t i)) ∧
    Packed .abs_ (fun s _ e t i => narrow e |opA s e t i|) ∧
    Packed .neg (fun s _ e t i => narrow e (-opA s e t i)) ∧
    (∀ ty a b, tyMin ty ≤ a → a ≤ tyMax ty → tyMin ty ≤ b → b ≤ tyMax ty →
      tyMin ty ≤ a * b / 2 ^ tyW ty ∧ a * b / 2 ^ tyW ty ≤ tyMax ty ∧ tyMin ty ≤ min a b ∧ max a b ≤ tyMax ty)) ∧
  (∀ ty x, tyMin ty ≤ intVal ty (wrapW (tyW ty) x) ∧ intVal ty (wrapW (tyW ty) x) ≤ tyMax ty ∧
      (2 ^ tyW ty : Int) ∣ intVal ty (wrapW (tyW ty) x) - x ∧ intVal ty (clampTy ty x) = max (tyMin ty) (min (tyMax ty) x))

/-- lea, sel, mov and movi (R165, R166, under R160). The logic and shift instructions (R167, under R160), on w-bit patterns; the bits of the
results of the bitwise ones. -/
def Obligations.MovesLogicAndShifts : Prop :=
  (Whole .lea (fun s cx e t => BitVec.ofInt 64 ((s.readV t.key e.a.toNat).toNat + leaIndex e (operandB s cx.a e false t) * 2 ^ (e.ext.toNat % 8))) ∧
    Packed .sel (fun s cx e t i => if (t.readP e.c.toNat).getLsbD (i * (8 / tyK e.ty)) then sub (tyW e.ty) (s.readV t.key e.a.toNat) i
      else sub (tyW e.ty) (operandB s cx.a e false t) i) ∧
    Packed .mov (fun s cx e t i => sub (tyW e.ty) (operandB s cx.a e true t) i) ∧
    (∀ s cx f, Issues s cx (.movi (cx.fi f)) → Unwritten s cx [(cx.fi f).d.toNat] →
      ∃ s', exec (.movi f) s = .next s' ∧
        GroupResult s s' cx (fun t t' => WordWritten f.g (cx.fi f).d.toNat t t' (f.imm.signExtend 64))) ∧
    (∀ s cx f, Issues s cx (.moviHi (cx.fi f)) → Unwritten s cx [(cx.fi f).d.toNat] →
      ∃ s', exec (.moviHi f) s = .next s' ∧
        GroupResult s s' cx (fun t t' => WordWritten f.g (cx.fi f).d.toNat t t'
          (f.imm.setWidth 32 ++ (t.heldV (cx.fi f).d.toNat).setWidth 32)))) ∧
  (Packed .and_ (fun s cx e t i => rawA s e t i &&& rawB s cx e t i) ∧
    Packed .or_ (fun s cx e t i => rawA s e t i ||| rawB s cx e t i) ∧
    Packed .xor_ (fun s cx e t i => rawA s e t i ^^^ rawB s cx e t i) ∧
    Packed .andn (fun s cx e t i => rawA s e t i &&& (2 ^ tyW e.ty - 1 - rawB s cx e t i)) ∧
    Packed .not_ (fun s _ e t i => 2 ^ tyW e.ty - 1 - rawA s e t i) ∧
    Packed .shl (fun s cx e t i => if tyW e.ty ≤ rawB s cx e t i then 0 else rawA s e t i * 2 ^ rawB s cx e t i) ∧
    Packed .shr (fun s cx e t i => if tyW e.ty ≤ rawB s cx e t i then 0 else rawA s e t i / 2 ^ rawB s cx e t i) ∧
    Packed .sar (fun s cx e t i => wrapW (tyW e.ty) (sgn (tyW e.ty) (rawA s e t i) / 2 ^ min (rawB s cx e t i) (tyW e.ty - 1))) ∧
    Packed .rot (fun s cx e t i =>
      let n := rawB s cx e t i % tyW e.ty
      rawA s e t i * 2 ^ n + rawA s e t i / 2 ^ (tyW e.ty - n)) ∧
    Packed .clz (fun s _ e t i => if rawA s e t i = 0 then tyW e.ty else tyW e.ty - 1 - Nat.log2 (rawA s e t i)) ∧
    Packed .popc (fun s _ e t i => ((List.range (tyW e.ty)).filter (fun j => (rawA s e t i).testBit j)).length) ∧
    Packed .bitrev (fun s _ e t i => bitsOf (tyW e.ty) (fun j => (rawA s e t i).testBit (tyW e.ty - 1 - j))))

/-- bfe and bfi (R168, under R160): the field at pos, of width wid, of the sub-element extended above its top bit; and the insertion. -/
def Obligations.BitFields : Prop :=
  Packed .bfe (fun s cx e t i =>
    let b := rawB s cx e t i
    let wid := min (b / 256 % 256) (tyW e.ty)
    let ext := fun n => if n < tyW e.ty then (rawA s e t i).testBit n else isSint e.ty && (rawA s e t i).testBit (tyW e.ty - 1)
    bitsOf (tyW e.ty) (fun j =>
      if j < wid then ext (b % 256 + j) else decide (0 < wid) && isSint e.ty && ext (b % 256 + wid - 1))) ∧
  Packed .bfi (fun s cx e t i =>
    let b := rawB s cx e t i
    let wid := min (b / 256 % 256) (tyW e.ty)
    bitsOf (tyW e.ty) (fun j => if b % 256 ≤ j ∧ j < b % 256 + wid then (rawA s e t i).testBit (j - b % 256) else (rawC s e t i).testBit j))

/-- Comparisons and classes (R169, R170): the bits of each enabled sub-element take the result, the others of P[d] are unchanged. fcmp's
relation for each condition code (R169), an unordered pair meeting .un and .neu alone; and the classes of fclass (R170). The predicate
instructions (R171), under their bitwise guard; and pmov to a vector register. -/
def Obligations.ComparisonsAndPredicates : Prop :=
  (Predicate .cmp (fun s cx f e t j => let i := j / (8 / tyK e.ty)
      if enabledAt t f.g (tyK e.ty) i then (match e.c.toNat with
        | 0 => decide (opA s e t i = opB s cx e t i) | 1 => decide (opA s e t i ≠ opB s cx e t i)
        | 2 => decide (opA s e t i < opB s cx e t i) | 3 => decide (opA s e t i ≤ opB s cx e t i)
        | 4 => decide (opB s cx e t i < opA s e t i) | 5 => decide (opB s cx e t i ≤ opA s e t i) | _ => false)
      else (t.readP e.d.toNat).getLsbD j) ∧
    Predicate .fcmp (fun s cx f e t j => let i := j / (8 / tyK e.ty)
      if enabledAt t f.g (tyK e.ty) i then fcmpCode e.ty e.c.toNat (rawA s e t i) (rawB s cx e t i) else (t.readP e.d.toNat).getLsbD j) ∧
    Predicate .fclass (fun s _ f e t j => let i := j / (8 / tyK e.ty)
      if enabledAt t f.g (tyK e.ty) i then e.ext.getLsbD (fclassOf e.ty (rawA s e t i)) else (t.readP e.d.toNat).getLsbD j)) ∧
  ((∀ ty a b, isFloat ty = true → let x := (tyFmt ty).value a
      let y := (tyFmt ty).value b
      let un := x = .nan ∨ y = .nan
      let code := fun (cc : Nat) (p : Prop) => (fcmpCode ty cc a b = true ↔ p)
      code 0 (¬un ∧ ¬x.below y ∧ ¬y.below x) ∧ code 1 (¬un ∧ (x.below y ∨ y.below x)) ∧ code 2 (¬un ∧ x.below y) ∧ code 3 (¬un ∧ ¬y.below x) ∧ code 4 (¬un ∧ y.below x) ∧
      code 5 (¬un ∧ ¬x.below y) ∧ code 6 un ∧ code 7 (¬un) ∧ code 8 (un ∨ x.below y ∨ y.below x)) ∧
    (∀ ty c, isFloat ty = true → let f := tyFmt ty
      let least : ℚ := 2 ^ (1 - (f.bias : ℤ))
      (f.value c = .nan → fclassOf ty c = 8) ∧ (∀ neg, f.value c = .inf neg → fclassOf ty c = if neg then 0 else 7) ∧
      (∀ neg n d, f.value c = .fin neg n d → fclassOf ty c =
        if n = 0 then (if neg then 3 else 4) else if (n : ℚ) / d < least then (if neg then 2 else 5) else (if neg then 1 else 6)))) ∧
  (
    let bitwise := fun (r : State → FR → Thread → Nat → Bool) (s : State) (_ : Ctx) (f e : FR) (t : Thread) (j : Nat) =>
      if (guardVal t f.g).getLsbD j then r s e t j else (t.readP e.d.toNat).getLsbD j
    Predicate .pand (bitwise (fun _ e t j => (t.readP e.a.toNat).getLsbD j && (t.readP e.b.toNat).getLsbD j)) ∧
    Predicate .por (bitwise (fun _ e t j => (t.readP e.a.toNat).getLsbD j || (t.readP e.b.toNat).getLsbD j)) ∧
    Predicate .pxor (bitwise (fun _ e t j => (t.readP e.a.toNat).getLsbD j ^^ (t.readP e.b.toNat).getLsbD j)) ∧
    Predicate .pnot (bitwise (fun _ e t j => !(t.readP e.a.toNat).getLsbD j)) ∧
    Predicate .pmovFromVector (bitwise (fun s e t j => (s.readV t.key e.a.toNat).getLsbD j)) ∧
    Whole .pmovToVector (fun _ _ e t => (t.readP e.a.toNat).setWidth 64))

/-- Votes, shfl and bperm (R183 to R185): over the lanes of the aligned set that exist and have not exited; of the values sent to one index by
bperm the highest sender's arrives, or 0. -/
def Obligations.CrossLane : Prop :=
  (∀ all mk, (all, mk) = (false, Instr.voteAny) ∨ (all, mk) = (true, Instr.voteAll) →
    Predicate mk (fun s cx f e t j =>
      if (guardVal t f.g).getLsbD j then
        let ps := (List.range cx.a).filterMap (fun l => lanePeer s t cx.a l)
        let on := ps.filter (fun p => (guardVal p f.g).getLsbD j)
        if all then decide (∀ p ∈ on, (p.readP e.a.toNat).getLsbD j = true) else decide (∃ p ∈ on, (p.readP e.a.toNat).getLsbD j = true)
      else (t.readP e.d.toNat).getLsbD j)) ∧
  (∀ s cx f, Issues s cx (.voteBallot (cx.fr f)) → Unwritten s cx [(cx.fr f).d.toNat] →
    ∃ s', exec (.voteBallot f) s = .next s' ∧ GroupResult s s' cx (fun t t' =>
      RegsOnly t t' [(cx.fr f).d.toNat] ∧ (enabled t f.g = false → t'.heldV (cx.fr f).d.toNat = t.heldV (cx.fr f).d.toNat) ∧
      (enabled t f.g = true → ∀ l, l < 64 → (t'.heldV (cx.fr f).d.toNat).getLsbD l =
        (match lanePeer s t cx.a l with
          | some p => enabled p f.g && (p.readP (cx.fr f).a.toNat).getLsbD ((cx.fr f).ext.toNat % 8)
          | none => false)))) ∧
  Packed .shfl (fun s cx e t i =>
    let idx := sub (tyW e.ty) (operandB s cx.a e false t) i
    match lanePeer s t cx.a (idx / 8) with
    | some p => if idx % 8 < tyK e.ty then sub (tyW e.ty) (s.readV p.key e.a.toNat) (idx % 8) else 0
    | none => 0) ∧
  (∀ s cx f, Issues s cx (.bperm (cx.fr f)) → Unwritten s cx [(cx.fr f).d.toNat] →
    ∃ s', exec (.bperm f) s = .next s' ∧
      GroupResult s s' cx (fun t t' => SubsWritten f (cx.fr f) t t' (fun i => bpermValue s cx f (cx.fr f) t (t.key.tid % cx.a * 8 + i)))) ∧
  (∀ s cx (f e : FR) t dst l p j,
    let sends := fun (l : Nat) (p : Thread) (j : Nat) => l < cx.a ∧ lanePeer s t cx.a l = some p ∧ j < tyK e.ty ∧
        enabledAt p f.g (tyK e.ty) j = true ∧ sub (tyW e.ty) (operandB s cx.a e false p) j = dst
    sends l p j → (∀ l' p' j', sends l' p' j' → l' * 8 + j' ≤ l * 8 + j) → bpermValue s cx f e t dst = sub (tyW e.ty) (s.readV p.key e.a.toNat) j) ∧
  (∀ s cx (f e : FR) t dst, (∀ l p j, l < cx.a → lanePeer s t cx.a l = some p → j < tyK e.ty → enabledAt p f.g (tyK e.ty) j = true →
    sub (tyW e.ty) (operandB s cx.a e false p) j ≠ dst) → bpermValue s cx f e t dst = 0)

/-- Floating-point arithmetic (R172, R173): RND of the exact value, under the instruction's modes, drawn with SEED 0 and e = i. The functions
of R173 that are not algebraic, and frnd (R175): funcCode and frndCode of their operands, under their draws. Where the model's enclosures
of a function's value do not decide its rounding, funcCode is a value of Config (the model's choice: log entry 9). What the rounding comes
to where the value is known in closed form (R173): 1/√x and √x, 2 to an integer, and the logarithm of a power of two; and frnd (R175),
which rounds to an integer in its own format and keeps the sign of a zero, infinities and integral values. -/
def Obligations.FloatingPoint : Prop :=
  (
    let val := fun (f : FR → Reg) (s : State) (e : FR) (t : Thread) (i : Nat) => (tyFmt e.ty).value (sub (tyW e.ty) (s.readV t.key (f e).toNat) i)
    let b := fun (s : State) (cx : Ctx) (e : FR) (t : Thread) (i : Nat) => (tyFmt e.ty).value (rawB s cx e t i)
    let round := fun (cx : Ctx) (e : FR) (t : Thread) (i : Nat) (x : XVal) => rnd (tyFmt e.ty) e.rnd e.sat (cx.draw t 0 i) x
    PackedFloat .fadd (fun s cx e t i => round cx e t i (xadd (e.rnd == .rd) (val FR.a s e t i) (b s cx e t i))) ∧
    PackedFloat .fsub (fun s cx e t i => round cx e t i (xadd (e.rnd == .rd) (val FR.a s e t i) (b s cx e t i).negate)) ∧
    PackedFloat .fmul (fun s cx e t i => round cx e t i (xmul (val FR.a s e t i) (b s cx e t i))) ∧
    PackedFloat .fma (fun s cx e t i => round cx e t i (xadd (e.rnd == .rd) (xmul (val FR.a s e t i) (b s cx e t i)) (val FR.c s e t i))) ∧
    PackedFloat .frcp (fun s cx e t i => round cx e t i (xinv (val FR.a s e t i))) ∧
    PackedFloat .frsq (fun s cx e t i => round cx e t i (xrsqrt (val FR.a s e t i))) ∧
    PackedFloat .fsqrt (fun s cx e t i => round cx e t i (xsqrt (val FR.a s e t i)))) ∧
  (PackedFloat .fexp2 (fun s cx e t i => funcCode e.ty e.rnd e.sat (cx.draw t 0 i) .exp2 (rawA s e t i)) ∧
    PackedFloat .flog2 (fun s cx e t i => funcCode e.ty e.rnd e.sat (cx.draw t 0 i) .log2 (rawA s e t i)) ∧
    PackedFloat .fsin (fun s cx e t i => funcCode e.ty e.rnd e.sat (cx.draw t 0 i) .sin (rawA s e t i)) ∧
    PackedFloat .fcos (fun s cx e t i => funcCode e.ty e.rnd e.sat (cx.draw t 0 i) .cos (rawA s e t i)) ∧
    PackedFloat .ftanh (fun s cx e t i => funcCode e.ty e.rnd e.sat (cx.draw t 0 i) .tanh (rawA s e t i)) ∧
    PackedFloat .frnd (fun s cx e t i => frndCode e.ty e.rnd (cx.draw t 0 i) (rawA s e t i))) ∧
  (∀ ty ∈ [Ty.f64, .f32, .f16, .bf16], ∀ mode sat r code, r < 2 ^ 16 → code < 2 ^ tyW ty →
      let f := tyFmt ty
      (∀ n d : Nat, n ≠ 0 → f.value code = .fin false n d →
        RoundedTo f mode sat r false (√((n : ℝ) / d)) (rnd f mode sat r (xsqrt (.fin false n d))) ∧
        RoundedTo f mode sat r false (1 / √((n : ℝ) / d)) (rnd f mode sat r (xrsqrt (.fin false n d)))) ∧
      (∀ neg (n d k : Nat), f.value code = .fin neg n d → 0 < k → n = k * d →
        RoundedTo f mode sat r false ((2 : ℝ) ^ (if neg then -(k : ℤ) else k)) (funcCode ty mode sat r .exp2 code)) ∧
      (∀ (n d : Nat) (k : ℤ), n ≠ 0 → f.value code = .fin false n d → (n : ℝ) / d = 2 ^ k →
        (k = 0 → funcCode ty mode sat r .log2 code = 0) ∧ (k ≠ 0 → RoundedTo f mode sat r (decide (k < 0)) |(k : ℝ)| (funcCode ty mode sat r .log2 code))) ∧
      let y := frndCode ty mode r code
      y < 2 ^ f.width ∧ (f.value code = .nan → y = f.nanCode) ∧ (∀ neg, f.value code = .inf neg → y = code) ∧
      (∀ neg (n d : Nat), f.value code = .fin neg n d → ∃ q m e, RoundsTo mode neg r ((n : ℝ) / d) q ∧ f.value y = .fin neg m e ∧ 0 < e ∧ m = q * e ∧
        (n % d = 0 → y = code)))

/-- fmin, fmax, fabs and fneg (R174) never round: fmin and fmax return one of their operands bit for bit, -0 below +0, the other operand where
one is NaN, the canonical NaN where both are; fabs clears the sign bit and fneg inverts it, a NaN giving the canonical NaN. -/
def Obligations.NeverRounding : Prop :=
  let val := fun (e : FR) (x : Nat) => (tyFmt e.ty).value x
  let below := fun (x y : XVal) => xlt x y = true ∨ ((∃ d, x = .fin true 0 d) ∧ ∃ d, y = .fin false 0 d)
  let pick := fun (e : FR) (mx : Bool) (a b r : Nat) =>
    (val e a = .nan → val e b = .nan → r = (tyFmt e.ty).nanCode) ∧ (val e a = .nan → val e b ≠ .nan → r = b) ∧
    (val e a ≠ .nan → val e b = .nan → r = a) ∧
    (val e a ≠ .nan → val e b ≠ .nan → (r = a ∨ r = b) ∧ (below (val e a) (val e b) → r = if mx then b else a) ∧
      (below (val e b) (val e a) → r = if mx then a else b))
  (∀ mk mx, (mk, mx) ∈ [(Instr.fmin, false), (Instr.fmax, true)] → ∃ r : FR → Nat → Nat → Nat,
    (∀ e a b, isFloat e.ty = true → a < 2 ^ tyW e.ty → b < 2 ^ tyW e.ty → pick e mx a b (r e a b)) ∧
    Packed mk (fun s cx e t i => r e (rawA s e t i) (rawB s cx e t i))) ∧
  Packed .fabs (fun s _ e t i => if val e (rawA s e t i) = .nan then (tyFmt e.ty).nanCode else rawA s e t i % 2 ^ (tyW e.ty - 1)) ∧
  Packed .fneg (fun s _ e t i => if val e (rawA s e t i) = .nan then (tyFmt e.ty).nanCode else rawA s e t i ^^^ 2 ^ (tyW e.ty - 1))

/-- Signs of zero (R91): an exact zero sum of operands of opposite sign is +0, in RD -0; two zeros of one sign sum to it; a finite result that
rounds to zero keeps the sign of the exact value, in every format and mode. -/
def Obligations.ZeroSigns : Prop :=
  (∀ f mode sat r neg a b m n, a * n = m * b → rnd f mode sat r (xadd (mode == .rd) (.fin neg a b) (.fin (!neg) m n)) = f.withSign (mode == .rd) 0) ∧
  (∀ rd neg b n, ∃ d, xadd rd (.fin neg 0 b) (.fin neg 0 n) = .fin neg 0 d) ∧
  (∀ f ∈ [fp64, fp32, fp16, bf16, e4m3, e5m2, e2m1, fa40], ∀ mode sat r neg num den, den ≠ 0 →
    rnd f mode sat r (.fin neg num den) % f.signBit = 0 → rnd f mode sat r (.fin neg num den) = f.withSign neg 0)

/-- RND keeps a value that the format has (R93): the code of a finite value comes back, in every mode and under every draw. A finite number
rounds to the neighbour its mode names, under the draw of RS, with its sign, or where that lies above MAXF as OVF says (R92, R93, R94). A
NaN rounds to the canonical NaN (R90), an infinity by OVF, and a magnitude above MAXF by OVF's table, E4M3 giving its NaN for an infinity
and FP4 MAXF in every mode (R93). The special operands of the functions (R173's table): x by the operand's value, for every format, mode
and draw. -/
def Obligations.RoundingAndSpecials : Prop :=
  (∀ f ∈ [fp64, fp32, fp16, bf16, e4m3, e5m2, e2m1, fa40], ∀ mode sat r code, r < 2 ^ 16 → code < 2 ^ f.width →
      (f.value code).isFin = true → rnd f mode sat r (f.value code) = code) ∧
  (∀ f ∈ [fp64, fp32, fp16, bf16, e4m3, e5m2, e2m1, fa40], ∀ mode sat r neg (num den : Nat), r < 2 ^ 16 → 0 < num → 0 < den →
      RoundedTo f mode sat r neg ((num : ℝ) / den) (rnd f mode sat r (.fin neg num den))) ∧
  (∀ f mode sat r, rnd f mode sat r .nan = f.nanCode ∧ (∀ neg, rnd f mode sat r (.inf neg) = f.ovf neg .rne sat) ∧
      (f ∈ [fp64, fp32, fp16, bf16, e4m3, e5m2, e2m1, fa40] → ∀ neg,
        let far := sat = false ∧ f ≠ e2m1 ∧ (mode = .rne ∨ mode = .rs ∨ (mode = .ru ∧ neg = false) ∨ (mode = .rd ∧ neg = true))
        (far → f.value (f.ovf neg mode sat) = if f = e4m3 then .nan else .inf neg) ∧ (far → f = e4m3 → f.ovf neg mode sat = 0x7F) ∧
        (¬far → (f.value (f.ovf neg mode sat)).rat = (if neg then -f.maxF else f.maxF) ∧ (f.value (f.ovf neg mode sat)).isFin = true))) ∧
  (∀ ty ∈ [Ty.f64, .f32, .f16, .bf16], ∀ mode sat r code,
      let f := tyFmt ty
      let g := fun (fn : Func) => funcCode ty mode sat r fn code
      let out := fun (x : XVal) => rnd f mode sat r x
      let row := fun (neg : Bool) => (∀ d, xinv (.fin neg 0 d) = .inf neg) ∧ xinv (.inf neg) = .fin neg 0 1 ∧
        (∀ d, xrsqrt (.fin neg 0 d) = .inf neg) ∧ (∀ d, xsqrt (.fin neg 0 d) = .fin neg 0 1)
      row true ∧ row false ∧ xrsqrt (.inf true) = .nan ∧ xsqrt (.inf true) = .nan ∧ xrsqrt (.inf false) = .fin false 0 1 ∧
      xsqrt (.inf false) = .inf false ∧ (∀ n d, n ≠ 0 → xrsqrt (.fin true n d) = .nan ∧ xsqrt (.fin true n d) = .nan) ∧
      (f.value code = .nan → ∀ fn, g fn = f.nanCode) ∧
      (f.value code = .inf true → g .exp2 = out (.fin false 0 1) ∧ g .log2 = out .nan ∧ g .sin = out .nan ∧ g .cos = out .nan ∧
        g .tanh = out (.fin true 1 1)) ∧
      (f.value code = .inf false → g .exp2 = out (.inf false) ∧ g .log2 = out (.inf false) ∧ g .sin = out .nan ∧ g .cos = out .nan ∧
        g .tanh = out (.fin false 1 1)) ∧
      (∀ neg d, f.value code = .fin neg 0 d → g .exp2 = out (.fin false 1 1) ∧ g .log2 = out (.inf true) ∧ g .sin = out (.fin neg 0 1) ∧
        g .cos = out (.fin false 1 1) ∧ g .tanh = out (.fin neg 0 1)) ∧
      (∀ n d, n ≠ 0 → f.value code = .fin true n d → g .log2 = out .nan))

/-- cvt (R176): the sub-elements that part P names take CONV of their sources under their guards; the others keep their values. A result in a
floating-point type is the shadow unit's to check (R360): the statement is of a step no upset strikes. That cvt's draw has the
destination's index is the model's reading (log entry 39). CONV (R96, R176), by the kinds of the two types: RND of the source's exact
value; a number rounded to an integer and limited to the range, a NaN giving 0; an integer wrapped or clamped. pack and unpack (R181). -/
def Obligations.ConversionAndPacking : Prop :=
  (∀ s cx f st, Issues s cx (.cvt (cx.fr f)) → Unwritten s cx [(cx.fr f).d.toNat] → (isFloat f.ty = true → Unstruck s cx) →
      tyOfCode (f.ext.toNat % 16) = some st →
      let e := cx.fr f
      let kd := tyK f.ty
      let ks := tyK st
      let n := min kd ks
      let P := f.ext.toNat / 16 % 8
      ∃ s', exec (.cvt f) s = .next s' ∧ GroupResult s s' cx (fun t t' => RegsOnly t t' [e.d.toNat] ∧ ∀ di, di < kd →
        let conv := fun si => convCode f.ty st f.rnd f.sat (cx.draw t 0 di) (sub (tyW st) (s.readV t.key e.a.toNat) si) % 2 ^ tyW f.ty
        sub (tyW f.ty) (t'.heldV e.d.toNat) di =
          if enabledAt t f.g kd di then
            (if kd < ks then conv (P * n + di) else if P * n ≤ di ∧ di < P * n + n then conv (di - P * n)
              else sub (tyW f.ty) (t.heldV e.d.toNat) di)
          else sub (tyW f.ty) (t.heldV e.d.toNat) di)) ∧
  (∀ dt st mode sat r a, r < 2 ^ 16 → let x := convCode dt st mode sat r a
      (isFloat st = true → isFloat dt = true → x = rnd (tyFmt dt) mode sat r ((tyFmt st).value a)) ∧
      (isFloat st = false → isFloat dt = true → let n := intVal st a
        (n = 0 → x = 0) ∧ (n ≠ 0 → RoundedTo (tyFmt dt) mode sat r (decide (n < 0)) |(n : ℝ)| x)) ∧
      (isFloat st = true → isFloat dt = false → x < 2 ^ tyW dt ∧
        ((tyFmt st).value a = .nan → x = 0) ∧ (∀ neg, (tyFmt st).value a = .inf neg → intVal dt x = if neg then tyMin dt else tyMax dt) ∧
        (∀ neg (n d : Nat), (tyFmt st).value a = .fin neg n d → ∃ q : Nat, RoundsTo mode neg r ((n : ℝ) / d) q ∧
          intVal dt x = max (tyMin dt) (min (tyMax dt) (if neg then -(q : ℤ) else q)))) ∧
      (isFloat st = false → isFloat dt = false → x < 2 ^ tyW dt ∧
        (sat = false → (2 ^ tyW dt : ℤ) ∣ (x : ℤ) - intVal st a) ∧ (sat = true → intVal dt x = max (tyMin dt) (min (tyMax dt) (intVal st a))))) ∧
  ((∀ s cx f, Issues s cx (.pack (cx.fr f)) → Unwritten s cx [(cx.fr f).d.toNat] → ∃ s', exec (.pack f) s = .next s' ∧
      GroupResult s s' cx (fun t t' => RegsOnly t t' [(cx.fr f).d.toNat] ∧
        (enabled t f.g = false → t'.heldV (cx.fr f).d.toNat = t.heldV (cx.fr f).d.toNat) ∧
        (enabled t f.g = true → ∀ j,
          let byte := sub 8 (s.readV t.key ((cx.fr f).a.toNat + j / 8)) (j % 8)
          (f.ext = 0 → j < 16 → sub 4 (t'.heldV (cx.fr f).d.toNat) j = byte % 16) ∧
          (f.ext ≠ 0 → j < 32 → sub 2 (t'.heldV (cx.fr f).d.toNat) j = if byte = 0 then 0 else if byte < 128 then 1 else 3)))) ∧
    (∀ s cx f, Issues s cx (.unpack (cx.fr f)) → Unwritten s cx ((List.range (if f.ext = 0 then 2 else 4)).map ((cx.fr f).d.toNat + ·)) →
      ∃ s', exec (.unpack f) s = .next s' ∧
      GroupResult s s' cx (fun t t' => RegsOnly t t' ((List.range (if f.ext = 0 then 2 else 4)).map ((cx.fr f).d.toNat + ·)) ∧
        ∀ n, n < (if f.ext = 0 then 2 else 4) →
        (enabled t f.g = false → t'.heldV ((cx.fr f).d.toNat + n) = t.heldV ((cx.fr f).d.toNat + n)) ∧
        (enabled t f.g = true → ∀ i, i < 8 → sub 8 (t'.heldV ((cx.fr f).d.toNat + n)) i =
          if f.ext = 0 then sub 4 (s.readV t.key (cx.fr f).a.toNat) (8 * n + i)
          else (match sub 2 (s.readV t.key (cx.fr f).a.toNat) (8 * n + i) with | 1 => 1 | 3 => 255 | _ => 0)))))

/-- qnt and dqnt (R177 to R180): the checks that depend on the slot come first, in R177's order, and trap. Where R177's conditions hold, each
completes: a slot of one of the kinds of the table, qnt's c zero unless the slot has a transform, a run that ends by v63, a quarter kind
of qnt in an aligned clause (R178), a transform in a team that owns a scratchpad (R179). The packed register, or the run, is then written
whole under enabled(0), and nothing else. dqnt is of a step no upset strikes (R360). What qnt writes (R87, R101, R107, R108, R177 to
R179): each element of an unscaled kind is rounded alone; a block takes the scale that R101 names of the largest magnitude among its
members' elements, and each element is rounded over it, saturating; the transforms of a source. What dqnt writes (R101, R180): element j
is RND of the exact product of its element, the block scale and the tensor scale; the cases of a NaN, an infinite and a zero scale. -/
def Obligations.Quantisation : Prop :=
  (
    let regs := fun (k : Kind) (ty : Ty) => (if k = .fp8 ∨ k = .int8 ∨ k = .bs4 then 2 else 1) * (if ty = .f32 then 2 else 1)
    let packs := fun (x : Slot) => x.kind ∉ [Kind.fp64, .fp32, .tern]
    (∀ s cx f c, Issues s cx (.qnt (cx.fr f)) → qntCheck cx (cx.launch.slot f.ext.toNat) (cx.fr f) true = some c →
      exec (.qnt f) s = .next (raiseAll s cx c)) ∧
    (∀ s cx f c, Issues s cx (.dqnt (cx.fr f)) → qntCheck cx (cx.launch.slot f.ext.toNat) (cx.fr f) false = some c →
      exec (.dqnt f) s = .next (raiseAll s cx c)) ∧
    (∀ cx x e isQnt, ¬ packs x → qntCheck cx x e isQnt = some 0x08) ∧
    (∀ s cx f, Issues s cx (.qnt (cx.fr f)) → Unwritten s cx [(cx.fr f).d.toNat] →
      let x := cx.launch.slot f.ext.toNat
      packs x → (x.xform = 0 → (cx.fr f).c = 0) → (cx.fr f).a.toNat + regs x.kind f.ty ≤ 64 →
      (x.kind = .mxfp8 ∨ x.kind = .mxfp4 → cx.a ≠ 0) → (x.xform ≠ 0 → 0 < scratchBytes cx.team.key cx.launch) →
      ∃ s', exec (.qnt f) s = .next s' ∧ GroupResult s s' cx (fun t t' =>
        WordWritten f.g (cx.fr f).d.toNat t t' (qntWord s cx x f (cx.fr f) t))) ∧
    (∀ s cx f, Issues s cx (.dqnt (cx.fr f)) → Unstruck s cx →
      let x := cx.launch.slot f.ext.toNat
      Unwritten s cx ((List.range (regs x.kind f.ty)).map ((cx.fr f).d.toNat + ·)) → packs x → (cx.fr f).d.toNat + regs x.kind f.ty ≤ 64 →
      ∃ s', exec (.dqnt f) s = .next s' ∧ GroupResult s s' cx (fun t t' =>
        RunWritten f.g (cx.fr f).d.toNat t t' (dqntRun s cx x (cx.fr f) t)))) ∧
  (
    let scaleOf := fun (k : Kind) (c : Nat) => if k = .bs4 then e5m2.value c else e8m0 c
    (∀ (k : Kind) f emax mode (ys : List (XVal × Nat)), (k, f, emax) ∈ [(Kind.bs4, e2m1, (2 : ℤ)), (.mxfp4, e2m1, 2), (.mxfp8, e4m3, 8), (.mxfp8, e5m2, 15)] →
      (∀ y ∈ ys, y.2 < 2 ^ 16 ∧ ∀ neg n d, y.1 = .fin neg n d → 0 < d) →
      let q := quantBlock k f mode ys
      q.1.length = ys.length ∧
      ((∃ y ∈ ys, y.1.isFin = false) → (∀ c ∈ q.1, c = 0) ∧ q.2 = if k = .bs4 then 0x7E else 0xFF) ∧
      ((∀ y ∈ ys, y.1.isFin = true ∧ y.1.rat = 0) → (∀ c ∈ q.1, c = 0) ∧ q.2 = 0) ∧
      (∀ a : ℚ, 0 < a → (∀ y ∈ ys, y.1.isFin = true ∧ |y.1.rat| ≤ a) → (∃ y ∈ ys, |y.1.rat| = a) →
        (k ≠ .bs4 → (q.2 : ℤ) = max (-127) (min 127 (Int.log 2 a - emax)) + 127) ∧
        (k = .bs4 → q.2 ≤ 0x7B ∧ (a / 6 ≤ 57344 → a / 6 ≤ (e5m2.value q.2).rat ∧ ∀ c, c < q.2 → (e5m2.value c).rat < a / 6) ∧ (57344 < a / 6 → q.2 = 0x7B)) ∧
        ∀ (i : Nat) (y : XVal × Nat), ys[i]? = some y → ∃ c : Nat, q.1[i]? = some c ∧ (y.1.rat = 0 → c = f.withSign y.1.isNeg 0) ∧
          (y.1.rat ≠ 0 → RoundedTo f mode true y.2 y.1.isNeg (((|y.1.rat| / (scaleOf k q.2).rat : ℚ) : ℝ)) c))) ∧
    (∀ c, (c % 256 = 255 → e8m0 c = .nan) ∧ (c < 255 → (e8m0 c).rat = 2 ^ ((c : ℤ) - 127) ∧ (e8m0 c).isFin = true)) ∧
    (∀ (x : Slot) scr ch neg n d tn a b, 0 < d → x.ts = .fin tn a b → 0 < a → 0 < b → let v : XVal := .fin neg n d
      let y := transformed x scr ch v
      let times := fun (j : Nat) (c : Nat) => ((List.range j).filter (fun i => dupEntry x scr i == c)).length
      let c := dupEntry x scr (ch - x.xk)
      y.isFin = true ∧ (x.xform ≠ 1 → x.xform ≠ 2 → y.rat = v.rat / x.ts.rat) ∧ (x.xform = 1 → y.rat = v.rat / (x.ts.rat * (smoothing x scr ch).rat)) ∧
      (x.xform = 2 → y.rat = if ch < x.xk then v.rat / x.ts.rat / 2 ^ times x.xcnt ch
        else if ch - x.xk < x.xcnt ∧ c < x.xk then v.rat / x.ts.rat / 2 ^ times (ch - x.xk + 1) c else 0)) ∧
    (∀ (x : Slot) scr ch, let c := leNat (memReadN scr (64 * x.xrow + 4 * ch) 4)
      smoothing x scr ch = if ch < x.xk ∧ fclassOf .f32 c = 6 then fp32.value c else .fin false 1 1) ∧
    (∀ s cx (x : Slot) f e t, let w := qntWord s cx x f e t
      let k := x.kind
      k ∉ [Kind.fp64, .fp32, .tern] →
      (k.block = 0 → ∀ (j : Nat) (y : XVal × Nat), (qntSources s cx x e t)[j]? = some y → j < k.perThread ∧
        (k ≠ .int8 → sub k.width w j = rnd x.fmt x.rmode x.satm y.2 y.1 % 2 ^ k.width) ∧
        (k = .int8 → (y.1 = .nan → sub 8 w j = 0) ∧ (∀ neg, y.1 = .inf neg → sgn 8 (sub 8 w j) = if neg then -128 else 127) ∧
          ∀ neg (n d : Nat), y.1 = .fin neg n d → ∃ q : Nat, RoundsTo x.rmode neg y.2 ((n : ℝ) / d) q ∧
          sgn 8 (sub 8 w j) = max (-128) (min 127 (if neg then -(q : ℤ) else q)))) ∧
      (k.block ≠ 0 → let parts := if k = .bs4 then [t] else ((List.range 8).filterMap (fun l => lanePeer s t 8 l)).filter (fun p => enabled p f.g)
        let q := quantBlock k x.fmt x.rmode (parts.flatMap (qntSources s cx x e))
        let at_ := if k = .bs4 then 0 else k.perThread * (parts.filter (fun p => p.key.tid < t.key.tid)).length
        (∀ j, j < k.perThread → sub k.width w j = q.1.getD (at_ + j) 0 % 2 ^ k.width) ∧ sub 8 w 4 = q.2 % 256)) ∧
    (∀ s cx (x : Slot) e t j, j < x.kind.perThread → (qntSources s cx x e t)[j]? = some
      (transformed x cx.team.scr ((s.readV t.key e.c.toNat).toNat % 2 ^ 32 + j)
        ((tyFmt e.ty).value (sub (tyW e.ty) (s.readV t.key (e.a.toNat + j / tyK e.ty)) (j % tyK e.ty))), cx.draw t x.seed j))) ∧
  ((∀ (x : Slot) w j tn a b, x.kind ∉ [Kind.fp64, .fp32, .tern] → x.ts = .fin tn a b → 0 < a → 0 < b → let k := x.kind
      let v := if k = .int8 then xint (sgn 8 (sub 8 w j)) else x.fmt.value (sub k.width w j)
      let scale := if k = .bs4 then e5m2.value (sub 8 w 4) else if k.block ≠ 0 then e8m0 (sub 8 w 4) else .fin false 1 1
      let y := dequantVal x w j
      (scale = .nan ∨ v = .nan → y = .nan) ∧
      (∀ sn vn n d, scale = .inf sn → v = .fin vn n d → y = if n = 0 then .nan else .inf (sn ^^ vn ^^ tn)) ∧
      (scale.isFin = true → ∀ vn, v = .inf vn → y = .inf (vn ^^ scale.isNeg ^^ tn)) ∧
      (scale.isFin = true → v.isFin = true → y.isFin = true ∧ y.rat = v.rat * scale.rat * x.ts.rat ∧
        (k = .bs4 → scale.rat = 0 → y.isNeg = v.isNeg) ∧ (scale.rat ≠ 0 → y.isNeg = (v.isNeg ^^ scale.isNeg ^^ tn)))) ∧
    (∀ s cx (x : Slot) e t i, i < qntRun x e.ty * tyK e.ty → let kd := tyK e.ty
      ∃ w, (dqntRun s cx x e t)[i / kd]? = some w ∧ sub (tyW e.ty) w (i % kd) =
        rnd (tyFmt e.ty) x.rmode x.satm (cx.draw t x.seed i) (dequantVal x (s.readV t.key e.a.toNat) i) % 2 ^ tyW e.ty))

/-- bra, call, brx and ret (R186): each member alone; one that transfers goes to its target at position 0, whose bits [2:0] are discarded, the
others go on past the instruction; call writes its link register first. A target with bits [63:48] set raises the address-range trap in
place of the transfer (R339). exit (R187): the member becomes Exited, and barriers count it so; its registers are written by nothing any
more. The second part says what exiting is, for any thread of any state (R45). -/
def Obligations.ControlTransfer : Prop :=
  (
    let reach := fun (cx : Ctx) (g : Guard) (target : Thread → Word) =>
      cx.g.members.Nodup ∧ ∀ t ∈ cx.ts, enabled t g = true → bits (target t) 63 48 = 0
    let go := fun (cx : Ctx) (g : Guard) (target : Thread → Word) (t t' : Thread) => t.Moved t' ∧
      if enabled t g then t'.pc = BitVec.ofNat 64 ((target t).toNat / 8 * 8) ∧ t'.cpos = 0 else cx.Past t t'
    (∀ s cx f, Issues s cx (.bra (cx.fi f)) → let x := fun (_ : Thread) => cx.g.h + 8 * f.imm.signExtend 64
      reach cx f.g x → ∃ s', exec (.bra f) s = .next s' ∧ GroupResult s s' cx (go cx f.g x)) ∧
    (∀ s cx f, Issues s cx (.brx (cx.fr f)) →
      let x := fun (t : Thread) => s.readV t.key f.a.toNat + swizzled s t cx.a f.swz.toNat f.b.toNat
      reach cx f.g x → ∃ s', exec (.brx f) s = .next s' ∧ GroupResult s s' cx (go cx f.g x)) ∧
    (∀ s cx f, Issues s cx (.ret (cx.fr f)) → let x := fun (t : Thread) => s.readV t.key f.a.toNat
      reach cx f.g x → ∃ s', exec (.ret f) s = .next s' ∧ GroupResult s s' cx (go cx f.g x)) ∧
    (∀ s cx f, Issues s cx (.call (cx.fi f)) → Unwritten s cx [f.d.toNat] → let x := fun (_ : Thread) => cx.g.h + 8 * f.imm.signExtend 64
      reach cx f.g x → ∃ s', exec (.call f) s = .next s' ∧ GroupResult s s' cx (fun t t' => if enabled t f.g then
        RegsOnly t t' [f.d.toNat] ∧ t'.heldV f.d.toNat = cx.g.h + BitVec.ofNat 64 (8 + 8 * hCount cx.hdr) ∧
        t'.pc = BitVec.ofNat 64 ((x t).toNat / 8 * 8) ∧ t'.cpos = 0 else t.Moved t' ∧ cx.Past t t'))) ∧
  ((∀ s cx f t, Alone s cx (.ret (cx.fr f)) f.g t → TrapsNow s t → bits (s.readV t.key f.a.toNat) 63 48 ≠ 0 →
      TakesTrap s (.ret f) t t { cx.info t 0x10 with addr := (s.readV t.key f.a.toNat).toNat }) ∧
    (∀ s cx f t, Alone s cx (.bra (cx.fi f)) f.g t → TrapsNow s t → bits (cx.g.h + 8 * f.imm.signExtend 64) 63 48 ≠ 0 →
      TakesTrap s (.bra f) t t { cx.info t 0x10 with addr := (cx.g.h + 8 * f.imm.signExtend 64).toNat })) ∧
  ((∀ s cx f t, Alone s cx (.exit (cx.fs f)) f.g t →
      exec (.exit f) s = .next (commit (tryAll (exitThread s t.key) cx.team.key) cx [(t.key.tid, .gone)])) ∧
    (∀ s k t tm, s.thr? k = some t → s.team? k.team = some tm → ∃ t', (exitThread s k).thr? k = some t' ∧ t'.st = .exited ∧
      (∀ r, t'.heldV r = t.heldV r) ∧ (exitThread s k).ms = s.ms ∧ (∀ k', k' ≠ k → (exitThread s k).thr? k' = s.thr? k') ∧
      ∀ b, b < 16 → (barOf (exitThread s k) k.team b).phase = (tm.bar b).phase ∧ (barOf (exitThread s k) k.team b).tag = (tm.bar b).tag ∧
        (barOf (exitThread s k) k.team b).count = (tm.bar b).count - (if arriver b t && arrivedNow b (tm.bar b) t then 1 else 0)))

/-- How a member goes on (R78, R134, R149): to the next repeat, to the next instruction of the clause, or to the following clause. That REPC
is 0 after the last repeat is the model's reading (log entry 22). rep (R149): it loads REPN, the step codes, REPC = 0 and REPA = 1, and
CPOS advances to the next instruction; while TACT is 1 it raises illegal-instruction (R329), which ends the member under R328. -/
def Obligations.RepeatsAndPositions : Prop :=
  (∀ (h : Word) (n pos : Nat) (t : Thread),
      let t' := advance h n pos t
      let more := t.repActive = true ∧ t.repc < t.repn
      t.Moved t' ∧ t'.yieldUntil = t.yieldUntil ∧ t'.yieldHint = t.yieldHint ∧
      (more → t'.pc = t.pc ∧ t'.cpos = t.cpos ∧ t'.repa = true ∧ t'.repc = t.repc + 1) ∧
      (¬more → (t.repActive = true → t'.repa = false ∧ t'.repc = 0) ∧ (t.repActive = false → t'.repa = t.repa ∧ t'.repc = t.repc) ∧
        (pos + 1 < n → t'.pc = t.pc ∧ t'.cpos = pos + 1) ∧ (n ≤ pos + 1 → t'.pc = h + BitVec.ofNat 64 (8 + 8 * n) ∧ t'.cpos = 0))) ∧
  ((∀ s cx f t, Alone s cx (.rep (cx.fi f)) f.g t → t.tact = false → ∃ s', exec (.rep f) s = .next s' ∧ GroupResult s s' cx (fun t t' =>
      t' = { t with repa := true, repc := 0, repn := f.imm.toNat % 64, repsd := f.imm.extractLsb' 6 2, repsa := f.imm.extractLsb' 8 2,
                    repsb := f.imm.extractLsb' 10 2, repsc := f.imm.extractLsb' 12 2, cpos := cx.g.pos + 1 })) ∧
    (∀ s cx f t, Alone s cx (.rep (cx.fi f)) f.g t → t.tact = true →
      exec (.rep f) s = .next (commit (raise s t.key (cx.info t 0x02)) cx [(t.key.tid, .gone)])))

/-- yield (R188): the member's wait of n die cycles is recorded, and begins where the clause is complete. That a yield replaces an earlier one
of its clause is the model's choice (log entry 68). waitt (R213): a deadline already passed completes at once; else the member stays at
the waitt until guest time reaches it. Events of one thread that time brings: it ages after 256 die cycles ready (R54), leaves a barrier
at its cycle of the release window (R262), ends its yield (R188), completes its waitt when guest time reaches the deadline (R213) and its
control line is resident (R73). -/
def Obligations.Waiting : Prop :=
  (∀ s cx f t, Alone s cx (.yield (cx.fs f)) f.g t → ∃ s', exec (.yield f) s = .next s' ∧ GroupResult s s' cx (fun t t' =>
      t.Moved t' ∧ cx.Past t t' ∧ (t'.yieldUntil, t'.yieldHint) =
        if cx.again = true ∨ cx.g.pos + 1 < hCount cx.hdr then (some f.code.toNat, false)
        else (some ((s.die cx.die).cyc + f.code.toNat), true))) ∧
  (∀ s cx f t, Alone s cx (.waitt (cx.fs f)) f.g t →
      let deadline := (s.readV t.key (cx.fs f).a.toNat).toNat
      ∃ s', exec (.waitt f) s = .next s' ∧ GroupResult s s' cx (fun t t' =>
        if deadline ≤ (s.now + (s.vd t.vd).gtoff) % 2 ^ 64 then t.Moved t' ∧ cx.Past t t'
        else t' = { t with waitUntil := some (deadline, hCount cx.hdr) })) ∧
  (∀ s k t n, s.thr? k = some t →
    (t.since = some n → t.aged = none → t.st ≠ .alignedWait → n + 256 ≤ cycOf s t → ready s t = true →
      ∃ s', exec (.threadAged k) s = .next s' ∧ OneThread s s' k { t with aged := some (n + 256) }) ∧
    (t.releaseAt = some n → t.st = .barrierWait → n ≤ cycOf s t → ∃ s', exec (.barrierRelease k) s = .next s' ∧
      OneThread s s' k { t with st := if t.haltReq then .halted else .runnable, releaseAt := none, lines := touched t.lines }) ∧
    (t.yieldUntil = some n → t.yieldHint = true → n ≤ cycOf s t → ∃ s', exec (.yieldExpire k) s = .next s' ∧
      OneThread s s' k { t with yieldUntil := none }) ∧
    (∀ d, t.waitUntil = some (d, n) → d ≤ (s.now + (s.vd t.vd).gtoff) % 2 ^ 64 → lineHeld t 0 = true → ∃ s', exec (.waittDeadline k) s = .next s' ∧
      OneThread s s' k { pass (cycOf s t) n t with waitUntil := none, lines := vset t.lines 0 .dirty }))

/-- Taking a trap (R328): with a handler and TACT = 0 the thread enters it; otherwise its record goes to the fault queue and it exits. The
trap record (R331, R332): each field of its four words, and its reserved bits zero. trap and brk (R216, R217): the member completes the
instruction, then the software or breakpoint trap is delivered, with the code in the record, TRPC and TCPOS naming the next instruction;
where its debugger armed breakpoints, brk halts the member there instead. eret (R218): with TACT = 1, PC := TRPC, CPOS := TCPOS and TACT
:= 0, and nothing else the program can read; a yield of the clause it ends begins its wait (R188); with TACT = 0 it raises illegal-
instruction. -/
def Obligations.TrapsAndReturns : Prop :=
  (∀ s k i t, s.thr? k = some t → t.st ≠ .exited → deliveryWaits s t = false →
      (handlerOf s t ≠ 0 → t.tact = false → 1 ≤ t.budget → t.budget ≤ 8 →
        ∃ t', (raise s k i).thr? k = some t' ∧ InHandler s k i t t' ∧ (∀ k', k' ≠ k → (raise s k i).thr? k' = s.thr? k') ∧
          (raise s k i).ms = s.ms ∧ (raise s k i).teams = s.teams) ∧
      (handlerOf s t = 0 ∨ t.tact = true → raise s k i = exitThread (fqPost (s.unslot k) t.vd (mkRec i false k.tid k.team.num) none) k)) ∧
  (∀ i rpl tid team, tid < 1024 → team < 2 ^ 32 → i.detail < 2 ^ 16 → i.src < 8 → i.repc < 64 → i.rc < 16 → i.cause < 256 → i.addr < 2 ^ 64 →
      let r := mkRec i rpl tid team
      bits r.w0 7 0 = i.cause ∧ bits r.w0 11 8 = i.rc ∧ bits r.w0 17 12 = i.repc ∧ bit r.w0 18 = i.repa ∧ bit r.w0 19 = rpl ∧
      bits r.w0 22 20 = i.src ∧ bit r.w0 23 = i.wr ∧ bits r.w0 31 24 = 0 ∧ bits r.w0 41 32 = (if 6 ≤ i.src then 0 else tid) ∧
      bits r.w0 47 42 = 0 ∧ bits r.w0 63 48 = i.detail ∧ r.w1 = i.rp &&& 0x0000FFFFFFFFFFF8 ∧ r.w2.toNat = i.addr ∧
      r.w3.toNat = (if 6 ≤ i.src then 0 else team)) ∧
  ((∀ s cx f t, Alone s cx (.trap (cx.fs f)) f.g t → TrapsNow s t →
      let u := advance cx.g.h (hCount cx.hdr) cx.g.pos t
      TakesTrap s (.trap f) t u { cx.info t 0x20 with detail := f.code.toNat, rp := u.pc, rc := u.cpos }) ∧
    (∀ s cx f t, Alone s cx (.brk (cx.fs f)) f.g t → TrapsNow s t → (vget (s.vd cx.vd).dbg 1 0).getLsbD 0 = false →
      let u := advance cx.g.h (hCount cx.hdr) cx.g.pos t
      TakesTrap s (.brk f) t u { cx.info t 0x21 with detail := f.code.toNat, rp := u.pc, rc := u.cpos }) ∧
    (∀ s cx f t, Alone s cx (.brk (cx.fs f)) f.g t → (vget (s.vd cx.vd).dbg 1 0).getLsbD 0 = true →
      ∃ s' t', exec (.brk f) s = .next s' ∧ s'.thr? t.key = some t' ∧ t'.st = .halted ∧ t'.haltReq = true ∧
        t'.brkCode = some f.code.toNat ∧ cx.Past t t' ∧ (∀ r, t'.heldV r = t.heldV r) ∧ t'.pred = t.pred)) ∧
  ((∀ s cx f t, Alone s cx (.eret (cx.fs f)) f.g t → t.tact = true → ∃ s', exec (.eret f) s = .next s' ∧ GroupResult s s' cx (fun t t' =>
      let begins := t.yieldHint = false ∧ t.yieldUntil ≠ none
      t' = { t with pc := t.trpc, cpos := t.tcpos, tact := false, ereted := true, lines := vset t.lines 0 .dirty,
                    yieldUntil := if begins then t.yieldUntil.map (cx.cyc s + ·) else t.yieldUntil, yieldHint := t.yieldHint || decide begins })) ∧
    (∀ s cx f t, Alone s cx (.eret (cx.fs f)) f.g t → TrapsNow s t → TakesTrap s (.eret f) t t (cx.info t 0x02)))

/-- movs (R214, R29): under enabled(0), v.d takes the register's value; movt (R215): after it a movs in the same die cycle would return U(v.a)
(NCYC with a zero fraction), and every other device's view is unchanged. Where a group of a core with a higher number has written the same
offset in this die cycle, that group's write, which the rule applies after this one's, stands. -/
def Obligations.SpecialRegisters : Prop :=
  (∀ s cx f, Issues s cx (.movs (cx.fs f)) → ∃ s', exec (.movs f) s = .next s' ∧ GroupResult s s' cx (fun t t' =>
    WordWritten f.g (cx.fs f).d.toNat t t' (BitVec.ofNat 64 (match f.code.toNat with
      | 0x0001 => t.key.tid | 0x0002 => t.key.team.num | 0x0003 => if t.key.team.spawned then 0 else cx.launch.grid
      | 0x0004 => if t.consumer then 1 else 0 | 0x0005 => t.key.tid % 32 | 0x0006 => cx.die | 0x0007 => cx.cluster
      | 0x0010 => (s.now + (s.vd cx.vd).gtoff) % 2 ^ 64
      | 0x0011 => ((s.die cx.die).cyc + ((s.vd cx.vd).word (9 + cx.die)).toNat) % 2 ^ 64
      | 0x0012 => ((s.die cx.die).ncyc + ((s.vd cx.vd).word (11 + cx.die)).toNat) % 2 ^ 64 / 2 ^ 16
      | _ => cx.vd)))) ∧
  (∀ s cx f t, Alone s cx (.movt (cx.fs f)) f.g t → cx.die < 2 → ∃ s', exec (.movt f) s = .next s' ∧ s'.dies = s.dies ∧
    (∀ v, v ≠ cx.vd → s'.vd v = s.vd v) ∧
    (∀ n, n < 18 → n ≠ offsetWord cx f.code.toNat → (s'.vd cx.vd).word n = (s.vd cx.vd).word n) ∧
    (laterMovt s cx (offsetWord cx f.code.toNat) = true → ∀ n, n < 18 → (s'.vd cx.vd).word n = (s.vd cx.vd).word n) ∧
    (laterMovt s cx (offsetWord cx f.code.toNat) = false → let x := s.readV t.key (cx.fs f).a.toNat
     (f.code.toNat = 0x11 → ((s'.die cx.die).cyc + ((s'.vd cx.vd).word (9 + cx.die)).toNat) % 2 ^ 64 = x.toNat) ∧
     (f.code.toNat = 0x12 → ((s'.die cx.die).ncyc + ((s'.vd cx.vd).word (11 + cx.die)).toNat) % 2 ^ 64 = x.toNat % 2 ^ 48 * 2 ^ 16)))

/-- ld and st start one access for each enabled member (R190 to R195): at EA := (base + sext(OFF) + what REP adds) mod 2^64, of the
instruction's size; a store captures its bytes as it issues. A group's members act one after another in ascending TID (R192). ldu makes
one access for the group (R196). The atomics and red start one access of the type's size, with v.b, and for .cas v(b + 1), captured (R197,
R198). A team that logs for rollback is marked ineligible first (R369). -/
def Obligations.AccessesStart : Prop :=
  ((∀ s cx f t x, Alone s cx (.ld (cx.fm f)) f.g t → let e := cx.fm f
      let ea := effAddr s cx.team.key e t (repExtra cx cx.t0.repsd (elemBytes e))
      Reaches s cx (.ld e) e t ea (accessBytes e) .read .load x →
      ∃ s', exec (.ld f) s = .next s' ∧ Started (wayTo s cx e t ea (accessBytes e)) s' cx (.ld e) t x (accessBytes e) [] 0 0) ∧
    (∀ s cx f t x, Alone s cx (.st (cx.fm f)) f.g t → let e := cx.fm f
      let extra := repExtra cx cx.t0.repsb (elemBytes e)
      let ea := effAddr s cx.team.key e t extra
      storeStalls s cx f e (accessBytes e) extra = false → Reaches s cx (.st e) e t ea (accessBytes e) .write .store x →
      ∃ s', exec (.st f) s = .next s' ∧
        Started (wayTo s cx e t ea (accessBytes e)) s' cx (.st e) t x (accessBytes e) (storeBytes s e t) 0 0) ∧
    (∀ s cx f, Issues s cx (.ld (cx.fm f)) → ∃ act, exec (.ld f) s = .next (eachMember s cx act) ∧
      ∀ u t, enabled t f.g = false → kindCheck cx (cx.fm f) t = none → act u t = (u, .adv))) ∧
  (∀ s cx f t x, Alone s cx (.ldu (cx.fm f)) f.g t → t.detached = false → let e := cx.fm f
      let ea := effAddr s cx.team.key e t (repExtra cx cx.t0.repsd (elemBytes e))
      Reaches s cx (.ldu e) e t ea (accessBytes e) .read .load x →
      ∃ s', exec (.ldu f) s = .next s' ∧ Started (wayTo s cx e t ea (accessBytes e)) s' cx (.ldu e) t x (accessBytes e) [] 0 0) ∧
  (∀ mk ∈ [Instr.atom, Instr.atomFadd, Instr.red], ∀ s cx f t x, Alone s cx (mk (cx.fm f)) f.g t → let e := cx.fm f
      let ea := effAddr s cx.team.key e t 0
      (e.sp = true ∨ markIneligible s cx.team.key = s) → Reaches s cx (mk e) e t ea (atomBytes e) .write .atomic x →
      ∃ s', exec (mk f) s = .next s' ∧ Started (wayTo s cx e t ea (atomBytes e)) s' cx (mk e) t x (atomBytes e) []
        ((s.readV t.key e.b.toNat).toNat % 2 ^ (8 * atomBytes e))
        (if e.sub = 7 then (s.readV t.key (e.b.toNat + 1)).toNat % 2 ^ (8 * atomBytes e) else 0))

/-- The effective address (R190, R193): the base register, or the uniform one, plus the sign-extended offset, modulo 2^64. The checks of R191
in their order, for an access of len bytes at ea: the address range (R339), alignment, the scratchpad's bound. -/
def Obligations.AccessChecks : Prop :=
  (∀ (s : State) (k : TeamKey) (e : FM) (t : Thread) (n : Nat),
      (effAddr s k e t n : Int) = (((if e.ub then s.readS k e.a.toNat else s.readV t.key e.a.toNat).toNat : Int) + e.off.toInt + n) % 2 ^ 64 ∧
      accessBytes e = 2 ^ (e.sub.toNat / 2) * 2 ^ (e.cnt.toNat % 4)) ∧
  ((∀ s cx e v ea len need, e.sp = false → 2 ^ 48 ≤ ea → locate s cx e v ea len need = .error (.trap 0x10)) ∧
    (∀ s cx e v ea len need, (e.sp = true ∨ ea < 2 ^ 48) → ea % len ≠ 0 → locate s cx e v ea len need = .error (.trap 0x11)) ∧
    (∀ s cx e v ea len need, e.sp = true → ea % len = 0 → scratchBytes cx.team.key cx.launch < ea + len →
      locate s cx e v ea len need = .error (.trap 0x12)) ∧
    (∀ cx e t, e.sp = true → scratchBytes cx.team.key cx.launch = 0 → kindCheck cx e t = some 0x05) ∧
    (∀ s cx f t c, Alone s cx (.ld (cx.fm f)) f.g t → TrapsNow s t → let e := cx.fm f
      let ea := effAddr s cx.team.key e t (repExtra cx cx.t0.repsd (elemBytes e))
      kindCheck cx e t = none → locate s cx e t.vd ea (accessBytes e) .read = .error (.trap c) →
      TakesTrap s (.ld f) t t { cx.info t c with addr := ea, wr := false, src := 0 }))

/-- An instruction that would raise a flag count above 15 in any member is not issued: the group stalls in place, its state as it was, until
every such count is at most 14 (R80). Here it is any that counts a flag and that no earlier rule of issue turns away or holds back. -/
def Obligations.FullFlagStalls : Prop :=
  let stalls := fun (i eff : Instr) (s : State) (cx : Ctx) => ctx? s = some cx → legal eff = true → slotIllegal cx eff = false → (needsAligned eff = true → cx.a ≠ 0) →
    (∀ t ∈ cx.ts, fenceHolds eff t = false) → ∀ n, flagOfInstr cx.hdr eff = some n → ∀ t ∈ cx.ts, 15 < t.flag n + 1 → exec i s = .next s
  (∀ mk ∈ [Instr.ld, .st, .ldu, .atom, .atomFadd, .red, .cpy], ∀ s cx f, stalls (mk f) (mk (cx.fm f)) s cx) ∧
  (∀ mk ∈ [Instr.tld, .tst, .acl, .mma, .adrn, .abyp, .ast], ∀ s cx f, stalls (mk f) (mk (cx.fx f)) s cx) ∧
  (∀ mk ∈ [Instr.hld, .hst, .hclr, .hbind, .hperm, .hbun, .hmaj, .hdist, .hpop, .hams, .hnear, .hnearK, .hscan], ∀ s cx f,
    stalls (mk f) (mk (cx.fh f)) s cx) ∧
  (∀ i (h : Word) n t, flagOfInstr h i = some n → (flagRoom (flagOfInstr h i) t = true ↔ t.flag n ≤ 14))

/-- A store to an unreplicated page enters its cluster's write window as it issues (R119, R125): core loads of the cluster see its bytes from
then on, memory and every other byte being as they were. fence and fence.x (R200, R201): they hold a fence of their scope and paths
pending; pref (R202) never faults, changes no register and stores nothing; one whose page is a system aperture's makes its team's interval
ineligible (R369). A fence that completes has no earlier operation of its thread on its source paths outstanding, and one of device scope
or wider, or a fence.x with the core as a source, has waited until TWOWED + 4 (R128, R130). -/
def Obligations.FencesAndForwarding : Prop :=
  (∀ s cx q, q.repl = false → q.dpa % 64 + q.data.length ≤ 64 →
      (∀ j, j < q.data.length → coreByte (startStore s cx q) q.cluster (q.dpa + j) = q.data.getD j 0) ∧
      (∀ c a, c ≠ q.cluster ∨ a < q.dpa ∨ q.dpa + q.data.length ≤ a → coreByte (startStore s cx q) c a = coreByte s c a) ∧
      (startStore s cx q).ms.mem = s.ms.mem) ∧
  (
    let fenced := fun (s s' : State) (cx : Ctx) (t : Thread) (sc : Nat) (src dst : BitVec 4) =>
      s'.ms.mem = s.ms.mem ∧ s'.ms.versions = s.ms.versions ∧ s'.ms.reqs = s.ms.reqs ∧ (∀ k, k ≠ t.key → s'.thr? k = s.thr? k) ∧
      ∃ t', s'.thr? t.key = some t' ∧ cx.Past t t' ∧ (∀ r, t'.heldV r = t.heldV r) ∧ t'.pred = t.pred ∧ t'.flags = t.flags ∧
        t'.pfen = true ∧ t'.pfsc = sc ∧ t'.pfsrc = src ∧ t'.pfdst = dst
    (∀ s cx f t, Alone s cx (.fence (cx.fm f)) f.g t → ∃ s', exec (.fence f) s = .next s' ∧ fenced s s' cx t f.scope.toNat 15 15) ∧
    (∀ s cx f t, Alone s cx (.fenceX (cx.fm f)) f.g t →
      ∃ s', exec (.fenceX f) s = .next s' ∧ fenced s s' cx t f.scope.toNat (f.off.extractLsb' 0 4) (f.off.extractLsb' 4 4)) ∧
    (∀ s cx f t, Alone s cx (.pref (cx.fm f)) f.g t → kindCheck cx (cx.fm f) t = none → ∃ s', exec (.pref f) s = .next s' ∧
      (s.ms.badSymbols = [] → s'.ms.mem = s.ms.mem ∧ s'.mg = s.mg) ∧ s'.ms.versions = s.ms.versions ∧ s'.ms.reqs = s.ms.reqs ∧
      s'.ms.held = s.ms.held ∧ s'.teams.map (fun tm => { tm with snap := none }) = s.teams.map (fun tm => { tm with snap := none }) ∧
      GroupResult s { s' with ms := s.ms, mds := s.mds, mg := s.mg, teams := s.teams, nextId := s.nextId } cx (fun t t' => t.Moved t' ∧ cx.Past t t'))) ∧
  (∀ s t, fenceDone s t = true → sourcesBusy s t = false ∧ (t.pfx = false → 2 ≤ t.pfsc → t.twowed + 4 ≤ s.now) ∧
      (t.pfx = true → t.pfsrc.getLsbD 0 = true → t.twowed + 4 ≤ s.now))

/-- A load is served at its home (R121, R123): it performs with the bytes a load of its cluster sees now, whether it fetches or renews. A
load's data return (R194, R187, R139): the destination registers take the data, zero- or sign-extended, and its flag falls. What a load
writes (R194): sub-word types extended from their width, .b64 the eight bytes of its register. -/
def Obligations.Loads : Prop :=
  (∀ s id q, s.req? id = some q → q.id = id → isLoadReq q = true → q.space = .hbm → q.repl = false → mayPerform s q = true →
      l1Hit s q = false → l2Hit s q = false → homeHolds s q.dpa = false → s.ms.badSymbols = [] → anyPoison s q.dpa q.len = false →
      let renews := q.lcls ≠ 3 ∧ copyHeld s q.vd 2 (dieOfCluster q.cluster) (q.dpa / 256) = true
      ∃ s' q', exec (if renews then .leaseRenewal id else .homeReadRequest id) s = .next s' ∧ s'.req? id = some q' ∧ q'.phase = .performed ∧
        q'.poisoned = q.poisoned ∧ q'.data = (List.range q.len).map (fun i => coreByte s q.cluster (q.dpa + i)) ∧
        s'.ms.mem = s.ms.mem ∧ s'.ms.versions = s.ms.versions ∧ s'.threads = s.threads) ∧
  (∀ s id q t f, s.req? id = some q → q.id = id → q.i = .ld f → q.phase ≠ .issued → q.poisoned = false → q.failed = false → q.owners = [] →
      s.thr? q.thr = some t → t.st ≠ .exited → f.d.toNat + 2 ^ (f.cnt.toNat % 4) ≤ 64 →
      ∃ s' t', exec (.loadReturn id) s = .next s' ∧ s'.req? id = none ∧ s'.thr? q.thr = some t' ∧
        (∀ j, j < 2 ^ (f.cnt.toNat % 4) → t'.heldV (f.d.toNat + j) = loadedWord (.ld f) q.data (f.d.toNat + j)) ∧
        (∀ r, r < f.d.toNat ∨ f.d.toNat + 2 ^ (f.cnt.toNat % 4) ≤ r → t'.heldV r = t.heldV r) ∧
        (∀ n, n < 12 → t'.flag n = if q.flag = some n then t.flag n - 1 else t.flag n) ∧
        (∀ k, k ≠ q.thr → s'.thr? k = s.thr? k) ∧ s'.ms.mem = s.ms.mem ∧ s'.ms.versions = s.ms.versions ∧
        t'.pc = t.pc ∧ t'.cpos = t.cpos ∧ t'.pred = t.pred) ∧
  (∀ (f : FM) (data : List Byte) (j : Nat),
      (∀ n, (f.sub.toNat, n) ∈ [(0, 1), (2, 2), (4, 4)] → data.length = n → loadedWord (.ld f) data f.d.toNat = BitVec.ofNat 64 (leNat data)) ∧
      (∀ n, (f.sub.toNat, n) ∈ [(1, 1), (3, 2), (5, 4)] → data.length = n →
        loadedWord (.ld f) data f.d.toNat = (BitVec.ofNat (8 * n) (leNat data)).signExtend 64) ∧
      (f.sub.toNat = 6 → loadedWord (.ld f) data (f.d.toNat + j) = BitVec.ofNat 64 (leNat ((data.drop (8 * j)).take 8))))

/-- Write times (R122, R123, R133): what a home answers a store, and what it remembers; the line heats where a granted lease is still
unexpired at t + 4. No lease of any line is lost, and where the table has room no other line's entry moves (R350; the table's size is the
model's choice, log entry 62). A sequencer of a replicated line answers max(Tlast + 1, t + 1,032). A store reaches its home (R122): its
bytes become a version at the write time, its requests are acknowledged with it; the replicated one (R133) awaits the multicast, whose
arrival acknowledges it. A combining entry that has aged goes home (R119). That stores merged in one combining entry become one version
with one write time is the model's choice (log entry 70). An atomic's value returns (R197), an acknowledged store completes (R122, R195):
flags fall, TWOWED rises to the write time, an atom's destination takes the old value. -/
def Obligations.Stores : Prop :=
  (
    let room := fun (s : State) (line : Nat) => (look line s.ms.homes).isSome = true ∨ s.ms.homes.length < 262144
    (∀ s line, let r := assignTw s line
      let h := s.home line
      r.1 = max h.lmax (max (h.tlast + 1) (s.now + 4)) ∧ h.tlast < r.1 ∧ s.now < r.1 ∧
      (r.2.home line).tlast = r.1 ∧ (r.2.home line).lmax = h.lmax ∧
      (r.2.home line).heat = (if s.now + 4 < h.lmax then min 4 (h.heat + 1) else h.heat) ∧
      (room s line → ∀ l, l ≠ line → r.2.home l = s.home l) ∧ (∀ l, s.now < (s.home l).lmax → (s.home l).lmax ≤ (r.2.home l).lmax) ∧
      r.2.ms.mem = s.ms.mem ∧ r.2.threads = s.threads) ∧
    (∀ s line, (assignTwRepl s line).1 = max ((s.home line).tlast + 1) (s.now + 1032) ∧
      ((assignTwRepl s line).2.home line).tlast = (assignTwRepl s line).1)) ∧
  ((∀ s id m, s.store? id = some m → m.id = id → m.stage = .toHome → m.repl = false → m.poisoned = false → writeHolds s m.vd (m.line * 256) false = false →
      (∀ x ∈ s.ms.stores, x.line = m.line → x.die = m.die → x.stage = .toHome → id ≤ x.id) →
      ∃ s' v, exec (.homeStoreArrival id) s = .next s' ∧ s'.ms.versions = s.ms.versions ++ [v] ∧ v.cells = m.cells ∧
        v.tw = max (s.home m.line).lmax (max ((s.home m.line).tlast + 1) (s.now + 4)) ∧ (s'.home m.line).tlast = v.tw ∧
        s'.store? id = none ∧ (∀ r q, r ∈ m.reqs → s.req? r = some q → ∃ q', s'.req? r = some q' ∧ q'.phase = .acked ∧ q'.tw = v.tw) ∧
        s'.threads = s.threads) ∧
    (∀ s id m tw, s.store? id = some m → m.stage = .replica tw → homeHolds s (m.line * 256 + 0x3000000000) = false → ∃ s', exec (.replicaUpdate id) s = .next s' ∧ s'.store? id = none ∧
      s'.ms.mem = s.ms.mem ∧ ∀ r q, r ∈ m.reqs → s.req? r = some q → ∃ q', s'.req? r = some q' ∧ q'.phase = .acked) ∧
    (∀ s id m n, s.store? id = some m → m.stage = .combining n → n + 64 ≤ (s.die m.die).cyc → ∃ s', exec (.combiningFlush id) s = .next s' ∧
      s'.store? id = some { m with stage := .toHome } ∧ s'.ms.mem = s.ms.mem ∧ s'.ms.versions = s.ms.versions)) ∧
  ((∀ s id q t f, s.req? id = some q → q.id = id → q.i = .st f → q.space = .hbm → q.repl = false → q.phase = .acked → q.poisoned = false → q.owners = [] →
      s.thr? q.thr = some t →
      ∃ s' t', exec (.storeAck id) s = .next s' ∧ s'.req? id = none ∧ s'.thr? q.thr = some t' ∧ t'.twowed = max t.twowed q.tw ∧
        (∀ n, n < 12 → t'.flag n = if q.flag = some n then t.flag n - 1 else t.flag n) ∧ (∀ r, t'.heldV r = t.heldV r) ∧
        s'.ms.mem = s.ms.mem ∧ s'.ms.versions = s.ms.versions) ∧
    (∀ s id q t f, s.req? id = some q → q.id = id → q.i = .atom f → q.space = .hbm → q.phase = .acked → q.poisoned = false → q.failed = false →
      q.owners = [] → q.watch = false → s.thr? q.thr = some t → t.st ≠ .exited →
      ∃ s' t', exec (.atomReturn id) s = .next s' ∧ s'.req? id = none ∧ s'.thr? q.thr = some t' ∧ t'.twowed = max t.twowed q.tw ∧
        t'.heldV f.d.toNat = (if f.cnt = 1 then (BitVec.ofNat 32 (leNat q.data)).signExtend 64 else BitVec.ofNat 64 (leNat q.data)) ∧
        (∀ r, r ≠ f.d.toNat → t'.heldV r = t.heldV r) ∧ (∀ n, n < 12 → t'.flag n = if q.flag = some n then t.flag n - 1 else t.flag n)))

/-- An atomic executes at its home (R126): it reads the newest bytes, writes its result as a version at its own write time, and is
acknowledged with that time and the old value. The new value of an atomic (R197), for every operation and width. -/
def Obligations.Atomics : Prop :=
  (∀ s id q, s.req? id = some q → q.id = id → (isAtomReq q = true ∨ isRedReq q = true) → q.space = .hbm → q.repl = false →
      mayPerform s q = true → writeHolds s q.vd q.dpa false = false → s.ms.badSymbols = [] → anyPoison s q.dpa q.len = false → q.retried = false →
      let old := (List.range q.len).map (fun i => newestByte s (q.dpa + i))
      ∃ s' v, exec (.homeAtomic id) s = .next s' ∧ s'.ms.versions = s.ms.versions ++ [v] ∧
        v.cells = cellsAt q.dpa (leBytes q.len (atomicResult q (leNat old))) ∧
        v.tw = max (s.home (q.dpa / 256)).lmax (max ((s.home (q.dpa / 256)).tlast + 1) (s.now + 4)) ∧
        (∃ q', s'.req? id = some q' ∧ q'.phase = .acked ∧ q'.tw = v.tw ∧ q'.data = old) ∧ s'.threads = s.threads) ∧
  (∀ aty old b b2, aty < 4 → let w := if aty = 0 ∨ aty = 1 then 32 else 64
      old < 2 ^ w → b < 2 ^ w → b2 < 2 ^ w →
      let val := fun (x : Nat) => if aty % 2 = 1 then (BitVec.ofNat w x).toInt else ((x : Nat) : Int)
      atomicNew false 0 aty old b b2 = (old + b) % 2 ^ w ∧ val (atomicNew false 1 aty old b b2) = min (val old) (val b) ∧
      val (atomicNew false 2 aty old b b2) = max (val old) (val b) ∧ atomicNew false 3 aty old b b2 = old &&& b ∧
      atomicNew false 4 aty old b b2 = old ||| b ∧ atomicNew false 5 aty old b b2 = old ^^^ b ∧ atomicNew false 6 aty old b b2 = b ∧
      atomicNew false 7 aty old b b2 = if old = b then b2 else old)

/-- The home's and the window's own steps: an entry retires 4 ns after its write time (R125), a line cools (R123), a sector is scrubbed
(R345), a lease-table entry is repaired (R350), a fence completes (R200). The lease table's size, 262,144 entries, is the model's choice
(log entry 62). -/
def Obligations.HomeUpkeep : Prop :=
  (∀ s c x, ∃ s', exec (.windowRetire c x) s = .next s' ∧
      (∀ w, w ∈ s'.ms.window ↔ w ∈ s.ms.window ∧ ¬(w.cluster = c ∧ w.sector = x ∧ w.unacked = 0 ∧ w.tw + 4 ≤ s.now)) ∧ s'.ms.mem = s.ms.mem ∧ s'.ms.versions = s.ms.versions) ∧
  (∀ s line, (s.home line).heat ≠ 0 → (s.home line).lastStore + 4096 ≤ s.now → ∃ s', exec (.heatDecay line) s = .next s' ∧
    (s'.home line).heat = (s.home line).heat - 1 ∧ (s'.home line).lmax = (s.home line).lmax ∧ (s'.home line).tlast = (s.home line).tlast ∧
    (∀ l, l ≠ line → s'.home l = s.home l) ∧ s'.ms.mem = s.ms.mem) ∧
  (∀ s x, hbmDpa (64 * x) = true → look x s.ms.badSymbols = none → exec (.scrub x) s = .next s) ∧
  (∀ s x bad, hbmDpa (64 * x) = true → look x s.ms.badSymbols = some bad → bad ≠ [] → (∀ b ∈ bad, b.2 ≠ 0) →
    let d := mdOfDpa (64 * x)
    (s.md d).failed = [] → ∃ s', exec (.scrub x) s = .next s' ∧ s'.ms.mem = s.ms.mem ∧ s'.ms.versions = s.ms.versions ∧
      (bad.length ≤ 4 → s'.ms.poison = s.ms.poison ∧ look x s'.ms.badSymbols = none ∧
        (s'.md d).cecnt = min 0xFFFF ((s.md d).cecnt + 1) ∧ (s'.md d).uecnt = (s.md d).uecnt)) ∧
  (∀ s x bad, hbmDpa (64 * x) = true → look x s.ms.badSymbols = some bad → (∀ b ∈ bad, b.2 ≠ 0) → 4 < bad.length → bad.length ≤ 12 →
    let d := mdOfDpa (64 * x)
    (s.md d).failed = [] → x ∉ s.ms.poison → ∃ s', exec (.scrub x) s = .next s' ∧ s'.ms.poison = s.ms.poison ++ [x] ∧
      (s'.md d).uecnt = min 0xFFFF ((s.md d).uecnt + 1) ∧ (s'.md d).laddr = 64 * x ∧ (s'.md d).cecnt = (s.md d).cecnt ∧
      s'.ms.mem = s.ms.mem ∧ s'.ms.versions = s.ms.versions) ∧
  (∀ s line, ∃ s', exec (.leaseEntryError line) s = .next s' ∧ s'.home line = { s.home line with lmax := s.now + 4096 } ∧
    ((look line s.ms.homes).isSome = true ∨ s.ms.homes.length < 262144 → ∀ l, l ≠ line → s'.home l = s.home l) ∧ s'.ms.mem = s.ms.mem) ∧
  (∀ s k t, s.thr? k = some t → t.pfen = true → fenceDone s t = true → ∃ s' t', exec (.fenceComplete k) s = .next s' ∧
    s'.thr? k = some t' ∧ t'.pfen = false ∧ (∀ r, t'.heldV r = t.heldV r) ∧ s'.ms = s.ms)

/-- Memory keeps what is written (R2): each byte written reads back, every other byte reads as before, and the form stays canonical. Merging
what is due (R121): after `settle` no version whose write time has come is left; of any versions with distinct write times, each byte
reads as the one of the latest write time of those that are due and hold it, or as before where none is; in a memory without symbol
errors. -/
def Obligations.MemoryContents : Prop :=
  (∀ (m : Mem) (a : Nat) (bs : List Byte), Memory.wf m = true →
      Memory.wf (memWriteN m a bs) = true ∧ (∀ j, j < bs.length → memRead (memWriteN m a bs) (a + j) = bs.getD j 0) ∧
      (∀ x, x < a ∨ a + bs.length ≤ x → memRead (memWriteN m a bs) x = memRead m x)) ∧
  ((∀ s, VersionsAhead (settle s)) ∧
    (∀ s a, s.ms.badSymbols = [] → (s.ms.versions.map (·.tw)).Nodup → (∀ v ∈ s.ms.versions, (v.cells.map (·.1)).Nodup) →
      let due := fun (v : Version) => v ∈ s.ms.versions ∧ v.tw ≤ s.now ∧ ∃ b, (a, b) ∈ v.cells
      ((∀ v, ¬ due v) → memRead (settle s).ms.mem a = memRead s.ms.mem a) ∧
      ∀ v b, due v → (a, b) ∈ v.cells → (∀ w, due w → w.tw ≤ v.tw) → memRead (settle s).ms.mem a = b) ∧
    (∀ s, s.ms.badSymbols = [] → (∀ v ∈ s.ms.versions, s.now < v.tw) → (settle s).ms.mem = s.ms.mem ∧ (settle s).ms.versions = s.ms.versions))

/-- bar.arr and bar.wait (R45, R207), where the arrival completes no phase and none that has met the test is yet to complete: an arrival sets
ARRV, gives APH the phase and is counted; a wait inverts the member's parity at once where the phase bit differs from it, and else holds
the member in Barrier wait at the instruction. bar.red and bar.scan (R45, R208, R209), where the arrival completes no phase: the member
arrives, whatever its guard, the phase takes the tag of the instruction, and the member is in Barrier wait at it. The traps of barriers
(R207, R209): no barriers, the wrong role, a tag that does not match. A phase completes (R45): with every non-exited arriver counted and
no payload, the count returns to zero, the phase inverts and no second arrival waiting, the new phase has none. What bar.red and bar.scan
deliver (R208, R46, R47), where no upset strikes: as the phase completes, each participant's destination takes, in each sub-element its
guard governs, the combination of the sources that contribute there, of all participants or, for a scan, of those of lower TID; its parity
inverts, it is past the instruction, and the tag returns to zero. -/
def Obligations.Barriers : Prop :=
  ((∀ s cx f t, Alone s cx (.barArr (cx.fr f)) f.g t →
      let b := (cx.fr f).c.toNat
      let bar := barOf s cx.team.key b
      barrierCheck cx b false t = none → bar.tag = 0 → arrivedNow b bar t = false → bar.count + 1 ≠ arriverCount s cx.team.key b →
      cx.team.met.getLsbD b = false →
      ∃ s' t', exec (.barArr f) s = .next s' ∧ s'.thr? t.key = some t' ∧ cx.Past t t' ∧ t'.arrv.getLsbD b = true ∧ t'.aph.getLsbD b = bar.phase ∧
        t'.bpar = t.bpar ∧ (∀ r, t'.heldV r = t.heldV r) ∧
        barOf s' cx.team.key b = { bar with count := bar.count + 1 } ∧ (∀ c, c ≠ b → barOf s' cx.team.key c = barOf s cx.team.key c) ∧
        (∀ k, k ≠ t.key → s'.thr? k = s.thr? k) ∧ s'.ms = s.ms) ∧
    (∀ s cx f t, Alone s cx (.barWait (cx.fr f)) f.g t →
      let b := (cx.fr f).c.toNat
      let bar := barOf s cx.team.key b
      barrierCheck cx b (8 ≤ b) t = none → ∃ s', exec (.barWait f) s = .next s' ∧ GroupResult s s' cx (fun t t' =>
        if bar.phase ≠ t.bpar.getLsbD b then { t with bpar := t.bpar ^^^ BitVec.ofNat 16 (2 ^ b) }.Moved t' ∧ cx.Past t t'
        else t'.st = .barrierWait ∧ t'.pc = t.pc ∧ t'.cpos = t.cpos ∧ t'.bpar = t.bpar ∧ ∀ r, t'.heldV r = t.heldV r))) ∧
  (∀ scan mk, (scan, mk) ∈ [(false, Instr.barRed), (true, Instr.barScan)] → ∀ s cx f t, Issues s cx (mk (cx.fr f)) → cx.ts = [t] →
      let e := cx.fr f
      let b := e.c.toNat
      let bar := barOf s cx.team.key b
      Unwritten s cx [e.a.toNat, e.d.toNat] → ownsBarriers cx.team.key cx.launch = true →
      (bar.tag = BitVec.ofNat 16 (payloadTag e scan) ∨ bar.tag = 0 ∧ bar.count = 0) → arrivedNow b bar t = false →
      bar.count + 1 ≠ arriverCount s cx.team.key b → cx.team.met.getLsbD b = false →
      ∃ s' t', exec (mk f) s = .next s' ∧ s'.thr? t.key = some t' ∧ t'.st = .barrierWait ∧ t'.pc = t.pc ∧ t'.cpos = t.cpos ∧
        t'.arrv.getLsbD b = true ∧ t'.aph.getLsbD b = bar.phase ∧ (∀ r, t'.heldV r = t.heldV r) ∧
        barOf s' cx.team.key b = { count := bar.count + 1, phase := bar.phase, tag := BitVec.ofNat 16 (payloadTag e scan) } ∧
        (∀ k, k ≠ t.key → s'.thr? k = s.thr? k) ∧ s'.ms = s.ms) ∧
  ((∀ cx b waits t, ownsBarriers cx.team.key cx.launch = false → barrierCheck cx b waits t = some 0x05) ∧
    (∀ cx b waits t, ownsBarriers cx.team.key cx.launch = true → 8 ≤ b → b < 16 →
      (barrierCheck cx b waits t = some 0x0A ↔ (if waits then (t.consumer = true ↔ 12 ≤ b) else (t.consumer = true ↔ b < 12)))) ∧
    (∀ s cx f t, Alone s cx (.barArr (cx.fr f)) f.g t → TrapsNow s t → let b := (cx.fr f).c.toNat
      barrierCheck cx b false t = none → (barOf s cx.team.key b).tag ≠ 0 → TakesTrap s (.barArr f) t t (cx.info t 0x0B))) ∧
  (∀ s k b n, b < 16 → phaseReady s k b = true → (barOf s k b).tag = 0 → (∀ t ∈ s.members k, isSecond t = false) →
      barOf (completePhases (n + 1) s k b) k b = { count := 0, phase := !(barOf s k b).phase, tag := 0 } ∧
      ∀ c, c ≠ b → barOf (completePhases (n + 1) s k b) k c = barOf s k c) ∧
  (∀ s k b n, b < 8 → phaseReady s k b = true → (barOf s k b).tag ≠ 0 → let p := readTag (barOf s k b).tag
      p.op ≤ 8 → (p.op ≤ 5 ↔ isFloat p.ty = false) → (∀ t ∈ s.members k, isSecond t = false ∧ memberUpsets s (coreOf t) t.key.tid = [] ∧ s.thr? t.key = some t) →
      (s.members k).Pairwise (fun t u => t.key.tid < u.key.tid) → (s.members k).length ≤ 1024 →
      let takes := fun (t : Thread) (w : BarWait) => t ∈ s.members k ∧ t.st = .barrierWait ∧ t.releaseAt = none ∧ t.barrier = some w ∧ w.bar = b ∧ w.payload = true
      let governed := fun (w : BarWait) (i : Nat) => w.guardBits.getLsbD (i * (8 / tyK p.ty))
      let given := fun (me t : Thread) (i : Nat) => match t.barrier with
        | some w => if t.st = .barrierWait ∧ t.releaseAt = none ∧ w.bar = b ∧ w.payload = true ∧ governed w i = true ∧ (p.scan = true → t.key.tid < me.key.tid) then
            some (Machine.sub (tyW p.ty) (t.heldV w.a.toNat) i) else none
        | none => none
      let s' := completePhases (n + 1) s k b
      (∀ t w, takes t w → w.d.toNat < 64 → ∃ t', s'.thr? t.key = some t' ∧ t'.barrier = none ∧ t'.releaseAt.isSome = true ∧
        t'.bpar.getLsbD b = !t.bpar.getLsbD b ∧ (∀ r, r ≠ w.d.toNat → t'.heldV r = t.heldV r) ∧
        ∀ i, i < tyK p.ty → if governed w i then PayloadResult p ((s.members k).filterMap (fun u => given t u i)) (Machine.sub (tyW p.ty) (t'.heldV w.d.toNat) i)
          else Machine.sub (tyW p.ty) (t'.heldV w.d.toNat) i = Machine.sub (tyW p.ty) (t.heldV w.d.toNat) i) ∧
      ((∃ t w, takes t w) → barOf s' k b = { count := 0, phase := !(barOf s k b).phase, tag := 0 }))

/-- spawn (R49, R210): a member whose seed is placed completes the instruction; one that finds no bin stays at it, and waits its turn. Where a
seed goes (R49 steps 1 to 3): to the bin of its key that is neither full nor due (R50), else to the first bin that is empty, whose timer
starts; else nowhere. -/
def Obligations.Spawning : Prop :=
  ((∀ s cx f t u, Alone s cx (.spawn (cx.fr f)) f.g t → markIneligible s cx.team.key = s →
      placeSeed s cx.cluster cx.vd cx.launch.lid cx.launch.stimer (seedOf s (cx.fr f) t) = some u →
      (s.cluster cx.cluster).bins.length ≤ (u.cluster cx.cluster).bins.length →
      ∃ s', exec (.spawn f) s = .next s' ∧ s'.clusters = u.clusters ∧ s'.teams = u.teams ∧ s'.ms = u.ms ∧
        GroupResult s { s' with clusters := s.clusters, teams := s.teams, launches := s.launches } cx (fun t t' => t.Moved t' ∧ cx.Past t t')) ∧
    (∀ s cx f t, Alone s cx (.spawn (cx.fr f)) f.g t → markIneligible s cx.team.key = s →
      placeSeed s cx.cluster cx.vd cx.launch.lid cx.launch.stimer (seedOf s (cx.fr f) t) = none →
      ∃ s', exec (.spawn f) s = .next s' ∧ s'.thr? t.key = some t ∧ (s'.cluster cx.cluster).bins = (s.cluster cx.cluster).bins ∧
        (s'.cluster cx.cluster).spawners = (s.cluster cx.cluster).spawners ++
          [{ thr := t.key, vd := cx.vd, seed := seedOf s (cx.fr f) t, count := hCount cx.hdr, pc := cx.g.h, cpos := cx.g.pos, tact := t.tact }])) ∧
  (∀ (s : State) (c v lid n : Nat) (x : Seed),
      let bins := (s.cluster c).bins
      let fits := fun (p : Nat × Bin) =>
        p.2.vd = v ∧ p.2.lid = lid ∧ p.2.entry = x.entry ∧ p.2.held = false ∧ p.2.seeds.length < 32 ∧
          (s.die (dieOfCluster c)).cyc < p.2.dueCyc
      let fresh : Bin :=
        { vd := v, lid := lid, entry := x.entry, seeds := [x], dueCyc := (s.die (dieOfCluster c)).cyc + n, held := false }
      (∀ p, bins.find? (fun p => decide (fits p)) = some p → p.2.seeds.length < 31 →
        ∃ u, placeSeed s c v lid n x = some u ∧ look p.1 (u.cluster c).bins = some { p.2 with seeds := p.2.seeds ++ [x] } ∧
          ∀ m, m ≠ p.1 → look m (u.cluster c).bins = look m bins) ∧
      ((∀ p ∈ bins, ¬ fits p) → ∀ m, m < 16 → look m bins = none → (∀ j, j < m → (look j bins).isSome = true) →
        ∃ u, placeSeed s c v lid n x = some u ∧ look m (u.cluster c).bins = some fresh ∧ ∀ j, j ≠ m → look j (u.cluster c).bins = look j bins) ∧
      ((∀ p ∈ bins, ¬ fits p) → (∀ m, m < 16 → (look m bins).isSome = true) → placeSeed s c v lid n x = none))

/-- migr (R52, R53, R211): once the homes have read the words of the walk, the member starts for the other die, past the instruction; it goes
on where it is where it need not move; a thread that R53 does not allow raises the migrate-not-permitted trap. A migrant whose lines are
written back takes a landing slot of the die it goes to, and is detached (R52, R53); what is left of its yield goes on in that die's
cycles (the model's choice: log entry 68). -/
def Obligations.Migrating : Prop :=
  ((∀ s cx f t x, Alone s cx (.migr (cx.fm f)) f.g t → mayMigrate cx = true → kindCheck cx (cx.fm f) t = none →
      markIneligible s cx.team.key = s → effAddr s cx.team.key (cx.fm f) t 0 < 2 ^ 48 →
      let u := s.walked (.core cx.core) t.vd (effAddr s cx.team.key (cx.fm f) t 0)
      Machine.translate u (.core cx.core) t.vd (effAddr s cx.team.key (cx.fm f) t 0) .any = .ok x →
      let die := if x.dpa < 0x3000000000 then 0 else 1
      ∃ s', exec (.migr f) s = .next s' ∧ GroupResult u s' cx (fun t t' =>
        (∀ r, t'.heldV r = t.heldV r) ∧ t'.pred = t.pred ∧ t'.flags = t.flags ∧ cx.Past t t' ∧
        if apertureDpa x.dpa = true ∨ die = cx.die then t'.st = t.st ∧ t'.migTo = t.migTo
        else t'.st = .migrating ∧ t'.migTo = some die ∧ t'.migSince = s.now)) ∧
    (∀ s cx f t, Alone s cx (.migr (cx.fm f)) f.g t → mayMigrate cx = false → TrapsNow s t →
      TakesTrap s (.migr f) t t (cx.info t 0x07))) ∧
  (∀ s die t c j, s.power = .on → migrants s die = [t] → s.thr? t.key = some t → writtenBack s t = true → landingPlace s t.vd die = some (c, j) →
      ∃ s', exec (.landingSlotGrant die) s = .next s' ∧ look j (s'.cluster c).landing = some t.key ∧ OneThread { s with clusters := s'.clusters } s' t.key
        { t with clus := c, landing := some j, detached := true, migTo := none, st := if t.haltReq then .halted else .runnable,
                 yieldUntil := t.yieldUntil.map (fun n => if t.yieldHint then (s.die (dieOfCluster c)).cyc + (n - (s.die (dieOfCluster t.clus)).cyc) else n) })

/-- musts (R212): the member's list is on its way to the hold-up save controller, and the group stays in its issue slot at the instruction
until the status is there. The hold-up save controller decides a must-save list (R212, R383, R384): a misaligned or malformed list has
status 3, one with a page it may not read 4, one beyond the device's quota 1, one beyond the package's total 2, each leaving the set as it
was; an admitted list becomes the launch's set, an empty one withdraws it. The walks of its pages decode what they read at its homes
(R345). The member's register takes the status. -/
def Obligations.MustSaveSets : Prop :=
  (∀ s cx f t, Alone s cx (.musts (cx.fm f)) f.g t → let e := cx.fm f
      s.ms.reqs.any (isMusts cx) = false → kindCheck cx e t = none → effAddr s cx.team.key e t 0 < 2 ^ 48 → markIneligible s cx.team.key = s →
      ∃ s' q, exec (.musts f) s = .next s' ∧ s'.ms.reqs = s.ms.reqs ++ [q] ∧ q.i = .musts e ∧ q.thr = t.key ∧
        q.gva = effAddr s cx.team.key e t 0 ∧ (s'.core cx.core).slot = some { cx.g with members := [t.key.tid] } ∧
        s'.threads = s.threads ∧ s'.musts = s.musts ∧ s'.ms.mem = s.ms.mem) ∧
  ((∀ s v lid a, a % 16 ≠ 0 → admitAt s v lid a = .status 3 s) ∧
    (∀ s v lid a u, a % 16 = 0 → readList v 65 s a = .malformed u → admitAt s v lid a = .status 3 u) ∧
    (∀ s v lid ds, let u := walkPages s v (ds.flatMap pagesOf)
      let items := (List.range ds.length).filterMap (fun i => (ds[i]?).map (itemOf u v i))
      let old := ((s.musts.filter (fun m => m.lid = lid)).map (fun m => chargeOf m.items)).sum
      let r := admitDescs s v lid ds
      (items.any (fun i => i.pages.any (·.isNone)) = true → r = (4, u)) ∧
      (items.any (fun i => i.pages.any (·.isNone)) = false →
        (bits ((s.vd v).word 7) 12 0 + old < usedBy s v + chargeOf items → r = (1, u)) ∧
        (usedBy s v + chargeOf items ≤ bits ((s.vd v).word 7) 12 0 + old →
          (maxSave s + old < usedAll s + chargeOf items → r = (2, u)) ∧
          (saveBarred s = false → usedAll s + chargeOf items ≤ maxSave s + old → r.1 = 0 ∧ r.2.ms = u.ms ∧ r.2.threads = s.threads ∧
            (∀ m, m.lid ≠ lid → (m ∈ r.2.musts ↔ m ∈ s.musts)) ∧ (ds = [] → ∀ m ∈ r.2.musts, m.lid ≠ lid) ∧
            (ds ≠ [] → ∃ m ∈ r.2.musts, m.lid = lid ∧ m.vd = v ∧ m.items = items))))) ∧
    (∀ s q f t n u, s.ms.reqs = [q] → q.i = .musts f → s.power = .on → admitAt s q.vd q.thr.team.lid q.gva = .status n u →
      s.thr? q.thr = some t → u.thr? q.thr = some t → t.st ≠ .exited → f.d.toNat < 64 →
      ∃ s' t', exec (.mustsAdmission q.id) s = .next s' ∧ s'.thr? q.thr = some t' ∧ t'.heldV f.d.toNat = BitVec.ofNat 64 n ∧
        (∀ r, r ≠ f.d.toNat → t'.heldV r = t.heldV r) ∧ t'.pred = t.pred ∧ s'.musts = u.musts))

/-- The hypervector instructions (R221, R240 to R242) run wherever they issue: with a match store where they need one, a bound n that R242
allows, a 64-byte aligned run where they load or store, and no instruction that is later in team issue order ahead of them (R220). hclr
(R240): the hypervector becomes zero, or the counter and its MSAT bit. The measuring and searching instructions (R242): what every acting
lane's v.d receives. hnear answers the nearest of the first n entries, the lowest index of equal ones, and all ones where n is 0. What hld
and hst move (R240), what hams stores and what hnear.k answers (R242). -/
def Obligations.Hypervectors : Prop :=
  (∀ s cx f t, TeamWide cx t → let e : FH := cx.fh f
    let runs := fun (mk : FH → Instr) (rd wr vals : List Nat) =>
      Alone s cx (mk e) f.g t → behindTeam s cx (mk e) = false →
        ∃ s', exec (mk f) s = .next s' ∧ Queued s s' cx (mk e) t rd wr vals ∧ s'.teams = (noteEng s cx (mk e)).teams
    let place := fun (a : Nat) => a % 64 = 0 ∧ InReach cx e.sp a 1024
    (place (regN s t e.a.toNat) → runs .hld [] [hvRes e.d.toNat] [regN s t e.a.toNat]) ∧
    (place (regN s t e.a.toNat) → runs .hst [hvRes e.b.toNat] [] [regN s t e.a.toNat]) ∧
    runs .hclr [] [if e.d.toNat < 8 then hvRes e.d.toNat else counterRes (e.d.toNat - 8)] [] ∧
    runs .hbind [hvRes e.a.toNat, hvRes e.b.toNat] [hvRes e.d.toNat] [] ∧
    runs .hperm [hvRes e.a.toNat] [hvRes e.d.toNat] [] ∧
    runs .hbun [hvRes e.a.toNat] [counterRes e.mc.toNat] [] ∧
    runs .hmaj [counterRes e.mc.toNat, hvRes e.tb.toNat] [hvRes e.d.toNat] [] ∧
    runs .hdist [hvRes e.a.toNat, hvRes e.b.toNat] [] [] ∧
    runs .hpop [hvRes e.a.toNat] [] [] ∧
    (cx.launch.mstr = true → regN s t e.b.toNat ≤ 255 → runs .hams [hvRes e.a.toNat] [storeRes] [regN s t e.b.toNat]) ∧
    (cx.launch.mstr = true → regN s t e.b.toNat ≤ 256 → runs .hnear [hvRes e.a.toNat, storeRes] [] [regN s t e.b.toNat]) ∧
    (cx.launch.mstr = true → regN s t e.b.toNat ≤ 256 → runs .hnearK [hvRes e.a.toNat, storeRes] [] [regN s t e.b.toNat])) ∧
  (∀ s c o tm f, nextServed s c .hyper = some o → s.team? o.team = some tm → Memory.wf tm.hv = true → Memory.wf tm.mc = true →
    let runs := fun (r : Team → Prop) => ∃ s' tm', exec (.engineChunk c .hyper) s = .next s' ∧ Served s s' o tm' ∧ r tm'
    let only := fun (tm' : Team) (h : Nat) => tm' = { tm with hv := tm'.hv } ∧ ∀ h' j, h' ≠ h → j < 8192 → hvBit tm' h' j = hvBit tm h' j
    let counters := fun (tm' : Team) (m : Nat) => tm' = { tm with mc := tm'.mc, msat := tm'.msat } ∧
      (∀ m' j, m' ≠ m → j < 8192 → hvCounter tm' m' j = hvCounter tm m' j) ∧ ∀ b, b ≠ m → tm'.msat.getLsbD b = tm.msat.getLsbD b
    (o.i = .hclr f → f.d.toNat < 8 → runs (fun tm' => only tm' f.d.toNat ∧ ∀ j, j < 8192 → hvBit tm' f.d.toNat j = false)) ∧
    (o.i = .hclr f → 8 ≤ f.d.toNat → f.d.toNat < 12 → runs (fun tm' => counters tm' (f.d.toNat - 8) ∧
      (∀ j, j < 8192 → hvCounter tm' (f.d.toNat - 8) j = 0) ∧ tm'.msat.getLsbD (f.d.toNat - 8) = false))) ∧
  (∀ s c o tm f, nextServed s c .hyper = some o → s.team? o.team = some tm → Memory.wf tm.hv = true → Memory.wf tm.ms = true →
    let gives := fun (d : Nat) (x : Nat → Prop) => ∃ s', exec (.engineChunk c .hyper) s = .next s' ∧ s'.teams = s.teams ∧ s'.ms = s.ms ∧
      (∃ o' ∈ s'.ops, o'.id = o.id ∧ o'.phase = .done (max o.lastTw s.now)) ∧
      ∀ t, s.thr? t.key = some t → t.key.team = o.team → t.key.tid ∈ o.lanes → t.st ≠ .exited →
        ∃ t', s'.thr? t.key = some t' ∧ RegsOnly t t' [d] ∧ x (t'.heldV d).toNat
    (o.i = .hdist f → f.d.toNat < 64 → gives f.d.toNat (fun w => w = hvDist tm f.a.toNat f.b.toNat)) ∧
    (o.i = .hpop f → f.d.toNat < 64 → gives f.d.toNat (fun w => w = ((List.range 8192).filter (hvBit tm f.a.toNat)).length)) ∧
    (o.i = .hnear f → f.d.toNat < 64 → let n := o.vals.getD 0 0
      n ≤ 256 → gives f.d.toNat (fun w => if n = 0 then w = 2 ^ 64 - 1 else
        ∃ x, x < n ∧ w = storeDist tm x f.a.toNat * 2 ^ 32 + x ∧
          ∀ y, y < n → storeDist tm x f.a.toNat < storeDist tm y f.a.toNat ∨ (storeDist tm x f.a.toNat = storeDist tm y f.a.toNat ∧ x ≤ y)))) ∧
  (∀ s c o tm f, nextServed s c .hyper = some o → Memory.wf tm.hv = true → Memory.wf tm.ms = true →
      let v := o.vals.getD 0 0
      (∀ t bs, o.i = .hld f → engRead s o f.sp v 1024 = (t, .ok bs) → bs.length = 1024 → t.team? o.team = some tm → f.d.toNat < 8 →
        ∃ s' tm', exec (.engineChunk c .hyper) s = .next s' ∧ ChunkDone { t with teams := s'.teams } s' o 0 true ∧ s'.team? o.team = some tm' ∧
          tm' = { tm with hv := tm'.hv } ∧ (∀ j, j < 1024 → memRead tm'.hv (1024 * f.d.toNat + j) = bs.getD j 0) ∧
          ∀ z, z < 1024 * f.d.toNat ∨ 1024 * f.d.toNat + 1024 ≤ z → memRead tm'.hv z = memRead tm.hv z) ∧
      (∀ t, o.i = .hst f → s.team? o.team = some tm → engWrite s o f.sp v (memRange tm.hv (1024 * f.b.toNat) 1024) = (t, none) →
        ∃ s', exec (.engineChunk c .hyper) s = .next s' ∧ ChunkDone t s' o 0 true) ∧
      (o.i = .hams f → s.team? o.team = some tm → v < 256 → ∃ s' tm', exec (.engineChunk c .hyper) s = .next s' ∧ Served s s' o tm' ∧
        tm' = { tm with ms := tm'.ms } ∧ (∀ j, j < 1024 → memRead tm'.ms (1024 * v + j) = memRead tm.hv (1024 * f.a.toNat + j)) ∧
        ∀ z, z < 1024 * v ∨ 1024 * v + 1024 ≤ z → memRead tm'.ms z = memRead tm.ms z) ∧
      (∀ t, o.i = .hnearK f → s.team? o.team = some tm → v ≤ 256 → f.d.toNat + f.kn.toNat < 64 → s.thr? t.key = some t → t.key.team = o.team →
        t.key.tid ∈ o.lanes → o.lanes.Nodup → t.st ≠ .exited →
        ∃ s' t' best, exec (.engineChunk c .hyper) s = .next s' ∧ s'.ms = s.ms ∧ s'.teams = s.teams ∧ s'.thr? t.key = some t' ∧
          NearestK (fun i => storeDist tm i f.a.toNat) v (f.kn.toNat + 1) best ∧ RegsOnly t t' ((List.range (f.kn.toNat + 1)).map (f.d.toNat + ·)) ∧
          ∀ r, r ≤ f.kn.toNat → (t'.heldV (f.d.toNat + r)).toNat = nearWord best r))

/-- The combining hypervector instructions act on every bit position, from 0 to 8,191, and read all their sources before writing (R241):
hbind, hperm, hbun with its saturation and its sticky MSAT bit, hmaj; a counter at -128 counts as negative, and the next hbun clamps it.
Other hypervectors, counters and state are unchanged. -/
def Obligations.CombiningHypervectors : Prop :=
  ∀ s c o tm f, nextServed s c .hyper = some o → s.team? o.team = some tm → Memory.wf tm.hv = true → Memory.wf tm.mc = true →
  let runs := fun (r : Team → Prop) => ∃ s' tm', exec (.engineChunk c .hyper) s = .next s' ∧ Served s s' o tm' ∧ r tm'
  let only := fun (tm' : Team) (h : Nat) => tm' = { tm with hv := tm'.hv } ∧ ∀ h' j, h' ≠ h → j < 8192 → hvBit tm' h' j = hvBit tm h' j
  let counters := fun (tm' : Team) (m : Nat) => tm' = { tm with mc := tm'.mc, msat := tm'.msat } ∧
    (∀ m' j, m' ≠ m → j < 8192 → hvCounter tm' m' j = hvCounter tm m' j) ∧ ∀ b, b ≠ m → tm'.msat.getLsbD b = tm.msat.getLsbD b
  (o.i = .hbind f → runs (fun tm' => only tm' f.d.toNat ∧
    ∀ j, j < 8192 → hvBit tm' f.d.toNat j = (hvBit tm f.a.toNat j != hvBit tm f.b.toNat j))) ∧
  (o.i = .hperm f → runs (fun tm' => only tm' f.d.toNat ∧
    ∀ j, j < 8192 → hvBit tm' f.d.toNat ((j + f.rot.toNat) % 8192) = hvBit tm f.a.toNat j)) ∧
  (o.i = .hmaj f → runs (fun tm' => only tm' f.d.toNat ∧ ∀ j, j < 8192 → hvBit tm' f.d.toNat j =
    if 0 < hvCounter tm f.mc.toNat j then true else if hvCounter tm f.mc.toNat j < 0 then false else hvBit tm f.tb.toNat j)) ∧
  (o.i = .hbun f →
    let x := fun (j : Nat) => hvCounter tm f.mc.toNat j + (if hvBit tm f.a.toNat j then 1 else -1)
    runs (fun tm' => counters tm' f.mc.toNat ∧ (∀ j, j < 8192 → hvCounter tm' f.mc.toNat j = max (-127) (min 127 (x j))) ∧
      (tm'.msat.getLsbD f.mc.toNat = true ↔ tm.msat.getLsbD f.mc.toNat = true ∨ ∃ j, j < 8192 ∧ (x j < -127 ∨ 127 < x j)))) ∧
  (∀ m j, m < 4 → j < 8192 → memRead tm.mc (8192 * m + j) = 0x80 → hvCounter tm m j = -128)

/-- tld, tst and the matrix instructions (R221 to R237) run wherever they issue: slots that fit, operands in range, addresses in reach, a free
command place (R70) or table entry (R234), and no instruction that is later in team issue order ahead of them (R220). tld advances the
generation of each tile it writes and abyp that of its quarter's tile (R224); acl sets the kind bit of what it clears (R230). A matrix
pass (R230, R231, R234, R88, R104): acl clears the rows of its participating lane in every column; an INT8 pass without masks adds to each
element of those rows the exact sum of 64 products, clamped to ±(2^39 − 1). No other row changes. A pass of which a row mismatches its
checksum column writes no accumulator element, is counted, and leaves a team that may be rolled back to its rollback (R362, R363, R372).
What a pass writes (R225, R226, R231 to R233, R103 to R105), of one participating lane's two rows: products of the row and the column,
masked ones +0; an unscaled floating-point pair adds their truncated sum in one rounding, a scaled one each block's term in its own, an
FP64 pair rounds the exact sum once; an integer pair adds the exact sum and clamps, and ACCS notes a clamp. No upset strikes the pass.
What the drains write (R235 to R237, R106), of one participating lane: each element is the accumulator's times both tensor scales,
converted to the drain's type; adrn into the lane's registers, abyp into a part of the quarter's tile, ast to memory or the scratchpad,
element by element where the masks keep row and column. What one chunk of tld and tst moves (R223, R228, R229): each column's elements
from or to its row in memory or in the scratchpad, the scales of its blocks beside them, laid out by SPLACE; a tile's depths at and above
KT are zero and its scales there 1.0, and tst writes none of them. -/
def Obligations.TilesAndMatrices : Prop :=
  (∀ s cx f t, TeamWide cx t → let e : FX := cx.fx f
    let q := t.key.tid / 8 % 4
    let runs := fun (mk : FX → Instr) (rd wr vals : List Nat) (teams : State → Prop) =>
      Alone s cx (mk e) f.g t → behindTeam s cx (mk e) = false →
        ∃ s', exec (mk f) s = .next s' ∧ Queued s s' cx (mk e) t rd wr vals ∧ teams s'
    let same := fun (i : Instr) (s' : State) => s'.teams = (noteEng s cx i).teams
    let changed := fun (x : Team → Team → Prop) (s' : State) => ∀ tm, s.team? cx.team.key = some tm →
      ∃ tm', s'.team? cx.team.key = some tm' ∧ x tm tm'
    let b := e.b.toNat
    let place := placesUsed s cx.team.key < 32
    let entry := entriesUsed s cx.cluster < 16
    let x := cx.launch.slot e.slb.toNat
    let c := regN s t e.c.toNat
    let va := regN s t e.a.toNat
    let va1 := if x.kind.block ≠ 0 ∧ x.splace = 0 then regN s t (e.a.toNat + 1) else 0
    let tiles := (List.range (descCnt c)).map (fun j => tileRes (b + j))
    let memory := fun (load : Bool) => x.kind ≠ .fp32 ∧ (e.sp = true → scratchBytes cx.team.key cx.launch ≠ 0) ∧ tileCheck cx x load e.sp b va va1 c = none ∧ place
    let accs := aclAccs (cx.launch.slot e.sla.toNat) e.d.toNat
    (memory true → runs .tld [] tiles ([va, va1, c] ++ smoothCodes x cx.team.scr c) (changed (fun tm tm' => tm' = { tm with tgen := tm'.tgen, lastEng := tm'.lastEng } ∧
      ∀ n, n < 32 → vget tm'.tgen n 0 = vget tm.tgen n 0 + if b ≤ n ∧ n < b + descCnt c then 1 else 0))) ∧
    (memory false → runs .tst tiles [] [va, va1, c] (same (.tst e))) ∧
    (entry → (cx.launch.slot e.sla.toNat).kind ≠ .fp32 → (cx.launch.slot e.sla.toNat).kind ≠ .tern →
      ((cx.launch.slot e.sla.toNat).kind = .fp64 → e.d.toNat % 2 = 0) → e.d.toNat < 16 →
      runs .acl [] (accs.map (fun a => accRes a q) ++ accs.map accsRes) [] (changed (fun tm tm' => tm' = { tm with acck := tm'.acck, lastEng := tm'.lastEng } ∧
        ∀ a, a < 16 → tm'.acck.getLsbD a = if a ∈ accs then decide ((cx.launch.slot e.sla.toNat).kind = .int8) else tm.acck.getLsbD a))) ∧
    (entry → mmaMismatch cx e = false → maskTrap s cx e = none →
      runs .mma (tileRes b :: (if e.byp then [tileRes (e.c.toNat + q)] else []) ++ (accsOf e.sub.toNat e.d.toNat).map accsRes) ((accsOf e.sub.toNat e.d.toNat).map (fun a => accRes a q)) (mmaVals s cx e [t])
        (same (.mma e))) ∧
    (entry → drainMismatch cx e = false → runs .adrn (drainReads cx e q) [] [] (same (.adrn e))) ∧
    (entry → drainMismatch cx e = false → e.a.toNat + q < 32 → runs .abyp (drainReads cx e q) [tileRes (e.a.toNat + q)] [] (changed (fun tm tm' =>
      tm' = { tm with tgen := tm'.tgen, lastEng := tm'.lastEng } ∧ ∀ n, n < 32 → vget tm'.tgen n 0 = vget tm.tgen n 0 + if n = e.a.toNat + q then 1 else 0))) ∧
    (entry → drainMismatch cx e = false → (e.sp = true → scratchBytes cx.team.key cx.launch ≠ 0) → astTrap s cx e t = none →
      Alone s cx (.ast e) f.g t → behindTeam s cx (.ast e) = false →
        ∃ s' vals, exec (.ast f) s = .next s' ∧ Queued s s' cx (.ast e) t (drainReads cx e q) [] vals ∧ same (.ast e) s')) ∧
  (∀ s c o tm f n, chooseEntry s c = some o → s.ops = [o] → s.team? o.team = some tm → Memory.wf tm.acc = true → Memory.wf tm.tiles = true → o.lanes = [n] → o.quarter < 4 →
      f.d.toNat < 16 → let row := 16 * o.quarter + 2 * (n % 8)
    let keeps := fun (tm' : Team) => tm' = { tm with acc := tm'.acc, accs := tm'.accs } ∧
      ∀ a r, a < 16 → r < 64 → a ≠ f.d.toNat ∨ (r ≠ row ∧ r ≠ row + 1) → accRow tm' a r = accRow tm a r
    (o.i = .acl f → (opSlot s o f.sla.toNat).kind ≠ .fp64 → ∃ s' tm', exec (.matrixArbitration c) s = .next s' ∧ Served s s' o tm' ∧ keeps tm' ∧
      accRow tm' f.d.toNat row = 0 ∧ accRow tm' f.d.toNat (row + 1) = 0 ∧ tm'.accs.getLsbD f.d.toNat = false) ∧
    (o.i = .mma f → f.sub = 5 → f.men = false → f.byp = false → (opSlot s o f.sla.toNat).kind = .int8 → (opSlot s o f.slb.toNat).kind = .int8 →
      (opSlot s o f.sla.toNat).xform ≠ 2 → isStart s c = false → s.upsets.any (·.strikes c) = false →
      ∃ s' tm', exec (.matrixArbitration c) s = .next s' ∧ s'.team? o.team = some tm' ∧ s'.ms = s.ms ∧ s'.threads = s.threads ∧ keeps tm' ∧
        (∃ o' ∈ s'.ops, o'.id = o.id ∧ o'.phase = .done (max o.lastTw s.now)) ∧
        ∀ m col, m < 2 → col < 16 →
          let a := fun (k : Nat) => sgn 8 (o.vals.getD (2 * (n % 8) + m) 0 / 2 ^ (8 * k) % 256)
          let b := fun (k : Nat) => sgn 8 (memRead tm.tiles (1280 * f.b.toNat + 64 * col + k)).toNat
          let old := sgn 40 (elem40 (accRow tm f.d.toNat (row + m)) col)
          sgn 40 (elem40 (accRow tm' f.d.toNat (row + m)) col) =
            max (-int40Max) (min int40Max ((List.range 64).foldl (fun x k => x + a k * b k) old))) ∧
    (o.i = .mma f → c < 384 → o.owners ≠ [] → isStart s c = false → s.upsets.any (·.strikes c) = true → quarterMismatch s o = true → mayRollBack s o.team = true →
      ∃ s', exec (.matrixArbitration c) s = .next s' ∧ s'.team? o.team = some tm.awaitRollback ∧ s'.ms = s.ms ∧ s'.threads = s.threads ∧
        (s'.die (dieOfCluster c)).ckcnt = min 0xFFFF ((s.die (dieOfCluster c)).ckcnt + 1))) ∧
  (∀ s c o tm f n, chooseEntry s c = some o → s.ops = [o] → s.team? o.team = some tm → Memory.wf tm.acc = true → Memory.wf tm.tiles = true → o.lanes = [n] → o.quarter < 4 →
      o.i = .mma f → isStart s c = false → s.upsets.any (·.strikes c) = false →
      let x := opSlot s o f.sla.toNat
      let y := opSlot s o f.slb.toNat
      let d := f.d.toNat
      let accs := accsOf f.sub.toNat d
      pairOf x y = some f.sub.toNat → (∀ a ∈ accs, a < 16) →
      let v := fun (i : Nat) => o.vals.getD i 0
      let K := pairK f.sub.toNat
      let w := y.kind.width
      let bytes := K * w / 8
      let row := 16 * o.quarter + 2 * (n % 8)
      let rowA := fun (m : Nat) => if f.byp then leNat (memRange tm.tiles (1280 * (f.c.toNat + o.quarter) + 64 * (2 * (n % 8) + m)) 64) else v (2 * (n % 8) + m)
      let colB := fun (col : Nat) => leNat (memRange tm.tiles (1280 * f.b.toNat + bytes * col) bytes)
      let elA := fun (m k : Nat) => rowA m / 2 ^ (x.kind.width * k) % 2 ^ x.kind.width
      let elB := fun (col k : Nat) => colB col / 2 ^ (w * k) % 2 ^ w
      let dhi := if v 33 / 2 ^ 24 % 256 = 0 then K else v 33 / 2 ^ 24 % 256
      let kept := fun (m col k : Nat) => !f.men || ((v 32).testBit (row + m) && (v 33).testBit (if f.sub = 6 then col / 4 else col) && decide (v 33 / 2 ^ 16 % 256 ≤ k) && decide (k < dhi))
      let product := fun (m col k : Nat) => if kept m col k then xmul (x.fmt.value (elA m k)) (y.fmt.value (elB col k)) else posZero
      let old := fun (m col : Nat) => elem40 (accRow tm d (row + m)) col
      let dup := fun (k : Nat) =>
        let g := v 34 + k
        let ch := v (37 + (g - x.xk))
        if x.xform ≠ 2 ∨ f.byp = true ∨ g < x.xk then some k
        else if g < x.xk + x.xcnt ∧ ch < x.xk ∧ v 35 ≤ ch ∧ ch - v 35 < 64 then some (ch - v 35) else none
      let whole := fun (m col k : Nat) => match dup k with
        | some j => if kept m col k then sgn 8 (elA m k) * (if f.sub = 6 then (if elB col j = 1 then 1 else if elB col j = 3 then -1 else 0) else sgn 8 (elB col j)) else 0
        | none => 0
      let sum := fun (m col : Nat) => sgn 40 (elem40 (accRow tm (d + col / 16) (row + m)) (col % 16)) + ((List.range K).map (whole m col)).sum
      let scaleA := fun (m b : Nat) => v (16 + 2 * (n % 8) + m) / 2 ^ (8 * b) % 256
      let scaleB := fun (col b : Nat) => (memRead tm.tiles (1280 * f.b.toNat + 1024 + K / x.kind.block * col + b)).toNat
      let scale := fun (code : Nat) => if f.sub = 1 then e5m2.value code else e8m0 code
      ∃ s' tm', exec (.matrixArbitration c) s = .next s' ∧ s'.team? o.team = some tm' ∧ s'.ms = s.ms ∧ s'.threads = s.threads ∧
        tm' = { tm with acc := tm'.acc, accs := tm'.accs } ∧
        (∀ a r, a < 16 → r < 64 → a ∉ accs ∨ (r ≠ row ∧ r ≠ row + 1) → accRow tm' a r = accRow tm a r) ∧
        (f.sub = 2 ∨ f.sub = 4 → ∀ m col, m < 2 → col < 16 → ∃ S, TruncatedSum ((List.range K).map (product m col)) S ∧
          elem40 (accRow tm' d (row + m)) col = rn40 (xadd false (fa40.value (old m col)) S)) ∧
        (f.sub = 0 ∨ f.sub = 1 ∨ f.sub = 3 → ∀ m col, m < 2 → col < 16 → ∃ T : Nat → XVal,
          (∀ b, b < K / x.kind.block →
            let ks := (List.range x.kind.block).map (fun i => x.kind.block * b + i)
            BlockTerm (ks.map (product m col)) (ks.any (kept m col)) (scale (scaleA m b)) (scale (scaleB col b)) (T b)) ∧
          elem40 (accRow tm' d (row + m)) col = ((List.range (K / x.kind.block)).map T).foldl (fun acc t => rn40 (xadd false (fa40.value acc) t)) (old m col)) ∧
        (f.sub = 7 → ∀ m col, m < 2 → col < 16 → ∃ S,
          ExactSum (fp64.value (pairCode (accRow tm d (row + m)) (accRow tm (d + 1) (row + m)) col) :: (List.range K).map (product m col)) S ∧
          elem40 (accRow tm' d (row + m)) col = rn64 S % 2 ^ 40 ∧ elem40 (accRow tm' (d + 1) (row + m)) col = rn64 S / 2 ^ 40) ∧
        (f.sub = 5 ∨ f.sub = 6 → (∀ m col, m < 2 → col < (if f.sub = 6 then 64 else 16) →
          sgn 40 (elem40 (accRow tm' (d + col / 16) (row + m)) (col % 16)) = max (-int40Max) (min int40Max (sum m col))) ∧
          ∀ a, a < 16 → (tm'.accs.getLsbD a = true ↔ tm.accs.getLsbD a = true ∨
            a ∈ accs ∧ ∃ m col, m < 2 ∧ col < 16 ∧ int40Max < |sum m (16 * (a - d) + col)|)) ∧
        (f.sub ≠ 5 → f.sub ≠ 6 → tm'.accs = tm.accs)) ∧
  (∀ s c o tm f n ty sub, chooseEntry s c = some o → s.ops = [o] → s.team? o.team = some tm → Memory.wf tm.tiles = true → o.lanes = [n] → o.quarter < 4 →
      let x := opSlot s o f.sla.toNat
      let y := opSlot s o f.slb.toNat
      pairOf x y = some sub → tyOfCode f.b.toNat = some ty → ty ≠ .b64 →
      let w := tyW ty
      let l := n % 8
      let row := 16 * o.quarter + 2 * l
      let acc := fun (m col : Nat) =>
        if sub = 7 then fp64.value (pairCode (accRow tm f.d.toNat (row + m)) (accRow tm (f.d.toNat + 1) (row + m)) col)
        else if sub = 5 ∨ sub = 6 then xint (sgn 40 (elem40 (accRow tm f.d.toNat (row + m)) col))
        else fa40.value (elem40 (accRow tm f.d.toNat (row + m)) col)
      let isD := fun (m col e code : Nat) =>
        let value := xmul (xmul (acc m col) x.ts) y.ts
        let r := draw o.pc.toNat o.cpos (if o.repa then o.repc else 0) o.team.num n x.seed e
        if isFloat ty then code = rnd (tyFmt ty) x.rmode x.satm r value
        else code < 2 ^ w ∧ (value = .nan → code = 0) ∧ (∀ neg, value = .inf neg → intVal ty code = if neg then tyMin ty else tyMax ty) ∧
          ∀ neg (a b : Nat), value = .fin neg a b → ∃ q : Nat, RoundsTo x.rmode neg r ((a : ℝ) / b) q ∧ intVal ty code = max (tyMin ty) (min (tyMax ty) (if neg then -(q : ℤ) else q))
      let v := fun (i : Nat) => o.vals.getD i 0
      (∀ t, o.i = .adrn f → s.thr? { team := o.team, tid := n } = some t → t.st ≠ .exited → f.a.toNat + w / 2 ≤ 64 →
        ∃ s' t', exec (.matrixArbitration c) s = .next s' ∧ s'.thr? t.key = some t' ∧ s'.ms = s.ms ∧ s'.teams = s.teams ∧
          (∃ o' ∈ s'.ops, o'.id = o.id ∧ o'.phase = .done (max o.lastTw s.now)) ∧
          RegsOnly t t' ((List.range (w / 2)).map (f.a.toNat + ·)) ∧
          ∀ m col, m < 2 → col < 16 → isD m col (16 * m + col)
            (Machine.sub w (t'.heldV (f.a.toNat + m * (w / 4) + w * col / 64)) (col % (64 / w)))) ∧
      (o.i = .abyp f → f.a.toNat + o.quarter < 32 → 2 * w * (f.c.toNat + 1) ≤ 64 →
        let place := fun (m : Nat) => 1280 * (f.a.toNat + o.quarter) + 64 * (2 * l + m) + 2 * w * f.c.toNat
        ∃ s' tm', exec (.matrixArbitration c) s = .next s' ∧ Served s s' o tm' ∧ tm' = { tm with tiles := tm'.tiles } ∧
          (∀ m col, m < 2 → col < 16 → isD m col (16 * (2 * l + m) + col) (leNat (memRange tm'.tiles (place m + w / 8 * col) (w / 8)))) ∧
          ∀ z, (∀ m, m < 2 → z < place m ∨ place m + 2 * w ≤ z) → memRead tm'.tiles z = memRead tm.tiles z) ∧
      (∀ (st : Nat → State) (code : Nat → Nat → Nat), o.i = .ast f → st 0 = s →
        let els := (List.range 2).flatMap (fun m => if f.men && !(v 0).testBit (row + m) then []
          else (List.range 16).filterMap (fun col => if f.men && !(v 1).testBit (if sub = 6 then col / 4 else col) then none else some (m, col)))
        (∀ m col, m < 2 → col < 16 → isD m col (16 * m + col) (code m col)) →
        (∀ i (h : i < els.length), let el := els[i]
          engWrite (st i) o f.sp ((v (2 + 2 * l) + el.1 * v (3 + 2 * l) + el.2 * (w / 8)) % 2 ^ 64) (leBytes (w / 8) (code el.1 el.2)) = (st (i + 1), none)) →
        ∃ s', exec (.matrixArbitration c) s = .next s' ∧ s' = { st els.length with ops := s'.ops } ∧
          ∃ o' ∈ s'.ops, o'.id = o.id ∧ o'.phase = .done (max o'.lastTw s'.now))) ∧
  (∀ s c o f tm (st mid : Nat → State), nextServed s c .tile = some o → st 0 = s →
      let x := opSlot s o f.slb.toNat
      let k := x.kind
      x.kind ≠ .fp32 →
      let v := fun (i : Nat) => o.vals.getD i 0
      let j := o.prog
      let KT := v 2 % 2 ^ 24
      let k0 := v 2 / 2 ^ 24 % 2 ^ 24 + j * k.depth
      let count := min KT (k0 + k.depth) - k0
      let last := decide (v 2 / 2 ^ 48 % 32 ≤ j)
      let rowAt := fun (ws n : Nat) => if x.splace = 1 then v 0 + n * (KT * k.width / 8 + KT / k.block) else v 0 + n * (KT * ws / 8)
      let scaleAt := fun (ws n : Nat) => if x.splace = 1 then rowAt ws n + KT * ws / 8 else v 1 + n * (KT / k.block)
      let tile := 1280 * (f.b.toNat + j)
      let bytes := k.depth * k.width / 8
      (∀ bs sb : Nat → List Byte, o.i = .tld f → (st k.cols).team? o.team = some tm → Memory.wf tm.tiles = true →
        let ws := if x.xform = 1 then 32 else k.width
        (∀ n, n < k.cols → if count = 0 then st (n + 1) = st n
          else engRead (st n) o f.sp (rowAt ws n + k0 * ws / 8) (count * ws / 8) = (mid n, .ok (bs n)) ∧
            if k.block = 0 then st (n + 1) = mid n
            else engRead (mid n) o f.sp (scaleAt ws n + k0 / k.block) (count / k.block) = (st (n + 1), .ok (sb n))) →
        ∃ s' tm', exec (.engineChunk c .tile) s = .next s' ∧ ChunkDone { st k.cols with teams := s'.teams } s' o (j + 1) last ∧
          s'.team? o.team = some tm' ∧ tm' = { tm with tiles := tm'.tiles } ∧
          (∀ n kk, n < k.cols → kk < k.depth → leNat (memRange tm'.tiles (tile + bytes * n) bytes) / 2 ^ (k.width * kk) % 2 ^ k.width =
            if count ≤ kk then 0
            else if x.xform = 1 then rnd x.fmt x.rmode x.satm
              (draw o.pc.toNat o.cpos (if o.repa then o.repc else 0) o.team.num o.tid x.seed ((j * k.cols + n) * k.depth + kk))
              (xmul (fp32.value (leNat (((bs n).drop (4 * kk)).take 4))) (fp32.value (o.vals.getD (3 + j * k.depth + kk) 0x3F800000)))
            else leNat (bs n) / 2 ^ (k.width * kk) % 2 ^ k.width) ∧
          (k.block ≠ 0 → ∀ n b, n < k.cols → b < k.depth / k.block → (memRead tm'.tiles (tile + 1024 + k.depth / k.block * n + b)).toNat =
            if b < count / k.block then ((sb n).getD b 0).toNat else if x.sfmt = 1 then 0x7F else 0x3C) ∧
          ∀ z, z < tile ∨ tile + 1280 ≤ z → memRead tm'.tiles z = memRead tm.tiles z) ∧
      (o.i = .tst f → s.team? o.team = some tm → Memory.wf tm.tiles = true →
        (∀ n, n < k.cols → if count = 0 then st (n + 1) = st n
          else engWrite (st n) o f.sp (rowAt k.width n + k0 * k.width / 8) (memRange tm.tiles (tile + bytes * n) (count * k.width / 8)) = (mid n, none) ∧
            if k.block = 0 then st (n + 1) = mid n
            else engWrite (mid n) o f.sp (scaleAt k.width n + k0 / k.block) (memRange tm.tiles (tile + 1024 + k.depth / k.block * n) (count / k.block)) =
              (st (n + 1), none)) →
        ∃ s', exec (.engineChunk c .tile) s = .next s' ∧ ChunkDone (st k.cols) s' o (j + 1) last))

/-- cpy and hscan (R203, R243): each takes a command place with what it captures; a count of zero completes at issue, hscan's with all-ones
results. One chunk of a .1d copy inside the scratchpad moves the bytes, and nothing else (R204, R205). What one chunk of a copy moves
(R203 to R205), for every kind and for every pair of spaces: at most 32,768 bytes of a .1d copy or of the present row of a .2d one, at
most 256 elements of a gather or scatter, each where the index that the table then holds puts it; an element outside its space ends the
command. What hscan finds (R243): a chunk compares at most 32 entries with the query; from the nearest of the entries before it come the
nearest of all up to its end, which the last chunk writes to the registers, all ones where there are fewer than k. The engines' paths
(R204, R228, R122): the scratchpad answers at once; a run in memory is read and written sector by sector; a sector's part is read as
memory has it where it is mapped to HBM, sound, and no page of its walk is bad, and a write of one is a version that takes its write time
at its home. -/
def Obligations.CopiesAndScans : Prop :=
  ((∀ s cx f t, let e : FM := cx.fm f
      let vals := [regN s t e.d.toNat, regN s t e.a.toNat, regN s t e.b.toNat, if e.sub ≠ 0 then regN s t (e.b.toNat + 1) else 0]
      Alone s cx (.cpy e) f.g t → (cpyDstScr e = true ∨ cpySrcScr e = true → scratchBytes cx.team.key cx.launch ≠ 0) →
      cpyCheck cx e (vals.getD 0 0) (vals.getD 1 0) (vals.getD 2 0) (vals.getD 3 0) = none →
      (cpyCount e (vals.getD 2 0) ≠ 0 → placesUsed s cx.team.key < 32 →
        ∃ s', exec (.cpy f) s = .next s' ∧ Queued s s' cx (.cpy e) t [] [] vals ∧ s'.teams = s.teams) ∧
      (cpyCount e (vals.getD 2 0) = 0 → ∃ s', exec (.cpy f) s = .next s' ∧ GroupResult s s' cx (fun t t' => t.Moved t' ∧ cx.Past t t'))) ∧
    (∀ s cx f t, TeamWide cx t → let e : FH := cx.fh f
      let n := regN s t e.c.toNat
      Alone s cx (.hscan e) f.g t → behindTeam s cx (.hscan e) = false → n < 2 ^ 32 →
      (n ≠ 0 → regN s t e.a.toNat % 64 = 0 → InReach cx e.sp (regN s t e.a.toNat) (1024 * n) → placesUsed s cx.team.key < 32 →
        ∃ s', exec (.hscan f) s = .next s' ∧ Queued s s' cx (.hscan e) t [hvRes e.b.toNat] [] [regN s t e.a.toNat, n] ∧ s'.teams = (noteEng s cx (.hscan e)).teams) ∧
      (n = 0 → regN s t e.a.toNat % 64 = 0 → (e.sp = true → scratchBytes cx.team.key cx.launch ≠ 0) → e.d.toNat + e.kn.toNat < 64 → t.st ≠ .exited →
        ∃ s' t', exec (.hscan f) s = .next s' ∧ s'.thr? t.key = some t' ∧ s'.ms = s.ms ∧
          ∀ r, t'.heldV r = if e.d.toNat ≤ r ∧ r ≤ e.d.toNat + e.kn.toNat then BitVec.allOnes 64 else t.heldV r)) ∧
    (∀ s c o f tm, nextServed s c .copy = some o → o.i = .cpy f → f.sub = 0 → cpyDstScr f = true → cpySrcScr f = true → o.prog = 0 →
      s.team? o.team = some tm → Memory.wf tm.scr = true →
      let d := o.vals.getD 0 0
      let a := o.vals.getD 1 0
      let n := o.vals.getD 2 0
      0 < n → n ≤ 32768 → d + n ≤ 2 ^ 48 → a + n ≤ 2 ^ 48 → (d + n ≤ a ∨ a + n ≤ d) →
      ∃ s' tm', exec (.engineChunk c .copy) s = .next s' ∧ Served s s' o tm' ∧ tm' = { tm with scr := tm'.scr } ∧
        ∀ x, memRead tm'.scr x = if d ≤ x ∧ x < d + n then memRead tm.scr (a + (x - d)) else memRead tm.scr x)) ∧
  (∀ s c o f t, nextServed s c .copy = some o → o.i = .cpy f →
      let d := o.vals.getD 0 0
      let a := o.vals.getD 1 0
      let lo := o.vals.getD 2 0 % 2 ^ 32
      let n := o.vals.getD 2 0 / 2 ^ 32
      let b1 := o.vals.getD 3 0
      let moves := MovesRun s o (cpySrcScr f) (cpyDstScr f)
      let runs := fun (s1 : State) (prog : Nat) (last : Bool) => ∃ s', exec (.engineChunk c .copy) s = .next s' ∧ ChunkDone s1 s' o prog last
      (f.sub = 0 → let len := min (lo - o.prog) 32768
        moves (a + o.prog) (d + o.prog) len s t → runs t (o.prog + len) (decide (lo ≤ o.prog + len))) ∧
      (f.sub = 1 → let row := o.prog / 2 ^ 32
        let at_ := o.prog % 2 ^ 32
        let len := min (lo - at_) 32768
        let next := if at_ + len < lo then o.prog + len else (row + 1) * 2 ^ 32
        moves (a + row * (b1 % 2 ^ 32) + at_) (d + row * (b1 / 2 ^ 32) + at_) len s t → runs t next (decide (n * 2 ^ 32 ≤ next))) ∧
      (∀ l (st mid : Nat → State) (ix : Nat → List Byte), 2 ≤ f.sub.toNat → f.sub.toNat ≤ 3 → s.launch? o.team.lid = some l → let count := min (n - o.prog) 256
        let scr := if f.sub = 2 then cpySrcScr f else cpyDstScr f
        let place := fun (i : Nat) => (if f.sub = 2 then a else d) + leNat (ix i) * lo
        let inside := fun (i : Nat) => place i + lo ≤ if scr then scratchBytes o.team l else 2 ^ 48
        st 0 = s →
        ((∀ i, i < count → engRead (st i) o false (b1 + 4 * (o.prog + i)) 4 = (mid i, .ok (ix i)) ∧ (mid i).launch? o.team.lid = some l ∧ inside i ∧
            if f.sub = 2 then moves (place i) (d + (o.prog + i) * lo) lo (mid i) (st (i + 1)) else moves (a + (o.prog + i) * lo) (place i) lo (mid i) (st (i + 1))) →
          runs (st count) (o.prog + count) (decide (n ≤ o.prog + count))) ∧
        (0 < count → engRead s o false (b1 + 4 * o.prog) 4 = (mid 0, .ok (ix 0)) → (mid 0).launch? o.team.lid = some l → ¬ inside 0 → place 0 < 2 ^ 64 →
          ∃ s' o', exec (.engineChunk c .copy) s = .next s' ∧ s' = { mid 0 with ops := s'.ops } ∧ o' ∈ s'.ops ∧ o'.id = o.id ∧
            o'.phase = .failed (if scr then 0x12 else 0x10) (place 0) (f.sub ≠ 2)))) ∧
  (∀ s c o f tm (st : Nat → State) (bs : Nat → List Byte) (dist : Nat → Nat), nextServed s c .copy = some o → o.i = .hscan f → s.team? o.team = some tm → Memory.wf tm.hv = true → st 0 = s →
      let n := o.vals.getD 1 0 % 2 ^ 32
      let count := min (n - o.prog) 32
      let k := f.kn.toNat + 1
      (∀ i, i < count → engRead (st i) o f.sp (o.vals.getD 0 0 + 1024 * (o.prog + i)) 1024 = (st (i + 1), .ok (bs i)) ∧
        dist (o.prog + i) = bytesDist tm (bs i) f.b.toNat ∧ (bs i).length = 1024) →
      NearestK dist o.prog k o.best →
      ∃ s' best, exec (.engineChunk c .copy) s = .next s' ∧ NearestK dist (o.prog + count) k best ∧ s'.ms = (st count).ms ∧ s'.teams = (st count).teams ∧
        (o.prog + count < n → s'.threads = (st count).threads ∧ ∃ o' ∈ s'.ops, o'.id = o.id ∧ o'.prog = o.prog + count ∧ o'.best = best) ∧
        (n ≤ o.prog + count → (∃ o' ∈ s'.ops, o'.id = o.id ∧ o'.phase = .done (max o'.lastTw s'.now)) ∧
          ∀ t, (st count).thr? (opThread o) = some t → t.st ≠ .exited → f.d.toNat + k ≤ 64 → ∃ t', s'.thr? t.key = some t' ∧
            RegsOnly t t' ((List.range k).map (f.d.toNat + ·)) ∧ ∀ r, r < k → (t'.heldV (f.d.toNat + r)).toNat = nearWord best r)) ∧
  ((∀ s o a len tm, s.team? o.team = some tm → a + len ≤ 2 ^ 48 → engRead s o true a len = (s, .ok ((List.range len).map (fun i => memRead tm.scr (a + i))))) ∧
    (∀ s o a bs tm, s.team? o.team = some tm → a + bs.length ≤ 2 ^ 48 → Memory.wf tm.scr = true → ∃ s' tm', engWrite s o true a bs = (s', none) ∧
      s' = { s with teams := s'.teams } ∧ s'.team? o.team = some tm' ∧ tm' = { tm with scr := tm'.scr } ∧
      ∀ z, memRead tm'.scr z = if a ≤ z ∧ z < a + bs.length then bs.getD (z - a) 0 else memRead tm.scr z) ∧
    (∀ s o a n m, a + n + m ≤ 2 ^ 48 → n = 64 - a % 64 → engRead s o false a (n + m) =
      match engRead s o false a n with
      | (t, .error e) => (t, .error e)
      | (t, .ok bs) => ((engRead t o false (a + n) m).1, (engRead t o false (a + n) m).2.map (bs ++ ·))) ∧
    (∀ s o a bs cs, a + bs.length + cs.length ≤ 2 ^ 48 → bs.length = 64 - a % 64 → engWrite s o false a (bs ++ cs) =
      match engWrite s o false a bs with
      | (t, some e) => (t, some e)
      | (t, none) => engWrite t o false (a + bs.length) cs) ∧
    (∀ s o a len x, 0 < len → a % 64 + len ≤ 64 → a < 2 ^ 48 → engLocate (engWay s o a false) o a false = .ok x → apertureDpa x.dpa = false →
      s.ms.badSymbols = [] → let d := servedDpa (dieOfCluster o.cluster) x.dpa x.repl
      anyPoison s d len = false →
      ∃ s', engRead s o false a len = (s', .ok ((List.range len).map (fun i => memRead s.ms.mem (d + i)))) ∧ s'.ms.mem = s.ms.mem ∧
        s'.ms.versions = s.ms.versions ∧ s'.threads = s.threads ∧ s'.ops = s.ops) ∧
    (∀ s o a bs x, bs ≠ [] → a % 64 + bs.length ≤ 64 → a < 2 ^ 48 → engLocate (engWay s o a true) o a true = .ok x → apertureDpa x.dpa = false → x.repl = false →
      s.ms.badSymbols = [] → s.ms.poison = [] → ∃ s' v, engWrite s o false a bs = (s', none) ∧ s'.ms.versions = s.ms.versions ++ [v] ∧
        v.cells = cellsAt x.dpa bs ∧ v.tw = max (s.home (x.dpa / 256)).lmax (max ((s.home (x.dpa / 256)).tlast + 1) (s.now + 4)) ∧
        s'.ms.mem = s.ms.mem ∧ s'.threads = s.threads ∧
        s'.ops = s.ops.map (fun p => if p.id = o.id then { p with lastTw := max p.lastTw v.tw } else p)))

/-- A command completes when its last write time has passed, and the flags it counts fall (R127, R139); one that ended raises copy-fault or
engine-fault for its thread, which falls due, with the cause in DETAIL (R205, R222), once the write times of what it wrote have passed.
The current-step limiter (R261): windows begin at multiples of 64 ns, and an entry that would start its engine once the die has had NENG
starts in the window is refused, keeping its place. -/
def Obligations.EngineCompletion : Prop :=
  (∀ s id o, s.op? id = some o → o.owners = [o.tid] → ∀ t, s.thr? (opThread o) = some t →
      let ended := fun (s' : State) => s'.ms = s.ms ∧ s'.teams = s.teams ∧ s'.ops = s.ops.filter (fun x => x.id ≠ id) ∧
        ∃ t', s'.thr? (opThread o) = some t' ∧ ∀ n, n < 12 → t'.flag n = t.flag n - if o.flag = some n then 1 else 0
      (∀ tw, o.phase = .done tw → tw ≤ s.now → ∃ s', exec (.engineCommandComplete id) s = .next s' ∧ ended s') ∧
      (∀ tw, o.phase = .done tw → s.now < tw → exec (.engineCommandComplete id) s = .next s) ∧
      (∀ detail addr wr, o.phase = .failed detail addr wr → s.now < o.lastTw → exec (.engineCommandComplete id) s = .next s) ∧
      (∀ detail addr wr, o.phase = .failed detail addr wr → o.lastTw ≤ s.now → t.st ≠ .exited → ∃ s' t', exec (.engineCommandComplete id) s = .next s' ∧ ended s' ∧
        s'.thr? (opThread o) = some t' ∧ ∃ i ∈ t'.due, i.detail = detail ∧ i.addr = addr ∧ i.wr = wr ∧
          i.cause = match o.i with
            | .cpy _ => 0x19
            | _ => 0x1A)) ∧
  ((∀ s d, d < 2 → refusedEngines s d = [] → ∃ s', exec (.limiterWindow d) s = .next s' ∧ (s'.die d).winStart = s.now / 64 * 64 ∧
      (s'.die d).winStarts = (if (s.die d).winStart = s.now / 64 * 64 then (s.die d).winStarts else 0) ∧ s' = { s with dies := s'.dies }) ∧
    (∀ s c o f, c < 384 → chooseEntry s c = some o → o.i = .mma f → isStart s c = true →
      (s.die (dieOfCluster c)).winStart = s.now / 64 * 64 → (s.die (dieOfCluster c)).neng ≤ (s.die (dieOfCluster c)).winStarts →
      ∃ s', exec (.matrixArbitration c) s = .next s' ∧ s'.ops = s.ops ∧ s'.teams = s.teams ∧ s'.threads = s.threads ∧
        (s'.cluster c).refusedAt = (s.cluster c).refusedAt.or (some s.now)))

/-- The issue slot of a core (R33, R36, R259): occupied, nothing is chosen; free, with one thread ready at a marked, legal clause within its
budget, that thread forms the group; a group between repeats past 64 issue cycles leaves it to an aged thread, keeping its place. Groups
of several members (R33, R34, R37, R38), where every thread there is stands ready on one core at one place: team, clause, position and REP
progress. A free clause takes the up to 32 ready longest, ties in ascending TID; an aligned clause whole sets, the one of the longest-
waiting member first, all of them where they are 32 or fewer; members stand in ascending TID. A thread of a set another member of which is
elsewhere enters Aligned wait, and no group forms. -/
def Obligations.GroupSelection : Prop :=
  ((∀ s c g, (s.core c).slot = some g → exec (.bucketSelection c) s = .next s) ∧
    (∀ s t h ws, s.threads = [t] → (s.core (coreOf t)).slot = none → ready s t = true → s.ms.badSymbols = [] →
      fetchClause s (coreOf t) t.vd t.pc = .ok (h :: ws) → clauseBad (slotsOf s t) (h :: ws) = false → hAlign h = 0 → t.cpos < hCount h →
      (∀ n ∈ lineMask (slotsOf s t) (h :: ws), n ≤ t.budget ∧ lineHeld t n = true) →
      ∃ s' t', exec (.bucketSelection (coreOf t)) s = .next s' ∧
        (s'.core (coreOf t)).slot = some { team := t.key.team, members := [t.key.tid], h := t.pc, words := h :: ws, pos := t.cpos, cycles := 0 } ∧
        s'.thr? t.key = some t' ∧ t'.st = .runnable ∧ t'.pc = t.pc ∧ t'.cpos = t.cpos ∧ t'.since = none ∧ t'.aged = none ∧
        (∀ r, t'.heldV r = t.heldV r) ∧ t'.pred = t.pred ∧ t'.flags = t.flags ∧ s'.ms.mem = s.ms.mem ∧ ∀ c, c ≠ coreOf t → s'.core c = s.core c) ∧
    (∀ s c g t u, (s.core c).slot = some g → 64 ≤ g.cycles → t.key.tid ∈ g.members → t.key.team = g.team → s.thr? t.key = some t → t.repActive = true →
      t.repc ≠ 0 → u ∈ s.threads → coreOf u = c → u.aged.isSome = true → ready s u = true →
      ∃ s', exec (.groupSuspend c) s = .next s' ∧ (s'.core c).slot = none ∧ (∀ d, d ≠ c → s'.core d = s.core d) ∧ s' = { s with cores := s'.cores })) ∧
  (
    let older := fun (t u : Thread) => decide (readySince t < readySince u) || (readySince t = readySince u && decide (t.key.tid < u.key.tid))
    let issued := fun (s s' : State) (c : Nat) (k : TeamKey) (p : Word) (q : Nat) (ws : List Word) (ms : List Nat) =>
      (s'.core c).slot = some { team := k, members := ms, h := p, words := ws, pos := q, cycles := 0 } ∧ ms.Pairwise (· < ·) ∧
      (∀ n ∈ ms, ∃ t ∈ s.threads, t.key.tid = n) ∧ s'.ms.mem = s.ms.mem ∧
      ∀ t ∈ s.threads, ∃ t', s'.thr? t.key = some t' ∧ t'.st = .runnable ∧ t'.pc = t.pc ∧ t'.cpos = t.cpos ∧ (∀ r, t'.heldV r = t.heldV r) ∧
        t'.pred = t.pred ∧ t'.flags = t.flags ∧ t'.since = if t.key.tid ∈ ms then none else t.since
    (∀ s c k v p q rep repc h ws, (s.core c).slot = none → s.threads ≠ [] → s.threads.Pairwise (fun t u => t.key.tid < u.key.tid) → s.ms.badSymbols = [] →
      (∀ t ∈ s.threads, t.key.team = k ∧ t.vd = v ∧ coreOf t = c ∧ t.pc = p ∧ t.cpos = q ∧ t.repActive = rep ∧ (rep = true → t.repc = repc) ∧ t.detached = false ∧
        t.st = .runnable ∧ ready s t = true ∧ t.since.isSome = true ∧ t.aged = none ∧ clauseBad (slotsOf s t) (h :: ws) = false ∧
        ∀ n ∈ lineMask (slotsOf s t) (h :: ws), n ≤ t.budget ∧ lineHeld t n = true) →
      fetchClause s c v p = .ok (h :: ws) → q < hCount h →
      ∃ s' ms, exec (.bucketSelection c) s = .next s' ∧ issued s s' c k p q (h :: ws) ms ∧
        (hAlign h = 0 → ∀ t ∈ s.threads, t.key.tid ∈ ms ↔ (s.threads.filter (older · t)).length < 32) ∧
        (hAlign h ≠ 0 → let set := fun (t : Thread) => t.key.tid / setSize (hAlign h)
          ms.length ≤ 32 ∧ (s.threads.length ≤ 32 → ∀ t ∈ s.threads, t.key.tid ∈ ms) ∧
          (∀ t ∈ s.threads, ∀ u ∈ s.threads, t.key.tid ∈ ms → set u = set t → u.key.tid ∈ ms) ∧
          ∀ t ∈ s.threads, (∀ u ∈ s.threads, readySince t < readySince u ∨ (readySince t = readySince u ∧ set t ≤ set u)) → t.key.tid ∈ ms)) ∧
    (∀ s t u h ws, s.threads = [t, u] → t.key ≠ u.key → t.key.team = u.key.team → (s.core (coreOf t)).slot = none → s.ms.badSymbols = [] → ready s t = true →
      t.detached = false → u.detached = false → u.st ≠ .exited → candidate s u = false → t.aged = none →
      fetchClause s (coreOf t) t.vd t.pc = .ok (h :: ws) → clauseBad (slotsOf s t) (h :: ws) = false → hAlign h ≠ 0 → t.cpos < hCount h →
      t.key.tid / setSize (hAlign h) = u.key.tid / setSize (hAlign h) → (∀ n ∈ lineMask (slotsOf s t) (h :: ws), n ≤ t.budget ∧ lineHeld t n = true) →
      ∃ s' t', exec (.bucketSelection (coreOf t)) s = .next s' ∧ (s'.core (coreOf t)).slot = none ∧ s'.thr? t.key = some t' ∧ t'.st = .alignedWait ∧
        t'.pc = t.pc ∧ t'.cpos = t.cpos ∧ (∀ r, t'.heldV r = t.heldV r) ∧ s'.ms = s.ms))

/-- The register cache (R56, R73, R75, R258). A thread never activated is created with a dirty control line and unformed vector lines, zeros
being stored to lines 9 to 15 of its slot; a created one has its control line fetched; how long each has waited is noted (`stampThread`).
A vector line arrives as memory holds it, or as the write-back of it that is in progress; a write-back, unless an earlier one to its bytes
is still to be made, takes a write time at its home, and ends once that has come. `stampThread`, and that the wait of a non-resident
thread is measured so, are the model's choice (log entry 69). -/
def Obligations.RegisterCache : Prop :=
  (∀ s t l, s.threads = [t] → wantsActivation s (coreOf t) t = true → s.launch? t.key.team.lid = some l → zerosBusy s t = false →
    let u := stampThread s t
    (t.created = false → ∃ s' t' w, exec (.threadActivation (coreOf t)) s = .next s' ∧ s'.thr? t.key = some t' ∧ t' = { u with created := true, lines := t'.lines } ∧
      vget t'.lines 0 .absent = .dirty ∧ (∀ n, 1 ≤ n → n ≤ 8 → vget t'.lines n .absent = if n ≤ t.budget then .unformed else .absent) ∧
      s'.ms.wbs = s.ms.wbs ++ [w] ∧ w.gva = slotAddr l t.key + 576 ∧ w.bytes = List.replicate 448 0 ∧ w.thr = t.key) ∧
    (t.created = true → ∃ s', exec (.threadActivation (coreOf t)) s = .next s' ∧
      OneThread s s' t.key { u with lines := vset t.lines 0 .fetching })) ∧
  (∀ s k t l n, s.thr? k = some t → s.launch? k.team.lid = some l → 1 ≤ n → n ≤ 8 → vget t.lines n .absent = .fetching →
    let mine := s.ms.wbs.filter (fun w => w.thr = k ∧ w.line = n)
    let arrives := fun (w : Nat → Word) => ∃ s' t', exec (.contextLineFetchComplete k n) s = .next s' ∧ OneThread { s with ms := s'.ms } s' k t' ∧
      s'.ms.mem = s.ms.mem ∧ s'.ms.versions = s.ms.versions ∧ vget t'.lines n .absent = .clean ∧ (∀ j, j < 8 → t'.heldV (8 * n - 8 + j) = w j) ∧
      (∀ r, r / 8 + 1 ≠ n → t'.heldV r = t.heldV r) ∧ t'.pc = t.pc ∧ t'.cpos = t.cpos ∧ t'.pred = t.pred ∧ t'.flags = t.flags
    (∀ x, mine = [] → Machine.translate s (.core (coreOf t)) t.vd (slotAddr l k + 64 * n) .read = .ok x → hbmDpa x.dpa = true → homeHolds s x.dpa = false →
      s.ms.badSymbols = [] → s.poisoned x.dpa = false → arrives (fun j => memWord s.ms.mem (x.dpa + 8 * j))) ∧
    (∀ w, mine = [w] → arrives (fun j => BitVec.ofNat 64 (leNat ((w.bytes.drop (8 * j)).take 8))))) ∧
  (∀ s id w x, s.ms.wbs.find? (fun w => w.id = id) = some w → w.tw = 0 → s.ms.held = [] → writesAfter s w = false → s.ms.badSymbols = [] →
    Machine.translate s (.cluster w.cluster) w.vd w.gva .write = .ok x → hbmDpa x.dpa = true → writeHolds s w.vd x.dpa x.repl = false →
    ∃ s' v, exec (.victimWritebackComplete id) s = .next s' ∧
      s'.ms.versions = s.ms.versions ++ [v] ∧ v.cells = bothCopies x.repl (cellsAt x.dpa w.bytes) ∧ s.now < v.tw ∧
      ∃ w', s'.ms.wbs.find? (fun w => w.id = id) = some w' ∧ w' = { w with tw := v.tw }) ∧
  (∀ s id w, s.ms.wbs.find? (fun w => w.id = id) = some w → w.tw ≠ 0 → w.tw ≤ s.now → ∃ s', exec (.victimWritebackComplete id) s = .next s' ∧
    s' = { s with ms := { s.ms with wbs := s'.ms.wbs } } ∧ ∀ v, v ∈ s'.ms.wbs ↔ v ∈ s.ms.wbs ∧ v.id ≠ id)

/-- A deferred trap is taken where its thread stands between clauses (R330); in a team stalled for good every waiting thread raises the team-
stall trap (R41). The debugger (R340, R341): a halt marks every thread of the teams it names but exited and halted ones; one that may halt
is Halted, its registers kept, leaves the register cache and posts its record; a resume makes halted threads Runnable. That a team number
names the launched and the spawned team of that number is the model's reading (log entry 43). -/
def Obligations.DeferredTrapsAndHalts : Prop :=
  ((∀ s k t i, s.thr? k = some t → TrapsNow s t → t.due = [i] → inSlot s k = false → t.haltReq = false →
      ∃ s' t', exec (.deferredTrap k) s = .next s' ∧ s'.thr? k = some t' ∧
        InHandler s k (atPoint t i) t t' ∧ t'.due = [] ∧ (∀ k', k' ≠ k → s'.thr? k' = s.thr? k') ∧ s'.ms = s.ms) ∧
    (∀ s k, stalled s k = true → ((s.members k).map (·.key)).Nodup → (∀ t ∈ s.members k, TrapsNow s t ∧ s.thr? t.key = some t) →
      ∃ s', exec (.teamStallDetect k) s = .next s' ∧ s'.ms = s.ms ∧ ∀ t ∈ s.members k, ∃ t', s'.thr? t.key = some t' ∧
        InHandler s t.key { cause := 0x0C, detail := 0, addr := 0, wr := false, src := 0, rp := t.pc, rc := t.cpos, repa := t.repActive, repc := t.repc } t t') ∧
    (∀ s k, stalled s k = false → exec (.teamStallDetect k) s = .next s)) ∧
  ((∀ s v i mine, (i, mine) ∈ [(Instr.debugHaltLaunch v, targeted s v)] ∨ (∃ n, (i, mine) = (Instr.debugHaltTeam v n, fun k => decide (k.num = n) && targeted s v k)) →
      debugBusy s v = false → ∃ s', exec i s = .next s' ∧ s'.ms = s.ms ∧
        s'.threads = s.threads.map (fun t => if mine t.key.team = true ∧ t.st ≠ .exited ∧ t.st ≠ .halted then { t with haltReq := true } else t) ∧
        debugBusy s' v = s'.threads.any (fun t => mine t.key.team && halting t)) ∧
    (∀ s v i mine, (i, mine) ∈ [(Instr.debugResumeLaunch v, targeted s v)] ∨ (∃ n, (i, mine) = (Instr.debugResumeTeam v n, fun k => decide (k.num = n) && targeted s v k)) →
      debugBusy s v = false → ∃ s', exec i s = .next s' ∧ s'.ms = s.ms ∧ ∀ t, s.thr? t.key = some t → mine t.key.team = true → t.st = .halted → t.haltReq = false →
        t.detached = false → ∃ t', s'.thr? t.key = some t' ∧ t'.st = .runnable ∧ t'.pc = t.pc ∧ t'.cpos = t.cpos ∧ ∀ r, t'.heldV r = t.heldV r) ∧
    (∀ s v team, debugBusy s v = true → exec (.debugHaltTeam v team) s = .next s ∧ exec (.debugHaltLaunch v) s = .next s ∧
      exec (.debugResumeTeam v team) s = .next s ∧ exec (.debugResumeLaunch v) s = .next s) ∧
    (∀ s k t l, s.power = .on → s.thr? k = some t → mayHalt s t = true → t.brkCode = none → s.launch? k.team.lid = some l →
      bits (vget (s.vd t.vd).dbg 0 0) 63 12 ≠ 0 → bits (vget (s.vd t.vd).dbg 2 0) 31 0 = bits (vget (s.vd t.vd).dbg 3 0) 31 0 →
      ∃ s' t', exec (.threadHaltEntry k) s = .next s' ∧ s'.thr? k = some t' ∧ t'.st = .halted ∧ t'.haltReq = false ∧ heldLines t' = [] ∧ t'.pc = t.pc ∧
        t'.cpos = t.cpos ∧ (∀ r, t'.heldV r = t.heldV r) ∧ t'.pred = t.pred ∧ t'.flags = t.flags ∧ s'.mg.ring = s.mg.ring ++ [(t.vd,
          mkRec { cause := 0x22, detail := 0, addr := 0, wr := false, src := 0, rp := t.pc, rc := t.cpos, repa := t.repActive, repc := t.repc } false k.tid k.team.num)]))

/-- What serves a fault lets go what it held (R271, R272, R333, R334): a member Parked under a released record goes on, in the Barrier wait it
stood in where it stood in one, and will retry; declared unmappable, its access ends with the translation-abort trap, DETAIL 2. A new
FQTAIL beyond FQHEAD is ignored; one whose records a home in time fault holds waits, the tail as it was (R351). Invalidations (R271,
R291): TINV drops the device's cached translations of a page (those of a 64 KiB group it touches whole), or all of them, and is busy until
the accesses made through them have performed and the homes serve what admitted sets record again; one more meanwhile sets its overflow
bit. S2INV drops those of a guest-physical range. -/
def Obligations.FaultsAndInvalidations : Prop :=
  ((∀ s id h k t, s.ms.held = [h] → h.id = id → h.what = .member k → peleloReleases s h = true → s.thr? k = some t → t.st = .parked →
      (∃ s', exec (.stage2FaultRelease id true) s = .next s' ∧ s'.ms = { s.ms with held := [] } ∧ OneThread { s with ms := s'.ms } s' k
        { t with st := if t.barrier.isSome then .barrierWait else if t.haltReq then .halted else .runnable, retrying := true,
                 lines := touched t.lines }) ∧
      (TrapsNow s t → ∃ s' t', exec (.stage2FaultRelease id false) s = .next s' ∧ s'.ms = { s.ms with held := [] } ∧ s'.thr? k = some t' ∧
        InHandler s k { h.info with cause := 0x1B, detail := 2 } t t')) ∧
    (∀ s v x, let d := s.vd v
      let new := BitVec.ofNat 32 (bits x 31 0)
      (d.fqhead - d.fqtail).toNat < (new - d.fqtail).toNat → exec (.fqtail v x) s = .next s) ∧
    (∀ s v x, let d := s.vd v
      let new := BitVec.ofNat 32 (bits x 31 0)
      d.state ≠ 0 → (new - d.fqtail).toNat ≤ (d.fqhead - d.fqtail).toNat → (releasedBy s v new).any (fun p => abtHeld s v p.2) = true →
      ∃ s', exec (.fqtail v x) s = .next s' ∧ s' = { s with vds := s'.vds } ∧ (s'.vd v).fqtail = d.fqtail ∧ (s'.vd v).fqtailDue = some new) ∧
    (∀ s v x h i k t, let d := s.vd v
      let new := BitVec.ofNat 32 (bits x 31 0)
      abtHeld s v i = false → s.ms.badSymbols = [] →
      d.state ≠ 0 → (new - d.fqtail).toNat ≤ (d.fqhead - d.fqtail).toNat → d.fqWait = [] → s.ms.held = [h] → h.vd = v → h.index = some i →
      (BitVec.ofNat 32 i - d.fqtail).toNat < (new - d.fqtail).toNat → abtAt s v i = false → h.what = .member k → s.thr? k = some t → t.st = .parked →
      ∃ s', exec (.fqtail v x) s = .next s' ∧ s'.ms = { s.ms with held := [] } ∧ (s'.vd v).fqtail = new ∧ (s'.vd v).fqhead = d.fqhead ∧
        (∀ u, u ≠ v → s'.vd u = s.vd u) ∧ OneThread { s with ms := s'.ms, vds := s'.vds } s' k
          { t with st := if t.barrier.isSome then .barrierWait else if t.haltReq then .halted else .runnable, retrying := true,
                   lines := touched t.lines })) ∧
  ((∀ s v x, (s.vd v).state ≠ 0 → (s.vd v).tinvBusy = false → bits x 63 48 = 0 → bits x 11 8 = 0 → bits x 5 0 = 0 → bits x 7 6 < 2 →
      let page := if bits x 7 6 = 0 then some (bits x 47 12) else none
      ∃ s', exec (.tinv v x) s = .next s' ∧ (s'.vd v).tinvBusy = true ∧ (s'.vd v).tinvPage = page ∧
        (∀ e, e ∈ s'.ms.tlb ↔ e ∈ s.ms.tlb ∧ ¬(e.vd = v ∧ drops1 page e = true)) ∧
        s'.ms = { s.ms with tlb := s'.ms.tlb } ∧ s'.threads = s.threads ∧ ∀ u, u ≠ v → s'.vd u = s.vd u) ∧
    (∀ s v x, (s.vd v).state ≠ 0 → (s.vd v).tinvBusy = true → ∃ s', exec (.tinv v x) s = .next s' ∧ (s'.vd v).tinvOvf = true ∧ s'.ms = s.ms) ∧
    (∀ s v, (s.vd v).tinvBusy = true → Performed s v → s.ms.badSymbols = [] → againHeld s v (fun page _ => coversPage (s.vd v).tinvPage page) = false → ∃ s', exec (.tinvComplete v) s = .next s' ∧
      (s'.vd v).tinvBusy = false ∧ s'.ms = s.ms ∧ s'.threads = s.threads ∧ ∀ u, u ≠ v → s'.vd u = s.vd u) ∧
    (∀ s v base len, InTurn s v → s.mg.ready = true → 1 ≤ (s.vd v).state → (s.vd v).state ≤ 6 → Performed s v → s.ms.badSymbols = [] →
      againHeld s v (fun _ gpage => inRange 4096 base.toNat len.toNat gpage) = false →
      ∃ s', exec (.s2inv v base len) s = .next s' ∧ s'.mg.done = s.mg.done ++ [{ opc := 0x0D, vd := v, status := 0 }] ∧
        (∀ e, e ∈ s'.ms.tlb ↔ e ∈ s.ms.tlb ∧ ¬(e.vd = v ∧ drops2 base.toNat len.toNat e = true)) ∧
        s'.ms = { s.ms with tlb := s'.ms.tlb } ∧ s'.threads = s.threads))

/-- Requests for plots (R285): an eviction of a resident plot within quota, those on their way counted (of Pelelo's own too: log entry 90),
joins the tail of the queue; a promotion of a tier-held one within quota is pending, and is given a zeroed frame of its half where one is
free and none waits before it; one of a resident plot is done at once. A guest-physical address with no plot is refused. An eviction and a
promotion run their course (R285, R352, R353): the plot at the head of the queue becomes tier-held, its translations dropped; its
container written, the frame is free; promoted, the frame allocated to it holds its bytes. A plot whose container and duplicate cannot be
read is lost. A container's place is the model's choice (log entry 27), as is what a plot's record holds and where it stands (log entry
73). -/
def Obligations.Tiering : Prop :=
  ((∀ s v x, (s.vd v).state ≠ 0 → bits x 1 0 = 1 → plotAt s v (bits x 47 16 * 65536) = none →
      ∃ s', exec (.tierreqEvict v x) s = .next s' ∧ (s'.vd v).tierst = 2 ∧ s'.mg = s.mg ∧ s'.ms = s.ms) ∧
    (∀ s v x h p, (s.vd v).state ≠ 0 → plotAt s v (bits x 47 16 * 65536) = some (h, p) → look h s.mg.plots = some p →
      (bits x 1 0 = 1 → p.state = 0 → pinned s p = false →
          (p.shared = false → ∀ m ∈ p.mappers, bits ((s.vd m.1).word 6) 63 32 + leaving s m.1 + 1 ≤ bits ((s.vd m.1).word 5) 63 32) →
        ∃ s' p', exec (.tierreqEvict v x) s = .next s' ∧ (s'.vd v).tierst = 1 ∧ (s'.vd v).tierreq = some (h, true) ∧
          look h s'.mg.plots = some p' ∧ p'.state = 1 ∧ p'.frame = p.frame ∧ s'.mg.evictions = s.mg.evictions.filter (· ≠ h) ++ [h] ∧ s'.ms = s.ms) ∧
      (bits x 1 0 = 1 → pinned s p = true → ∃ s', exec (.tierreqEvict v x) s = .next s' ∧ (s'.vd v).tierst = 2 ∧ s'.mg = s.mg ∧ s'.ms = s.ms) ∧
      (bits x 1 0 = 2 → p.state = 0 → ∃ s', exec (.tierreqPromote v x) s = .next s' ∧ (s'.vd v).tierst = 0 ∧ s'.mg = s.mg ∧ s'.ms = s.ms) ∧
      (bits x 1 0 = 2 → p.state = 3 → p.remote = false →
        (p.shared = false → bits ((s.vd v).word 6) 31 0 + promoting s v + 1 ≤ bits ((s.vd v).word 5) 31 0) →
        let half := halfOfFrame p.frame
        ∃ s' p', exec (.tierreqPromote v x) s = .next s' ∧
          (s'.vd v).tierst = 1 ∧ (s'.vd v).tierreq = some (h, false) ∧ look h s'.mg.plots = some p' ∧ p'.state = 4 ∧ p'.askedAt = s.now ∧
          (freeFrame s half = none → p'.alloc = false ∧ s'.mg.freeFrames = s.mg.freeFrames ∧ s'.ms = s.ms) ∧
          (∀ f, frameWaiters s half = [] → freeFrame s half = some f → f < 2 ^ 36 → p'.alloc = true ∧ p'.frame = f ∧
            s'.mg.freeFrames = s.mg.freeFrames.erase f ∧
            ((∀ m ∈ p.mappers, (s.vd m.1).dben = false) → Memory.wf s.ms.mem = true → ∀ a,
              memRead s'.ms.mem a = if a / 65536 = f then 0 else memRead s.ms.mem a)))) ∧
    (∀ s h p, look h s.mg.plots = some p → p.state = 0 → pinned s p = false →
      (p.shared = false → ∀ m ∈ p.mappers, bits ((s.vd m.1).word 6) 63 32 + leaving s m.1 + 1 ≤ bits ((s.vd m.1).word 5) 63 32) →
      ∃ s' p', exec (.peleloPlotRequest h .evict) s = .next s' ∧
      look h s'.mg.plots = some p' ∧ p'.state = 1 ∧ s'.mg.evictions = s.mg.evictions.filter (· ≠ h) ++ [h] ∧ s'.vds = s.vds ∧ s'.ms = s.ms)) ∧
  ((∀ s h p rest, s.power = .on → s.mg.evictions = h :: rest → look h s.mg.plots = some p → (∀ q ∈ s.mg.plots, q.2.state ≠ 2) → p.state ≤ 1 →
      p.notBefore ≤ s.now → p.requesters = [] → p.waiters = [] → frameHeld s p.frame = false → s.ms.badSymbols = [] →
      poisonIn s p.base 65536 = false → pinned s p = false → leavesHeld s p = false →
      ∃ s' p', exec (.evictionStart h) s = .next s' ∧ look h s'.mg.plots = some p' ∧ p'.state = 2 ∧ p'.frame = p.frame ∧ h ∉ s'.mg.evictions ∧
        (∀ e, e ∈ s'.ms.tlb ↔ e ∈ s.ms.tlb ∧ e.dpage / 16 ≠ p.frame) ∧ s'.ms.versions = s.ms.versions ∧
        ∀ v leaf, p.mappers = [(v, leaf)] → h < 2 ^ 40 → Memory.wf s.ms.mem = true → ∀ i, i < 16 → s.poisoned (leaf + 8 * i) = false →
          bits (s'.dpaWord (leaf + 8 * i)) 1 0 = 3 ∧ bits (s'.dpaWord (leaf + 8 * i)) 51 12 = h ∧
          bits (s'.dpaWord (leaf + 8 * i)) 11 2 = bits (s.dpaWord (leaf + 8 * i)) 11 2 ∧ bits (s'.dpaWord (leaf + 8 * i)) 63 52 = bits (s.dpaWord (leaf + 8 * i)) 63 52) ∧
    (∀ s h p a, s.power = .on → look h s.mg.plots = some p → p.state = 2 → p.withdrawn = false → leavesHeld s p = false → frameBusy s p.frame = false → frameHeld s p.frame = false →
      s.ms.badSymbols = [] → poisonIn s p.base 65536 = false → containerPlace s h = some a → a < 2 ^ 64 → ∃ s' p',
      exec (.containerSealed h false) s = .next s' ∧ look h s'.mg.plots = some p' ∧ p'.state = 3 ∧ p'.frame = p.frame ∧ p'.taddr = a ∧
        s'.mg.tier = memSplice s.mg.tier a (padded64 (encodeContainer h (memRange s.ms.mem p.base 65536))) ∧
        s'.mg.freeFrames = s.mg.freeFrames ++ [p.frame] ∧ s'.ms = s.ms) ∧
    (∀ s h p bytes, Fetching s h p → p.evq = false → readContainer s p.taddr = some bytes → bytes.length = 65536 → Memory.wf s.ms.mem = true →
      (∀ m ∈ p.mappers, m.2 + 128 ≤ p.frame * 65536 ∨ (p.frame + 1) * 65536 ≤ m.2) →
      ∃ s' p', exec (.promotionComplete { plot := h, bad := 0, spoilt := [] }) s = .next s' ∧ look h s'.mg.plots = some p' ∧ p'.state = 0 ∧ p'.frame = p.frame ∧ p'.alloc = false ∧
        s'.mg.freeFrames = s.mg.freeFrames ∧ ∀ j, j < 65536 → memRead s'.ms.mem (p.frame * 65536 + j) = bytes.getD j 0) ∧
    (∀ s h p, Fetching s h p → s.ms.badSymbols = [] → readContainer s p.taddr = none → (readDuplicate s h).2 = none →
      ∃ s' p', exec (.promotionComplete { plot := h, bad := 0, spoilt := [] }) s = .next s' ∧ look h s'.mg.plots = some p' ∧ p'.state = 5 ∧ p'.alloc = false ∧ s'.ms = s.ms ∧
        s'.mg.freeFrames = s.mg.freeFrames ++ [p.frame]))

/-- Kicks (R248 to R251). A kick to an existing queue whose line is free waits to have its record read, a core's until its IOD cycle is over;
a host's one to a draining or killed device, to a full queue, or with reserved bits set is dropped with its cause. A record that passes
every check joins its queue and is counted. A head record starts (R252, R253): a dependence is satisfied once its counter is high enough,
and a startable record of a running device, with no must-save list, starts. -/
def Obligations.Launching : Prop :=
  ((∀ s v j x, s.power = .on → s.ms.badSymbols = [] → queueExists (s.vd v) j = true → ((s.vd v).queue j).kicks = [] → let q := (s.vd v).queue j
      (∃ s', exec (.kick v j { word := x, core := true }) s = .next s' ∧ s'.launches = s.launches ∧ s'.ms = s.ms ∧ (∀ i, i ≠ j → (s'.vd v).queue i = (s.vd v).queue i) ∧
        (s'.vd v).queue j = { q with kicks := [{ addr := x, core := true, cycle := s.now }] }) ∧
      ∃ s', exec (.kick v j { word := x, core := false }) s = .next s' ∧ s'.launches = s.launches ∧ s'.ms = s.ms ∧ (∀ i, i ≠ j → (s'.vd v).queue i = (s.vd v).queue i) ∧
        let q' := (s'.vd v).queue j
        q'.pend = q.pend ∧ q'.accepted = q.accepted ∧
        if kicksRefused (s.vd v) then q'.kicks = [] ∧ q'.cause = 0x0C ∧ q'.err = true
        else if 64 ≤ q.pend.length then q'.kicks = [] ∧ q'.cause = 0x01 ∧ q'.err = true
        else if bits x 7 0 ≠ 0 ∨ bits x 63 48 ≠ 0 then q'.kicks = [] ∧ q'.cause = 0x02 ∧ q'.err = true ∧ q'.qrej = BitVec.ofNat 64 (bits x 47 8 * 256)
        else q' = { q with kicks := [{ addr := x, core := false, cycle := s.now }] }) ∧
    (∀ s v j k m, let x := k.addr
      s.power = .on → s.ms.badSymbols = [] → queueExists (s.vd v) j = true → let q := (s.vd v).queue j
      q.kicks = [k] → (k.core = true → k.cycle ≠ s.now) → isHeld s (.kickRead v j) = false → hostWritesPending s v = false → kicksRefused (s.vd v) = false → q.pend.length < 64 →
      bits x 7 0 = 0 → bits x 63 48 = 0 → devRead s .iod v x.toNat 256 = .ok s m →
      let l := newLaunch s.nextId v j s.now x ((Vector.range 32).map (fun i => memWord m (8 * i)))
      ∃ s', exec (.kickRecordRead v j) s = .next s' ∧ s'.ms = s.ms ∧ let q' := (s'.vd v).queue j
        match recordCause l with
        | none => s'.launches = s.launches ++ [l] ∧ q' = { q with kicks := [], pend := q.pend ++ [l.lid], accepted := q.accepted + 1 }
        | some c => s'.launches = s.launches ∧ q'.kicks = [] ∧ q'.pend = q.pend ∧ q'.accepted = q.accepted ∧ q'.cause = c ∧ q'.err = true)) ∧
  (∀ s v j l, headLaunch s v j = some l → s.launch? l.lid = some l → s.power = .on →
    (∀ n m, n < 4 → l.phase = .pending → depDue l n = true → isHeld s (.dependence v j n) = false →
      (∀ p ∈ s.mg.plots, ∀ x ∈ p.2.waiters, x.1 ≠ .dependence v j n) → devRead s .iod v (l.depAddr n) 8 = .ok s m →
      if l.depNeed n ≤ (memWord m 0).toNat then ∃ s', exec (.dependenceReport v j n) s = .next s' ∧
        s'.launch? l.lid = some { l with deps := vset l.deps n true, depsAt := s.now } ∧ s' = { s with launches := s'.launches }
      else exec (.dependenceReport v j n) s = .next s) ∧
    ((s.vd v).runs = true → startable s l = true → isHeld s (.mustOfLaunch l.lid) = false → l.must = 0 →
      ∃ s', exec (.launchStart v j) s = .next s' ∧ s'.launch? l.lid = some { l with phase := .started, startedAt := s.now, mustOk := true } ∧
        s' = { s with launches := s'.launches }) ∧
    (startable s l = false → exec (.launchStart v j) s = .next s))

/-- The next team of a grid is placed (R42, R254 to R257): its threads stand Unstarted at the launch's entry with registers and predicates
zero, its role and budget by TID, its barriers and uniform registers zero. A seed bin is released when its timer is over or 32 seeds stand
in it, or when the frame it waits for is free (R50, R62): its seeds become a spawned team, which waits to be placed; with the frame in use
the bin is held. Completion (R48, R265): a team whose threads have exited and whose operations are over completes; a launch whose teams
are all complete and whose writes are visible increments its completion counter, one behind a system aperture by a FetchAdd there (R199);
when that is visible or acknowledged, QSEQ advances and the launch is over. -/
def Obligations.TeamsLive : Prop :=
  (∀ s v l c, s.power = .on → (s.vd v).runs = true → restoreBin s v = none → firstBy Cand.rank (candidates s v) = some (.fresh l) →
      s.launch? l.lid = some l → l.rbk = false → let k : TeamKey := { lid := l.lid, spawned := false, num := l.nextTeam }
      chooseCluster s v k = some c →
      ∃ s' tm ts, exec (.teamPlacement v) s = .next s' ∧ s'.team? k = some tm ∧ tm.cluster = some c ∧ tm.tcnt = l.threads ∧ tm.pcnt = l.pcnt ∧
        (∀ r, vget tm.s r 0 = 0) ∧ (∀ b, b < 16 → tm.bar b = { count := 0, phase := false, tag := 0 }) ∧
        tm.tiles = [] ∧ tm.acc = [] ∧ tm.hv = [] ∧ tm.mc = [] ∧ tm.scr = [] ∧
        s'.launch? l.lid = some { l with nextTeam := l.nextTeam + 1 } ∧ s'.ms.mem = s.ms.mem ∧ s'.threads = s.threads ++ ts ∧ ts.length = l.threads ∧
        ∀ n, n < l.threads → ∃ t, ts[n]? = some t ∧ t.key = { team := k, tid := n } ∧ t.st = .unstarted ∧ t.pc = BitVec.ofNat 64 l.entry ∧ t.cpos = 0 ∧
          t.consumer = decide (l.pcnt ≤ n) ∧ t.budget = (if l.pcnt ≤ n then l.clines else l.plines) ∧ t.clus = c ∧
          (∀ r, t.heldV r = 0) ∧ (∀ p, p < 7 → t.readP p = 0) ∧ ∀ f, f < 12 → t.flag f = 0) ∧
  (∀ s c n b l, s.power = .on → look n (s.cluster c).bins = some b → s.launch? b.lid = some l → b.lid = l.lid → (s.cluster c).preempting ≠ some b.vd →
      (s.cluster c).spawners = [] → let k : TeamKey := { lid := l.lid, spawned := true, num := l.spawnNext }
    ∀ i, (i = .seedBinTimer c n ∧ b.held = false ∧ (b.dueCyc ≤ (s.die (dieOfCluster c)).cyc ∨ 32 ≤ b.seeds.length)) ∨ (i = .spawnedTeamRelease c n ∧ b.held = true) →
      (spawnFrameFree s l = true → s.team? k = none → ∃ s' tm, exec i s = .next s' ∧ s'.team? k = some tm ∧ tm.seeds = b.seeds ∧ tm.cluster = none ∧
        tm.tcnt = b.seeds.length ∧ look n (s'.cluster c).bins = none ∧ s'.ms = s.ms ∧ s'.threads = s.threads ∧
        s'.launch? l.lid = some { l with spawnNext := l.spawnNext + 1, spawnLive := l.spawnLive + 1 }) ∧
      (spawnFrameFree s l = false → ∃ s', exec i s = .next s' ∧ look n (s'.cluster c).bins = some { b with held := true } ∧ s'.teams = s.teams)) ∧
  ((∀ s k tm l, s.team? k = some tm → s.launch? k.lid = some l → tm.cluster.isSome = true → s.members k = [] → teamBusy s k = false → tm.integrity = false →
      ∃ s', exec (.teamComplete k) s = .next s' ∧ s'.team? k = none ∧ (∀ k', k' ≠ k → s'.team? k' = s.team? k') ∧ s'.ms = s.ms ∧
        s'.launch? k.lid = some (if k.spawned then { l with spawnLive := l.spawnLive - 1 } else { l with doneTeams := l.doneTeams + 1 })) ∧
    (∀ s lid l, s.launch? lid = some l → s.power = .on → allDone s l = true → l.maxTw + 4 ≤ s.now → aperturePending s lid = false →
      isHeld s (.completion lid) = false → s.ms.badSymbols = [] → let a := l.qdone.getD (bits ((s.vd l.vd).queue l.j).qdonea 47 3 * 8)
      (a = 0 → ∃ s', exec (.launchComplete lid) s = .next s' ∧ s'.launch? lid = some { l with phase := .counting, maxTw := 0 } ∧ s'.ms = s.ms) ∧
      (∀ x, a ≠ 0 → Machine.translate s .iod l.vd a .write = .ok x → hbmDpa x.dpa = true → x.repl = false → endpointHeld s l.vd x.dpa = false →
        writeHolds s l.vd x.dpa false = false → s.poisoned x.dpa = false → ∃ s' v, exec (.launchComplete lid) s = .next s' ∧ s'.ms.versions = s.ms.versions ++ [v] ∧
          v.cells = cellsAt x.dpa (leBytes 8 ((leNat ((List.range 8).map (fun i => newestByte s (x.dpa + i))) + 1) % 2 ^ 64)) ∧ s.now < v.tw ∧
          s'.launch? lid = some { l with phase := .counting, maxTw := v.tw, qdone := some a }) ∧
      (∀ x, a ≠ 0 → Machine.translate s .iod l.vd a .write = .ok x → hbmDpa x.dpa = false → endpointHeld s l.vd x.dpa = false →
        (pcieDpa x.dpa || furrowDpa x.dpa) = true → apertureOk s l.vd x.dpa .atomic = true → ∃ s' o, exec (.launchComplete lid) s = .next s' ∧
          s'.ms.outs = s.ms.outs ++ [o] ∧ o.launch = some lid ∧ o.dpa = x.dpa ∧ o.posted = false ∧ s'.ms.mem = s.ms.mem ∧
          s'.launch? lid = some { l with phase := .counting, maxTw := 0, qdone := some a })) ∧
    (∀ s lid l, s.launch? lid = some l → l.phase = .counting → l.maxTw ≤ s.now → s.power = .on → s.ms.badSymbols = [] →
      (∀ o ∈ s.ms.outs, o.launch ≠ some lid) → ∃ s', exec (.qdoneAck lid) s = .next s' ∧ s'.launch? lid = none ∧
      ((s'.vd l.vd).queue l.j).completed = ((s.vd l.vd).queue l.j).completed + 1 ∧ (∀ m ∈ s'.musts, m.lid ≠ lid) ∧ s'.ms = s.ms ∧
      s'.threads = s.threads))

/-- The commands that give a device its life (R267, R269, R275, R281), each accepted in its states alone (else STATUS 1): CREATE takes the
image's fields into a free entry, START runs it, SUSPEND stops one that holds no cluster at once, RESUME runs it on with its time and
counters going on from where they stopped. Before READY every command has STATUS 4 (R305). Commands are taken in turn from the ring (log
entry 44), and a drain that times out asks for the partition's reset as a step of the agenda (log entry 47): both the model's reading. The
commands and events that change or end a device (R268, R269, R279, R372): SETF merges the words its mask names; KILL drops all the device
has on chip but the requests that a memory-side die in time fault has received, and drains it, after which it is killed with its next
generation and its translations gone; DESTROY frees it. -/
def Obligations.DeviceLifecycle : Prop :=
  (∀ s v, InTurn s v → let d := s.vd v
    let others := fun (s' : State) => (∀ u, u ≠ v → s'.vd u = s.vd u) ∧ s'.ms = s.ms ∧ s'.threads = s.threads
    let refuses := fun (i : Instr) (opc status : Nat) => ∃ s', exec i s = .next s' ∧ Reported s s' opc v status ∧ others s' ∧ s'.vd v = d
    (s.mg.ready = false → (∀ img, refuses (.create v img) 0x01 4) ∧ refuses (.start v) 0x02 4 ∧ refuses (.resume v) 0x04 4 ∧ refuses (.destroy v) 0x0A 4) ∧
    (s.mg.ready = true →
      (∀ img, let e := takeImage createMask img (freshDevice d)
        (d.state ≠ 0 → refuses (.create v img) 0x01 1) ∧ (d.state = 0 → img.length < 32 → refuses (.create v img) 0x01 3) ∧
        (d.state = 0 → 32 ≤ img.length → fieldsBad s v e = true → refuses (.create v img) 0x01 2) ∧
        (d.state = 0 → 32 ≤ img.length → fieldsBad s v e = false → ∃ s', exec (.create v img) s = .next s' ∧ Reported s s' 0x01 v 0 ∧ others s' ∧
          (s'.vd v).state = 1 ∧ (s'.vd v).gen = d.gen ∧ ∀ i, 1 ≤ i → i < 18 → (s'.vd v).word i = img.getD i 0 &&& BitVec.ofNat 64 (createMask i))) ∧
      (d.state ≠ 1 → refuses (.start v) 0x02 1) ∧
      (d.state = 1 → overGuaranteed s v d = true → refuses (.start v) 0x02 2) ∧
      (d.state = 1 → overGuaranteed s v d = false → ∃ s', exec (.start v) s = .next s' ∧ Reported s s' 0x02 v 0 ∧ others s' ∧ (s'.vd v).state = 2) ∧
      (d.state ≠ 2 → refuses (.suspend v) 0x03 1) ∧
      (d.state = 2 → stoppedAll s v = true → pullFailed s v = false → ∃ s', exec (.suspend v) s = .next s' ∧ Reported s s' 0x03 v 0 ∧ others s' ∧ (s'.vd v).state = 3 ∧
        (s'.vd v).stopAt = s.now ∧ (s'.vd v).stopView = guestView s v) ∧
      (d.state ≠ 3 → refuses (.resume v) 0x04 1) ∧
      (d.state = 3 → ∃ s', exec (.resume v) s = .next s' ∧ Reported s s' 0x04 v 0 ∧ others s' ∧ (s'.vd v).state = 2 ∧
        s'.gtime v = (vget d.stopView 0 0 + max 1 (s.now - d.stopAt)) % 2 ^ 64 ∧
        ((s'.die 0).cyc + ((s'.vd v).word 9).toNat) % 2 ^ 64 = vget d.stopView 1 0 % 2 ^ 64 ∧
        ((s'.die 1).cyc + ((s'.vd v).word 10).toNat) % 2 ^ 64 = vget d.stopView 2 0 % 2 ^ 64))) ∧
  ((∀ s v img mask, InTurn s v → s.mg.ready = true → let d := s.vd v
      let e := takeImage (fun i => if bit mask i then rwMask i else 0) img d
      (d.state = 0 → ∃ s', exec (.setf v img mask) s = .next s' ∧ Reported s s' 0x0C v 1 ∧ s'.vds = s.vds) ∧
      (d.state = 1 → 32 ≤ img.length → fieldsBad s v e = false → (∀ q ∈ d.queues, q.2.pend = []) → bits (e.word 17) 5 0 = bits (d.word 17) 5 0 →
        ∃ s', exec (.setf v img mask) s = .next s' ∧ Reported s s' 0x0C v 0 ∧ ∀ i, i < 18 → (s'.vd v).word i =
          if bit mask i then (d.word i &&& ~~~BitVec.ofNat 64 (rwMask i)) ||| (img.getD i 0 &&& BitVec.ofNat 64 (rwMask i)) else d.word i)) ∧
    (∀ s v, InTurn s v → s.mg.ready = true → (s.vd v).state ∈ [1, 2, 3, 6] → ∃ s', exec (.kill v) s = .next s' ∧
      (s'.vd v).state = 4 ∧ (s'.vd v).drainFrom = s.now ∧ (∀ t, t ∈ s'.threads ↔ t ∈ s.threads ∧ t.vd ≠ v) ∧ (∀ t, t ∈ s'.teams ↔ t ∈ s.teams ∧ t.vd ≠ v) ∧
      (∀ l, l ∈ s'.launches ↔ l ∈ s.launches ∧ l.vd ≠ v) ∧ (∀ q, q ∈ s'.ms.reqs ↔ q ∈ s.ms.reqs ∧ (q.vd ≠ v ∨ reqStands s q = true)) ∧ (∀ m ∈ s'.musts, m.vd ≠ v) ∧
      s'.ms.mem = s.ms.mem ∧ s'.ms.versions = s.ms.versions ∧ s'.mg.done = s.mg.done ∧ ∀ u, u ≠ v → s'.vd u = s.vd u) ∧
    (∀ s v, (s.vd v).state = 4 → drainsStill s v = false → ∃ s', exec (.drainComplete v) s = .next s' ∧ (s'.vd v).state = 5 ∧
      (s'.vd v).gen = ((s.vd v).gen + 1) % 2 ^ 32 ∧ (∀ e, e ∈ s'.ms.tlb ↔ e ∈ s.ms.tlb ∧ e.vd ≠ v) ∧ s'.ms.mem = s.ms.mem ∧
      ((s.vd v).stopTo = some 5 → Reported s s' 0x09 v 0)) ∧
    (∀ s v k, (s.vd v).state = 4 → (s.vd v).drainFrom + 100000 ≤ s.now → k ∈ (s.vd v).drainOn → (s.md k).timeFaultSince.isSome = true →
      ∃ s', exec (.drainTimeout v) s = .next s' ∧ .event (.partitionReset k) ∈ s'.agenda ∧ s'.ms = s.ms) ∧
    (∀ s v, InTurn s v → s.mg.ready = true → ((s.vd v).state = 1 ∨ (s.vd v).state = 5) → ∃ s', exec (.destroy v) s = .next s' ∧
      Reported s s' 0x0A v 0 ∧ (s'.vd v).state = 0 ∧ (s'.vd v).gen = ((s.vd v).gen + if (s.vd v).state = 1 then 1 else 0) % 2 ^ 32 ∧
      (∀ i, 1 ≤ i → (s'.vd v).word i = 0) ∧ ∀ u, u ≠ v → s'.vd u = s.vd u) ∧
    (∀ s opc v, InTurn s v → (opc = 0 ∨ 0x12 < opc) → ∃ s', exec (.mgmtUndefinedOpc opc v) s = .next s' ∧ Reported s s' opc v 4 ∧ s'.ms = s.ms ∧
      s'.vds = s.vds))

/-- Pre-emption (R277, R278): once the cluster is quiet its contexts begin their write-backs, each thread keeping its place and registers, its
lines gone from the cache; once those are made the cluster is free and the device's teams there wait. A slice boundary (R275, R276): the
new slice length and widths take effect, the next boundary is the next multiple of the length, and one device alone, with nothing held, is
granted its guaranteed clusters and what is left of the width up to its most, lowest numbers first. -/
def Obligations.Sharing : Prop :=
  ((∀ s c v, s.power = .on → (s.cluster c).preempting = some v → (s.cluster c).saving = false → quiet (stopSlots s c v) c v = true →
      (∀ t ∈ threadsOn s c v, s.thr? t.key = some t ∧ ∃ l, s.launch? t.key.team.lid = some l) → ∃ s', exec (.preemptionComplete c v) s = .next s' ∧
      (s'.cluster c).saving = true ∧ (s'.cluster c).preempting = some v ∧ s'.ms.mem = s.ms.mem ∧
      ∀ t ∈ threadsOn s c v, ∃ t', s'.thr? t.key = some t' ∧ heldLines t' = [] ∧ t'.pc = t.pc ∧ t'.cpos = t.cpos ∧ (∀ r, t'.heldV r = t.heldV r) ∧
        t'.pred = t.pred ∧ t'.flags = t.flags) ∧
    (∀ s c v, s.power = .on → (s.cluster c).preempting = some v → (s.cluster c).saving = true → (∀ w ∈ s.ms.wbs, w.vd ≠ v ∨ w.cluster ≠ c) → (s.vd v).stopTo = none →
      ∃ s', exec (.preemptionComplete c v) s = .next s' ∧ (s'.cluster c).preempting = none ∧ (s'.cluster c).saving = false ∧ s'.threads = s.threads ∧
        s'.teams = s.teams.map (fun t => if t.cluster = some c ∧ t.vd = v then { t with cluster := none } else t) ∧ s'.ms = s.ms)) ∧
  ((∀ s, s.now < s.mg.boundary → exec .sliceBoundary s = .next s) ∧
    (∀ s, s.power = .on → s.mg.boundary ≤ s.now → 0 < s.mg.sliceNext → ∃ s', exec .sliceBoundary s = .next s' ∧ s'.mg.slice = s.mg.sliceNext ∧
      s'.mg.widths = s.mg.widthsNext ∧ s.now < s'.mg.boundary ∧ s'.mg.boundary ≤ s.now + 1000 * s.mg.sliceNext ∧ s'.mg.boundary % (1000 * s.mg.sliceNext) = 0 ∧
      s'.ms = s.ms ∧ s'.mg.contenders = (s.vds.map (·.1)).filter (contends s s.mg.boundary)) ∧
    (∀ s v d, s.power = .on → s.mg.boundary ≤ s.now → s.vds = [(v, d)] → contends s s.mg.boundary v = true → s.clusters = [] →
      (∀ k, k < 8 → vget s.parts k { st := 0, rcnt := 0, failm := 0 } = { st := 0, rcnt := 0, failm := 0 } ∧ d.minc ≤ vget s.mg.widthsNext k 48 ∧
        vget s.mg.widthsNext k 48 ≤ 48) → d.minc ≤ d.maxc → d.weight ≠ 0 →
      ∃ s', exec .sliceBoundary s = .next s' ∧ ∀ k j, k < 8 → j < 48 → (s'.cluster (48 * k + j)).holder =
        if inPart s k v = true ∧ j < min (vget s.mg.widthsNext k 48) d.maxc then some v else none))

/-- The commands of migration (R269, R287, R288, R293), each in its states alone. MIGOUT enters pre-copy with the dirty bitmap cleared and on;
MIGSTOP, with no cluster held and nothing of the frames to come, makes the final copy; MIGIN prepares a destination; DBSWAP answers the
bitmap and clears it, both reading memory only while every home serves reads; MIGABORT puts the device back; MIGDONE kills the source and
runs the destination, whose time goes on (R281). STATUS 2 for transports 2 and 3, the wait of MIGOUT and DBSWAP for the homes, and
attempts counted for each plot are the model's reading (log entry 42). The records of an image (R289, R293, R349, R354): a destination
puts a raw plot into its frame, and asks again for one whose CRC fails, a plot by a pull request and any other by its header (log entry
41); a pulled plot is resident in the frame allocated to it; a pull unanswered for 2 ms is asked for again, and the third one suspends the
device. -/
def Obligations.Migration : Prop :=
  (∀ s v, InTurn s v → s.mg.ready = true → let d := s.vd v
    let homes := anyHolds s = false
    let refuses := fun (i : Instr) (opc status : Nat) => ∃ s', exec i s = .next s' ∧ Reported s s' opc v status ∧ s'.vds = s.vds ∧ s'.ms = s.ms
    let cleared := fun (s' : State) => ∀ a, memRead s'.ms.mem a = if d.dbbase ≤ a ∧ a < d.dbbase + 786432 then 0 else memRead s.ms.mem a
    (∀ x, homes → d.state ≠ 2 → d.state ≠ 3 → refuses (.migout v x) 0x05 1) ∧
    (∀ x, homes → (d.state = 2 ∨ d.state = 3) → 2 ≤ bits x 63 62 → refuses (.migout v x) 0x05 2) ∧
    (∀ x, homes → (d.state = 2 ∨ d.state = 3) → bits x 63 62 < 2 → s.ms.badSymbols = [] → Memory.wf s.ms.mem = true → ∃ s', exec (.migout v x) s = .next s' ∧ Reported s s' 0x05 v 0 ∧
      (s'.vd v).state = 6 ∧ (s'.vd v).mph = 1 ∧ (s'.vd v).prun = decide (d.state = 2) ∧ (s'.vd v).dben = true ∧ cleared s') ∧
    (¬(d.state = 6 ∧ d.mph = 1) → refuses (.migstop v) 0x06 1) ∧
    (d.state = 6 → d.mph = 1 → stoppedAll s v = true → finalReady s v = true → ∃ s' rs, exec (.migstop v) s = .next s' ∧ Reported s s' 0x06 v 0 ∧
      (s'.vd v).state = 6 ∧ (s'.vd v).mph = 2 ∧ s'.mg.sent = s.mg.sent ++ rs) ∧
    (∀ x img, d.state ≠ 0 → refuses (.migin v x img) 0x0B 1) ∧
    (∀ x img, let e := takeImage createMask img (freshDevice d)
      d.state = 0 → 32 ≤ img.length → fieldsBad s v e = false → overGuaranteed s v e = false → bits x 63 62 < 2 →
      ∃ s', exec (.migin v x img) s = .next s' ∧ Reported s s' 0x0B v 0 ∧ (s'.vd v).state = 6 ∧ (s'.vd v).mph = 3 ∧ (s'.vd v).pullFrom = some x ∧
        (s'.vd v).gen = d.gen ∧ s'.ms = s.ms) ∧
    (homes → (d.state = 0 ∨ d.state = 7) → refuses (.dbswap v) 0x0E 1) ∧
    (homes → 1 ≤ d.state → d.state ≤ 6 → s.ms.badSymbols = [] → poisonIn s d.dbbase 786432 = false → Memory.wf s.ms.mem = true → ∃ s', exec (.dbswap v) s = .next s' ∧ Reported s s' 0x0E v 0 ∧ cleared s' ∧
      s'.mg.replies = s.mg.replies ++ [{ vd := v, status := .success, bytes := memRange s.ms.mem d.dbbase 786432 }]) ∧
    (d.state ≠ 6 → refuses (.migabort v) 0x08 1 ∧ ∀ n, homes → (∀ x ∈ s.mg.inbox, x.1 ≠ v) → refuses (.migdone v n) 0x07 1) ∧
    (d.state = 6 → d.mph = 1 → ∃ s', exec (.migabort v) s = .next s' ∧ Reported s s' 0x08 v 0 ∧ (s'.vd v).state = (if d.prun then 2 else 3) ∧
      (s'.vd v).mph = 0 ∧ (s'.vd v).dben = false ∧ s'.ms = s.ms) ∧
    (d.state = 6 → d.mph = 3 → ∃ s', exec (.migabort v) s = .next s' ∧ Reported s s' 0x08 v 0 ∧ (s'.vd v).state = 0 ∧ (s'.vd v).gen = (d.gen + 1) % 2 ^ 32) ∧
    (∀ n, homes → (∀ x ∈ s.mg.inbox, x.1 ≠ v) → d.state = 6 → d.mph = 2 → ∃ s', exec (.migdone v n) s = .next s' ∧ Reported s s' 0x07 v 0 ∧ (s'.vd v).state = 5 ∧
      (s'.vd v).gen = (d.gen + 1) % 2 ^ 32 ∧ (∀ t ∈ s'.threads, t.vd ≠ v) ∧ s'.ms.mem = s.ms.mem) ∧
    (∀ n, homes → (∀ x ∈ s.mg.inbox, x.1 ≠ v) → d.state = 6 → d.mph = 3 → d.imported = [] → ∃ s', exec (.migdone v n) s = .next s' ∧ Reported s s' 0x07 v 0 ∧ (s'.vd v).state = 2 ∧
      (s'.vd v).mph = 0 ∧ s'.gtime v = (vget d.stopView 0 0 + max 1 n) % 2 ^ 64)) ∧
  ((∀ s v r h p, s.power = .on → (s.vd v).state = 6 → (s.vd v).mph = 3 → r.kind = 1 → r.poison = false → r.spoilt = [] → r.crc = crc32c r.payload →
      r.payload.length = 65536 → s.ms.badSymbols = [] → recordHeld s v r = false → (∀ x ∈ s.mg.inbox, x.1 ≠ v) → plotAt s v r.gpa = some (h, p) → look h s.mg.plots = some p → Memory.wf s.ms.mem = true →
      ∃ s', exec (.migrationRecord v r) s = .next s' ∧ (∀ x ∈ s'.ms.poison, x / 1024 ≠ p.frame) ∧
        ∀ a, memRead s'.ms.mem a = if p.frame * 65536 ≤ a ∧ a < p.frame * 65536 + 65536 then r.payload.getD (a - p.frame * 65536) 0 else memRead s.ms.mem a) ∧
    (∀ s v r, s.power = .on → (s.vd v).state = 6 → (s.vd v).mph = 3 → r.kind ≠ 9 → r.poison = false → r.crc ≠ crc32c r.payload → retriesOf (s.vd v) r < 3 →
      ∃ s' q, exec (.migrationRecord v r) s = .next s' ∧ s'.ms = s.ms ∧ s'.mg.sent = s.mg.sent ++ [q] ∧ q.1 = (s.vd v).transport ∧ q.2.gpa = r.gpa ∧
        q.2.kind = (if r.kind = 1 ∨ r.kind = 2 then 9 else r.kind) ∧ retriesOf (s'.vd v) r = retriesOf (s.vd v) r + 1) ∧
    (∀ s h p r, s.power = .on → look h s.mg.plots = some p → p.state = 4 → p.remote = true → p.evq = false → p.requesters = [] → s.mg.bar2 = [] →
      s.teams = [] → r.kind = 1 → r.poison = false → r.spoilt = [] → s.ms.badSymbols = [] → leavesHeld s p = false → vgensHeld s (pullerOf p) = false → r.crc = crc32c r.payload → r.payload.length = 65536 → p.alloc = true → frameHeld s p.frame = false →
      Memory.wf s.ms.mem = true → (∀ m ∈ p.mappers, m.2 + 128 ≤ p.frame * 65536 ∨ (p.frame + 1) * 65536 ≤ m.2) →
      ∃ s' p', exec (.pullResponse h r) s = .next s' ∧ look h s'.mg.plots = some p' ∧ p'.state = 0 ∧ p'.frame = p.frame ∧ p'.remote = false ∧ p'.pulled = true ∧
        ∀ j, j < 65536 → memRead s'.ms.mem (p.frame * 65536 + j) = r.payload.getD j 0) ∧
    (∀ s v h p, s.power = .on → s.mg.portsDown = [] → s.mg.plots = [(h, p)] → p.remote = true → p.state = 4 → p.arrived = none → p.mappers.any (fun m => m.1 = v) = true →
      (s.now < p.askedAt + 2000000 → exec (.pullTimeout { vd := v, routeDown := false }) s = .next s) ∧
      (p.askedAt + 2000000 ≤ s.now → p.attempts < 2 → ∃ s' p' q, exec (.pullTimeout { vd := v, routeDown := false }) s = .next s' ∧ look h s'.mg.plots = some p' ∧ p'.askedAt = s.now ∧
        p'.attempts = p.attempts + 1 ∧ s'.mg.sent = s.mg.sent ++ [q] ∧ q.2.kind = 9 ∧ s'.ms = s.ms) ∧
      (p.askedAt + 2000000 ≤ s.now → p.attempts = 2 → (s.vd v).state = 2 → (s.vd v).stopTo = none → stoppedAll s v = true → p.requesters = [] →
        s.mg.bar2 = [] → ∃ s' p', exec (.pullTimeout { vd := v, routeDown := false }) s = .next s' ∧ (s'.vd v).state = 3 ∧ look h s'.mg.plots = some p' ∧ p'.state = 6)))

/-- The scheduler's settings (R263, R275): SCHCTL and PWIDTH take values in range, PWIDTH as a whole or not at all; DSCTL sets a die's
steering, barrier window and start limit. They act while the homes take requests. Clocks and power (R304, R307, R308, R310): a new step is
taken through a stop of the clock; one written meanwhile is held and taken next; a code above 10 is ignored; a thermal trip sends the die
to step 0, at once or at the end of the change it meets. -/
def Obligations.SettingsAndClocks : Prop :=
  ((∀ s x, homesOpen s = true → let n := bits x 13 0
      ∃ s', exec (.schctlWrite x) s = .next s' ∧ s' = { s with mg := { s.mg with sliceNext := if 50 ≤ n ∧ n ≤ 10000 then n else s.mg.sliceNext } }) ∧
    (∀ s x, homesOpen s = true → let new := fun (k : Nat) => if 1 ≤ bits x (6 * k + 5) (6 * k) ∧ bits x (6 * k + 5) (6 * k) ≤ 48 then bits x (6 * k + 5) (6 * k) else vget s.mg.widthsNext k 48
      ((∀ k, k < 8 → guaranteed s k ≤ new k) → ∃ s', exec (.pwidthWrite x) s = .next s' ∧ s' = { s with mg := { s.mg with widthsNext := s'.mg.widthsNext } } ∧
        ∀ k, k < 8 → vget s'.mg.widthsNext k 48 = new k) ∧
      (∀ k, k < 8 → new k < guaranteed s k → exec (.pwidthWrite x) s = .next s)) ∧
    (∀ s d x, homesOpen s = true → d < 2 → ∃ s', exec (.dsctlWrite d x) s = .next s' ∧ s' = { s with dies := s'.dies } ∧ (∀ e, e ≠ d → s'.die e = s.die e) ∧
      s'.die d = { s.die d with hstr := bit x 32, brw := bits x 31 24, neng := if 1 ≤ bits x 3 0 ∧ bits x 3 0 ≤ 12 then bits x 3 0 else (s.die d).neng })) ∧
  (∀ s d, homesOpen s = true → d < 2 → let die := s.die d
    let becomes := fun (i : Instr) (x : Die) => ∃ s', exec i s = .next s' ∧ s'.die d = x ∧ s' = { s with dies := s'.dies, mg := s'.mg } ∧
      ∀ e, e ≠ d → s'.die e = s.die e
    (∀ x, 10 < bits x 3 0 → exec (.fstepWrite d x) s = .next s) ∧
    (∀ x, bits x 3 0 ≤ 10 → die.hot = false → die.busy = false → bits x 3 0 ≠ die.fcur →
      becomes (.fstepWrite d x) { die with fstep := bits x 3 0, busy := true, target := bits x 3 0 }) ∧
    (∀ x, bits x 3 0 ≤ 10 → die.hot = false → die.busy = true → becomes (.fstepWrite d x) { die with fstep := bits x 3 0, heldStep := some (bits x 3 0) }) ∧
    (die.busy = false → exec (.dvfsSwitch d) s = .next s) ∧
    (die.busy = true → die.stopped = false → becomes (.dvfsSwitch d) { die with stopped := true }) ∧
    (die.busy = true → die.stopped = true → die.heldStep = none → die.hot = false ∨ die.target = 0 → becomes (.dvfsSwitch d) { die with fcur := die.target, stopped := false, busy := false }) ∧
    (∀ n, die.busy = true → die.stopped = true → die.heldStep = some n → n ≠ die.target → die.hot = false ∨ die.target = 0 →
      becomes (.dvfsSwitch d) { die with fcur := die.target, stopped := false, target := n, heldStep := none }) ∧
    (die.busy = true → die.stopped = true → die.hot = true → die.target ≠ 0 →
      becomes (.dvfsSwitch d) { die with fcur := die.target, stopped := false, target := 0 }) ∧
    (die.busy = false → die.fcur ≠ 0 → becomes (.thermalTrip d) { die with hot := true, heldStep := none, busy := true, target := 0 }) ∧
    (die.busy = true → becomes (.thermalTrip d) { die with hot := true, heldStep := none }) ∧
    (∀ n, becomes (.powerMeasure d n) { die with pmeas := n % 2 ^ 32 }))

/-- The host's registers (R6, R247, R270, R292, R295, R304): writable fields take the written bits, bits written as 1 clear what clears so,
read-only fields and offsets the manual does not give change nothing; a read gives the value in force next of SCHCTL and PWIDTH, MCQHEAD,
and 0 on the kick page of a queue that the device does not have. That a free device's registers ignore every write is the model's reading
(log entry 43); the drop event's number and layout are its choice (log entry 24). CNTVAL (R280): the counter that CNTSEL selects where its
group is allowed, else 0 with CNTDEN set. Interrupts (R273, R318): an entry that is not valid, or that names no enabled function of port
0, drops the event and posts the drop; any other is posted as the message of its function's vector, or is marked pending while MSI-X is
disabled or masked, and is posted once that ends. The layouts of the PCI Express capabilities are the model's (log 52), and so is it that
an entry of a poisoned sector counts as one that is not valid (log 63). -/
def Obligations.HostRegisters : Prop :=
  ((∀ s, mgmtRead s 0x18 = BitVec.ofNat 64 s.mg.mcqhead ∧ mgmtRead s 0x100 = BitVec.ofNat 64 s.mg.sliceNext ∧
      ((∀ k, k < 8 → vget s.mg.widthsNext k 48 < 64) → ∀ k, k < 8 → bits (mgmtRead s 0x108) (6 * k + 5) (6 * k) = vget s.mg.widthsNext k 48)) ∧
    (∀ s v j off, (s.vd v).qcnt ≤ j → j < 64 → off < 0x1000 → vfRead s v (0x1000 + 0x1000 * j + off) = 0) ∧
    ∀ s x, homesOpen s = true →
    (∀ d, d < 2 → ∃ s', exec (.registerWrite .mgmt (0x400 + 8 * d) x) s = .next s' ∧ s' = { s with dies := s'.dies } ∧
      s'.die d = { s.die d with plim := bits x 15 0 } ∧ ∀ e, e ≠ d → s'.die e = s.die e) ∧
    (∃ s', exec (.registerWrite .mgmt 0x00 x) s = .next s' ∧ s' = { s with mg := { s.mg with mcqbase := s'.mg.mcqbase } } ∧
      bits s'.mg.mcqbase 63 12 = bits x 63 12 ∧ bits s'.mg.mcqbase 11 0 = bits s.mg.mcqbase 11 0) ∧
    (exec (.registerWrite .mgmt 0x18 x) s = .next s) ∧
    (∀ v, v < 512 → (s.vd v).state = 0 → ∀ off, exec (.registerWrite (.vf v) off x) s = .next s) ∧
    (∀ v, v < 512 → (s.vd v).state ≠ 0 →
      (∃ s', exec (.registerWrite (.vf v) 0x00 x) s = .next s' ∧ bits ((s'.vd v).word 2) 51 12 = bits x 51 12 ∧ (∀ i, i ≠ 2 → (s'.vd v).word i = (s.vd v).word i) ∧
        s' = { s with vds := s'.vds }) ∧
      (∃ s', exec (.registerWrite (.vf v) 0x30 x) s = .next s' ∧ (s'.vd v).cntsel.toNat = bits x 9 0 ∧ s' = { s with vds := s'.vds }) ∧
      (∃ s', exec (.registerWrite (.vf v) 0x40 x) s = .next s' ∧ (s'.vd v).cntden = ((s.vd v).cntden && !bit x 0)) ∧
      (∀ j, j < (s.vd v).qcnt → j < 64 →
        (∃ s', exec (.registerWrite (.vf v) (0x1000 + 0x1000 * j + 0x10) x) s = .next s' ∧
          bits ((s'.vd v).queue j).qdonea 47 3 = bits x 47 3 ∧ ∀ i, i ≠ j → (s'.vd v).queue i = (s.vd v).queue i) ∧
        (∃ s', exec (.registerWrite (.vf v) (0x1000 + 0x1000 * j + 0x08) x) s = .next s' ∧
          ((s'.vd v).queue j).err = (((s.vd v).queue j).err && !bit x 32) ∧ ((s'.vd v).queue j).cause = ((s.vd v).queue j).cause)))) ∧
  (∀ s v, (s.vd v).state ≠ 0 → let e := (s.vd v).cntsel.toNat
      ∃ s', exec (.cntvalRead v) s = .next s' ∧ s' = { s with vds := s'.vds } ∧ (∀ u, u ≠ v → s'.vd u = s.vd u) ∧
        (((s.vd v).word 13).getLsbD (e / 16) = false → (s'.vd v).cntval = 0 ∧ (s'.vd v).cntden = true) ∧
        (((s.vd v).word 13).getLsbD (e / 16) = true → e / 16 < 63 → (s'.vd v).cntval = BitVec.ofNat 64 ((look e (s.vd v).counts).getD 0) ∧
          (s'.vd v).cntden = (s.vd v).cntden)) ∧
  ((∀ (s : State) v j, let e := s.dpaWord ((s.vd v).irtbase + 16 * j); let f := bits e 26 16; let m := (f, bits e 10 0)
      let disabled := 513 ≤ f ∨ (f ≠ 0 ∧ ((s.vd (f - 1)).state = 0 ∨ s.mg.vfEnable = false ∨ s.mg.numVfs < f))
      s.ms.badSymbols = [] →
      (s.poisoned ((s.vd v).irtbase + 16 * j) = true ∨ bit e 63 = false ∨ disabled → s.signal v j = s.event v 1 j 0) ∧
      (s.poisoned ((s.vd v).irtbase + 16 * j) = false → bit e 63 = true → ¬ disabled → (s.signal v j).mg.stream = s.mg.stream ∧ (s.signal v j).ms = s.ms ∧
        if s.mg.vectorOpen m.1 m.2 = true then (s.signal v j).mg.msix = s.mg.msix ++ [m] ∧ (s.signal v j).mg.msixPend = s.mg.msixPend
        else (s.signal v j).mg.msix = s.mg.msix ∧ m ∈ (s.signal v j).mg.msixPend)) ∧
    (∀ s x, homesOpen s = true →
      exec (.registerWrite .sriov 0x08 x) s = .next { s with mg := { s.mg with vfEnable := bit x 0 } } ∧
      exec (.registerWrite .sriov 0x10 x) s = .next { s with mg := { s.mg with numVfs := bits x 15 0 } } ∧
      (∀ f, f ≤ 512 → ∃ s', exec (.registerWrite (.msixCap f) 0 x) s = .next s' ∧ s'.ms = s.ms ∧
        (∀ vec, s'.mg.vectorOpen f vec = (bit x 31 && !bit x 30 && (memRead ((look f s.mg.msixTab).getD []) (16 * vec + 12)).toNat % 2 == 0)) ∧
        (∀ g vec, g ≠ f → s'.mg.vectorOpen g vec = s.mg.vectorOpen g vec) ∧
        (∀ m ∈ s.mg.msixPend, if s'.mg.vectorOpen m.1 m.2 = true then m ∈ s'.mg.msix ∧ m ∉ s'.mg.msixPend else m ∈ s'.mg.msixPend))))

/-- The host's accesses through BAR2 (R295, R296): to a free device they change nothing, a read being answered Unsupported Request; at 2^BSZ
and beyond they end so with an event; one piece that stage 2 allows is a version at its home's write time, after those of the function's
earlier writes, or is answered with the bytes memory holds once the function's earlier writes are visible; one to a plot on its way waits,
and ends with Completer Abort after 1 ms. Accesses of other packages (R302): accepted where a valid entry of the device names the origin
and allows the kind, and stage 2 does; a load is answered with the bytes at the home, a store and an atomic are versions at a write time,
the atomic answered with the old value. Outbound requests to the apertures (R298): completed, one answers its access, with its data or as
poisoned (R348); refused, or unanswered past its limit, it fails it, and a posted write's failure makes the system-access fault due in its
thread. -/
def Obligations.OutsideAccesses : Prop :=
  (∀ s v off, homesOpen s = true → let d := s.vd v
    let answered := fun (s' : State) (st : HostStatus) (bs : List Byte) => s'.mg.replies = s.mg.replies ++ [{ vd := v, status := st, bytes := bs }]
    (d.state = 0 → (∀ bs poison, exec (.hostBar2Write v off bs poison) s = .next s) ∧
      ∀ n, ∃ s', exec (.hostBar2Read v off n) s = .next s' ∧ answered s' .unsupported [] ∧ s' = { s with mg := { s.mg with replies := s'.mg.replies } }) ∧
    (d.state ≠ 0 → 2 ^ bits (d.word 17) 5 0 ≤ off → (∀ bs poison, bs ≠ [] → ∃ s', exec (.hostBar2Write v off bs poison) s = .next s' ∧
        s'.mg.stream.length = s.mg.stream.length + 1 ∧ s'.mg.replies = s.mg.replies ∧ s'.ms = s.ms) ∧
      ∀ n, 0 < n → ∃ s', exec (.hostBar2Read v off n) s = .next s' ∧ s'.mg.stream.length = s.mg.stream.length + 1 ∧ answered s' .unsupported [] ∧ s'.ms = s.ms) ∧
    (d.state ≠ 0 → s.mg.bar2 = [] → d.dben = false → s.ms.badSymbols = [] →
      (∀ bs l, bs ≠ [] → off + bs.length ≤ 2 ^ bits (d.word 17) 5 0 → off % 64 + bs.length ≤ 64 → stage2 s v off .write = .ok l → hbmDpa l.addr = true →
        l.repl = false → homeHolds s l.addr = false → ∃ s' w, exec (.hostBar2Write v off bs false) s = .next s' ∧ s'.ms.versions = s.ms.versions ++ [w] ∧
          w.cells = cellsAt l.addr bs ∧ w.tw = max (max (s.home (l.addr / 256)).lmax (max ((s.home (l.addr / 256)).tlast + 1) (s.now + 4))) (d.bar2Tw + 1) ∧
          (s'.vd v).bar2Tw = w.tw ∧ s'.ms.mem = s.ms.mem ∧ s'.threads = s.threads) ∧
      (∀ n l, 0 < n → off + n ≤ 2 ^ bits (d.word 17) 5 0 → off % 64 + n ≤ 64 → stage2 s v off .read = .ok l → hbmDpa l.addr = true →
        homeHolds s l.addr = false → anyPoison s l.addr n = false → hostWritesPending s v = false →
        ∃ s', exec (.hostBar2Read v off n) s = .next s' ∧ answered s' .success (memReadN s.ms.mem l.addr n) ∧ s'.ms = s.ms ∧ s'.threads = s.threads) ∧
      (∀ n x h p, 0 < n → off + n ≤ 2 ^ bits (d.word 17) 5 0 → off % 64 + n ≤ 64 → stage2 s v off .read = .error (.tier x h) → look h s.mg.plots = some p →
        p.state = 4 → ∃ s', exec (.hostBar2Read v off n) s = .next s' ∧ s' = { s with nextId := s.nextId + 1, mg := { s.mg with bar2 :=
          [{ id := s.nextId, vd := v, off := off, len := n, what := .read, since := s.now, plot := some h }] } })) ∧
    (∀ w h, s.mg.bar2 = [w] → w.vd = v → w.what = .read → waitPlot s w = some h →
      (s.now < w.since + 1000000 → exec (.bar2PromotionTimeout w.id) s = .next s) ∧
      (w.since + 1000000 ≤ s.now → ∃ s', exec (.bar2PromotionTimeout w.id) s = .next s' ∧ s'.mg.bar2 = [] ∧ answered s' .aborted [] ∧ s'.ms = s.ms))) ∧
  ((∀ s q k e, entryAdmits s q k e = true ↔ let w := endpointWords s q.vd e
      bit w.1 63 = true ∧ bits w.1 51 32 = q.srcPkg ∧ bits w.1 31 23 = q.srcVd ∧
        bit w.1 (match k with | .load => 62 | .store => 61 | .atomic => 60) = true) ∧
    (∀ s q, homesOpen s = true → s.ms.badSymbols = [] → ((s.vd q.vd).state ∈ [0, 4, 5] ∨ (∀ i, i < 32 → homeHolds s ((s.vd q.vd).fepbase + 256 * i) = false) ∧
        ∀ e, e < 256 → entryAdmits s q (remoteKind q.op) e = false) →
      ∃ s', exec (.remoteAccess q) s = .next s' ∧ s' = { s with mg := { s.mg with replies := s.mg.replies ++ [{ vd := q.vd, status := .refused, bytes := [] }] } }) ∧
    (∀ s q e l, homesOpen s = true → (s.vd q.vd).state ∉ [0, 4, 5] → e < 256 → entryAdmits s q (remoteKind q.op) e = true → (s.vd q.vd).dben = false →
      (∀ i, i < 32 → homeHolds s ((s.vd q.vd).fepbase + 256 * i) = false) →
      hbmDpa l.addr = true → l.repl = false → homeHolds s l.addr = false → s.ms.badSymbols = [] → q.gpa % 64 + remoteLen q.op ≤ 64 →
      anyPoison s l.addr (remoteLen q.op) = false →
      let tw := max (s.home (l.addr / 256)).lmax (max ((s.home (l.addr / 256)).tlast + 1) (s.now + 4))
      let answered := fun (s' : State) (bs : List Byte) => s'.mg.replies = s.mg.replies ++ [{ vd := q.vd, status := .success, bytes := bs }]
      let old := (List.range (remoteLen q.op)).map (fun i => newestByte s (l.addr + i))
      let written := fun (s' : State) (bs : List Byte) => ∃ w, s'.ms.versions = s.ms.versions ++ [w] ∧ w.cells = cellsAt l.addr bs ∧ w.tw = tw
      (∀ n, q.op = .load n → 0 < n → stage2 s q.vd q.gpa .read = .ok l → ∃ s', exec (.remoteAccess q) s = .next s' ∧
        answered s' (memReadN s.ms.mem l.addr n) ∧ s'.ms = s.ms) ∧
      (∀ bs, q.op = .store bs → bs ≠ [] → stage2 s q.vd q.gpa .write = .ok l → ∃ s', exec (.remoteAccess q) s = .next s' ∧ answered s' [] ∧ written s' bs) ∧
      (∀ op aty b b2 returns, q.op = .atomic op aty b b2 returns → stage2 s q.vd q.gpa .write = .ok l →
        ∃ s', exec (.remoteAccess q) s = .next s' ∧ answered s' (if returns then old else []) ∧
          written s' (leBytes (atyLen aty) (atomicNew (op = 8) op aty (leNat old) b b2))))) ∧
  (∀ s o, s.ms.outs.find? (fun x => x.id = o.id) = some o → o.abandoned = false → o.launch = none →
    let gone := fun (s' : State) => s'.ms.outs = s.ms.outs.filter (fun x => x.id ≠ o.id) ∧ s'.ms.mem = s.ms.mem ∧ s'.ms.versions = s.ms.versions
    let limit := if furrowDpa o.dpa then 200000 else 10000000
    let late : Prop := o.sentAt + limit ≤ s.now ∧ (o.posted = false ∨ furrowDpa o.dpa = true)
    (∀ r q ok poison data, o.req = some r → s.req? r = some q → data.length = q.len → ∃ s' q', exec (.apertureCompletion o.id { ok := ok, poison := poison } data) s = .next s' ∧ gone s' ∧
      s'.req? r = some q' ∧ q' = { q with phase := .acked, failed := !ok, poisoned := poison, data := data } ∧ s'.threads = s.threads) ∧
    (∀ r q, o.req = some r → s.req? r = some q → late → ∃ s' q', exec (.apertureTimeout o.id) s = .next s' ∧ gone s' ∧
      s'.req? r = some q' ∧ q'.phase = .acked ∧ q'.failed = true ∧ s'.threads = s.threads) ∧
    (¬late → exec (.apertureTimeout o.id) s = .next s) ∧
    (o.req = none → o.op = none → o.fenceOf = none →
      (∀ poison data, ∃ s', exec (.apertureCompletion o.id { ok := true, poison := poison } data) s = .next s' ∧ gone s' ∧ s' = { s with ms := s'.ms }) ∧
      (∀ t poison data, s.thr? o.thr = some t → t.st ≠ .exited → ∃ s' t' i, exec (.apertureCompletion o.id { ok := false, poison := poison } data) s = .next s' ∧ gone s' ∧
        s'.thr? o.thr = some t' ∧ t' = { t with due := t.due ++ [i] } ∧ i.cause = 0x17)))

/-- Boot (R305): an image that the vendor's key signed and whose version is no lower than the least is measured, every later stage too, every
device is free, port 0 stays in host mode (R294), the pool holds at most 16 TiB (R18, R299) and READY is set; another stops the boot at
step 3 or 4, and READY stays 0. ATTEST (R291, R306): a report carries the measurements and the nonce it was asked with; a nonce cut short
has STATUS 3. -/
def Obligations.BootAndAttestation : Prop :=
  (∀ s b, s.power = .on → s.mg.ready = false → s.mg.booterr = false →
      let good := leNat (sha256 b.key) = Config.vendorKeyDigest ∧ Config.signatureValid b.key (sha256 b.bytes) b.signature = true
      ∃ s', exec (.boot b) s = .next s' ∧
      (¬good → s' = { s with mg := { s.mg with booterr := true, bootstep := 3 } }) ∧
      (good → b.version < Config.minSecurityVersion → s' = { s with mg := { s.mg with booterr := true, bootstep := 4 } }) ∧
      (good → Config.minSecurityVersion ≤ b.version → s'.mg.ready = true ∧ (∀ v, (s'.vd v).state = 0) ∧
        vget s'.mg.measures 0 [] = sha256 (vget s.mg.measures 0 [] ++ sha256 b.bytes) ∧
        (∀ i x, i < 7 → b.stages[i]? = some x → vget s'.mg.measures (i + 1) [] = sha256 (vget s.mg.measures (i + 1) [] ++ sha256 x)) ∧
        s'.mg.ecap = min 0xFFFF b.ecap ∧ s'.ms = s.ms ∧
        (∀ p ∈ s'.mg.cxl, 1 ≤ p.1 ∧ p.1 < 4) ∧ (s'.mg.pool.map (·.2)).sum ≤ 2 ^ 44)) ∧
  (∀ s v nonce, InTurn s v → s.mg.ready = true →
      (nonce.length < 32 → ∃ s', exec (.attest v nonce) s = .next s' ∧ Reported s s' 0x0F v 3 ∧ s'.mg.replies = s.mg.replies) ∧
      (32 ≤ nonce.length → (∀ m, m < 8 → (vget s.mg.measures m []).length = 32) → ∃ s' b, exec (.attest v nonce) s = .next s' ∧ Reported s s' 0x0F v 0 ∧
        s'.mg.replies = s.mg.replies ++ [{ vd := v, status := .success, bytes := b }] ∧ (b.drop 288).take 32 = nonce.take 32 ∧
        (∀ m, m < 8 → (b.drop (32 + 32 * m)).take 32 = vget s.mg.measures m []) ∧ s'.ms = s.ms ∧ s'.vds = s.vds))

/-- An error in an on-die array (R364, R365): a single bit is counted and corrected; of two, a clean copy is dropped, a combining buffer's
store becomes poisoned, and shared logic posts its record to Pelelo and asks for the reset of its partition. The reset that an error in
shared logic takes, as an event of the agenda (log entry 47), and the record of device 0 (log entry 77) are the model's choice. A rollback
(R366, R370): a team on a cluster with nothing under way leaves it, its threads' lines written back; off it, with those writes made and
nothing logged, the header counts the rollback, its threads stand as they were with nothing raised, and the team waits ahead of its
launch's others. What a rollback does with units that have no slot yet is log entry 48. -/
def Obligations.ErrorsAndRollback : Prop :=
  (∀ s d, d < 2 → homesOpen s = true →
    (∀ site, ∃ s', exec (.sramEccError d site false) s = .next s' ∧ s' = { s with dies := s'.dies } ∧
      s'.die d = { s.die d with srce := min 0xFFFF ((s.die d).srce + 1) }) ∧
    (∀ n, ∃ s', exec (.sramEccError d (.cleanCopy n) true) s = .next s' ∧ s'.ms = { s.ms with copies := s.ms.copies.eraseIdx n } ∧ s'.threads = s.threads ∧
      (s'.die d).srue = min 0xFFFF ((s.die d).srue + 1)) ∧
    (∀ id m, s.store? id = some m → ∃ s', exec (.sramEccError d (.combining id) true) s = .next s' ∧ s'.store? id = some { m with poisoned := true } ∧
      s'.ms.mem = s.ms.mem ∧ s'.ms.versions = s.ms.versions) ∧
    (∀ p, ∃ s', exec (.sramEccError d (.shared p) true) s = .next s' ∧ s'.agenda = s.agenda ++ [.event (.partitionReset p)] ∧
      s'.mg.stream.length = s.mg.stream.length + 1 ∧ s'.ms = s.ms)) ∧
  ((∀ s k tm l, s.team? k = some tm → s.launch? k.lid = some l → tm.integrity = false → exec (.rollback k) s = .next s) ∧
    (∀ s k tm l c, s.power = .on → s.team? k = some tm → s.launch? k.lid = some l → tm.integrity = true → tm.cluster = some c → s.cores = [] → teamBusy s k = false →
      ∃ s' tm', exec (.rollback k) s = .next s' ∧ s'.team? k = some tm' ∧ tm' = { tm with cluster := none } ∧ s'.ms.mem = s.ms.mem ∧
        ∀ t ∈ s.members k, s.thr? t.key = some t → ∃ t', s'.thr? t.key = some t' ∧ heldLines t' = [] ∧ t'.pc = t.pc ∧ t'.cpos = t.cpos ∧
          ∀ r, t'.heldV r = t.heldV r) ∧
    (∀ s k tm l x, s.power = .on → s.team? k = some tm → s.launch? k.lid = some l → tm.integrity = true → tm.cluster = none → tm.snap = some x → x.nlog = 0 →
      (∀ w ∈ s.ms.wbs, w.thr.team ≠ k) → s.ms.held = [] → (s.vd tm.vd).dben = false → anyHolds s = false → ∃ s' tm', exec (.rollback k) s = .next s' ∧
        s'.team? k = some tm' ∧ tm' = { tm with snap := some { x with inel := false, rbn := x.rbn + 1, logged := [], unformed := unformedLines s' k }, integrity := false, ahead := true } ∧
        s'.ms.mem = s.ms.mem ∧ (x.logged = [] → x.unformed = [] → ∀ t, s.thr? t.key = some t → t.key.team = k → t.detached = false → t.st ≠ .parked →
          s'.thr? t.key = some { t with due := [], undelivered := [], faultPending := false, retrying := false, barrier := none, releaseAt := none, owed := false })))

/-- Partition resets and time faults (R350, R351, R372 to R374): a reset empties the partition's logic, its leases becoming a floor, and a
self-test ends it; a memory-side die off time holds its requests until it relocks, what it held (with cause 0, the model's mark; log entry
64) being tried again then, and asks for the reset after 100 µs. The loss of the I/O die's reference stops the package, and a cold reset
follows, in which HBM's contents are lost: the model's choice (log entry 46). That a partition's reset takes two steps, its kill and its
start (log entry 47), and that the reservation's window is an expiry (log entry 56), are too. Links (R300, R375): a lane fails over to a
spare of its module while there is one; then the module is disabled; the loss of every module of a link to the IOD leaves the package as
it is. A Furrow port that goes down is listed; a reservation is renewed to a later time. -/
def Obligations.PartitionsAndLinks : Prop :=
  ((∀ s k x, ∃ s', exec (.partitionResetRequest k x) s = .next s' ∧
      s' = { s with agenda := if bit x 8 then s.agenda ++ [.event (.partitionReset k)] else s.agenda }) ∧
    (∀ s k, homesOpen s = true → k < 8 → (s.part k).st = 0 → (∀ p ∈ s.vds, holdsIn s k p.1 = false) → ∃ s', exec (.partitionReset k) s = .next s' ∧
      (s'.part k).st = 1 ∧ (∀ j, j ≠ k → s'.part j = s.part j) ∧ s'.agenda = .event (.partitionReset k) :: s.agenda ∧ s'.ms = s.ms ∧ s'.vds = s.vds) ∧
    (∀ s k, homesOpen s = true → k < 8 → (s.part k).st = 1 → (∀ h ∈ s.ms.held, h.info.cause ≠ 0) → ∃ s', exec (.partitionReset k) s = .next s' ∧
      (s'.part k).st = 2 ∧ (∀ j, j ≠ k → s'.part j = s.part j) ∧ (∀ p ∈ s'.clusters, partOfCluster p.1 ≠ k) ∧ (s'.md k).floor = s.now + 4096 ∧
      s'.ms.mem = s.ms.mem ∧ s'.ms.versions = s.ms.versions ∧ s'.vds = s.vds ∧
      ∀ line, mdOfDpa (line * 256) = k → (s'.home line).lmax = s.now + 4096) ∧
    (∀ s k, homesOpen s = false ∨ 1 < (s.part k).st → exec (.partitionReset k) s = .next s) ∧
    (∀ s k failed, k < 8 → (s.part k).st = 2 → ∃ s', exec (.selfTestComplete k failed) s = .next s' ∧ (s'.part k).st = 0 ∧
      (s'.part k).rcnt = min 0xFFFF ((s.part k).rcnt + 1) ∧
      (∀ j, j < 48 → (s'.part k).failm.getLsbD j = ((s.part k).failm.getLsbD j || decide (j ∈ failed))) ∧ s'.ms = s.ms ∧ s'.clusters = s.clusters) ∧
    (∀ s d n, homesOpen s = true → d < 8 → (s.md d).timeFaultSince = none →
      (n ≤ 1 → exec (.timeCheck (.memory d) (some n)) s = .next s) ∧
      (1 < n → ∃ s', exec (.timeCheck (.memory d) (some n)) s = .next s' ∧ s'.md d = { s.md d with timeFaultSince := some s.now } ∧ s'.ms = s.ms) ∧
      (∃ s', exec (.timeCheck (.memory d) none) s = .next s' ∧ s'.md d = { s.md d with timeFaultSince := some s.now } ∧ s'.ms = s.ms)) ∧
    (∀ s d, homesOpen s = true → d < 8 → ∃ s', exec (.timeRelock (.memory d)) s = .next s' ∧ s'.md d = { s.md d with timeFaultSince := none } ∧
      (∀ h ∈ s'.ms.held, h.info.cause ≠ 0) ∧ ((∀ h ∈ s.ms.held, h.info.cause ≠ 0) → s' = { s with mds := s'.mds })) ∧
    (∀ s d n, homesOpen s = true → (s.md d).timeFaultSince = some n → ∃ s', exec (.timeFaultTimeout d) s = .next s' ∧ s'.ms = s.ms ∧
      s'.agenda = if n + 100000 ≤ s.now then s.agenda ++ [.event (.partitionReset d)] else s.agenda) ∧
    (∀ s, ∃ s', exec .iodReferenceLoss s = .next s' ∧ s' = { State.reset with free := s.free, nextId := s.nextId, banks := s.banks, agenda := s.agenda.filter outside })) ∧
  ((∀ s link m lane, m < modulesOf link → (link, m) ∉ s.mg.modulesOff → let used := (s.mg.lanes.filter (fun x => x.1 = link && x.2.1 = m)).length
      ∃ s', exec (.ucieLaneRepair link m lane) s = .next s' ∧
        (used < Config.spareLanes link → s' = { s with mg := { s.mg with lanes := s.mg.lanes ++ [(link, m, lane)] } }) ∧
        (Config.spareLanes link ≤ used → 25 ≤ link → s' = { s with mg := { s.mg with modulesOff := s.mg.modulesOff ++ [(link, m)] } })) ∧
    (∀ s port, port < 144 → port ∉ s.mg.portsDown → ∃ s', exec (.furrowPortDown port) s = .next s' ∧
      s' = { s with mg := { s.mg with portsDown := s.mg.portsDown ++ [port] } }) ∧
    (∀ s v e t, (s.vd v).state ≠ 0 → e < 256 → bit (endpointWords s v e).1 63 = true → bits (endpointWords s v e).2 47 40 ≠ 0 → s.now < t →
      ∃ s', exec (.furrowReservationRenew v e t) s = .next s' ∧ s' = { s with mg := { s.mg with flows := s'.mg.flows } } ∧ ((v, e), t) ∈ s'.mg.flows ∧
        ∀ f ∈ s'.mg.flows, f.1 = (v, e) → f.2 = t))

/-- Supply loss and the hold-up sequence (R377 to R382, R389): issue stops; 20 µs on, with nothing under way, the homes freeze and, with no
set admitted when the supply was lost, power goes; an image written whole is sealed as power goes; the supply's return is a cold reset
that keeps the banks, one during the sequence once it has ended. That memory then reads as at reset, and that nothing happens on a return
with power on, are the model's (log entries 1 and 55). The commands for saved images (R393, R394): HUQUERY answers the bank's directory,
HUCLEAR unseals it, and HURESTORE takes only a created or suspended device and an item the bank has, and writes a whole item's bytes, a
torn one's good chunks and nothing of an absent one. HUQUERY's zero fill is the model's choice (log entry 54). -/
def Obligations.HoldUp : Prop :=
  ((∀ s, s.power = .on → ∃ s', exec .supplyLoss s = .next s' ∧ s'.power = .stopping s.now ∧ (s'.armed = true ↔ s.musts ≠ []) ∧ (∀ c, (s'.core c).slot = none) ∧ s'.ms = s.ms ∧ s'.threads = s.threads) ∧
    (∀ s n, s.power = .stopping n → (s.now < n + 20000 ∨ onTheWay s = true) → exec .holdupFreeze s = .next s) ∧
    (∀ s n, s.power = .stopping n → n + 20000 ≤ s.now → onTheWay s = false → ∃ s', exec .holdupFreeze s = .next s' ∧
      s'.threads = [] ∧ s'.teams = [] ∧ s'.ms.versions = [] ∧ s'.now = s.now ∧ (s.armed = false → s'.power = .off ∧ s'.banks = s.banks) ∧
      (s.ms.versions = [] → s.ms.badSymbols = [] → s'.ms.mem = s.ms.mem)) ∧
    (∀ s a b n bk, s.power = .saving a b → saveBank s = some n → n < 2 → s.bank n = bk → ∃ s', exec .holdupSeal s = .next s' ∧
      s'.power = .off ∧ s'.bank n = (if sealable n bk then { bk with sealcrc := crc32c bk.sealed, sealseq := bk.seq } else bk) ∧ (∀ m, m ≠ n → s'.bank m = s.bank m) ∧
      ∀ e, s.supplyBack = some e → s'.agenda = .event (.supplyReturn e) :: s.agenda) ∧
    (∀ s e, s.power ≠ .on → s.power ≠ .off → exec (.supplyReturn e) s = .next { s with supplyBack := some e }) ∧
    (∀ s e, s.power = .off → ∃ s', exec (.supplyReturn e) s = .next s' ∧ s'.power = .on ∧ s'.mg.ecap = min 0xFFFF e ∧ s'.banks = s.banks ∧ s'.now = 0 ∧
      s'.mg.ready = false ∧ s'.threads = [] ∧ s'.ms = State.reset.ms) ∧
    (∀ s e, s.power = .on → exec (.supplyReturn e) s = .next s) ∧
    (∀ s e, ∃ s', exec (.bankMeasure e) s = .next s' ∧ s'.mg.ecap = min 0xFFFF e ∧ s'.banks = s.banks ∧ s'.ms = s.ms)) ∧
  (∀ s, s.power = .on → s.mg.ready = true → s.mg.mcqhead ≠ s.mg.mcqtail →
    (∀ n, ∃ s', exec (.huquery n) s = .next s' ∧ Reported s s' 0x10 0 0 ∧ s'.mg.replies = s.mg.replies ++ [{ vd := 0, status := .success, bytes := queryBytes (s.bank n) }] ∧
      s'.banks = s.banks ∧ s'.ms = s.ms) ∧
    (∀ n, n < 2 → ∃ s', exec (.huclear n) s = .next s' ∧ Reported s s' 0x12 0 0 ∧ s'.bank n = { s.bank n with sealseq := 0, sealcrc := 0 } ∧
      (∀ m, m ≠ n → s'.bank m = s.bank m) ∧ s'.ms = s.ms) ∧
    (∀ n i v, InTurn s v → anyHolds s = false → ((s.vd v).state ≠ 1 ∧ (s.vd v).state ≠ 3) ∨ (s.bank n).nitem ≤ i → ∃ s', exec (.hurestore n i v) s = .next s' ∧ Reported s s' 0x11 v 1 ∧ s'.ms = s.ms) ∧
    (∀ n i v x, InTurn s v → anyHolds s = false → (s.vd v).state = 1 ∨ (s.vd v).state = 3 → i < (s.bank n).nitem → (s.bank n).bad = false → (s.bank n).items[i]? = some x →
      let bk := s.bank n
      let bytes := if (bk.itemState x).1 = 0 then memRange bk.data x.doff x.bytes
        else if (bk.itemState x).1 = 1 then memRange bk.data x.doff (min x.bytes (65536 * (bk.itemState x).2)) else []
      let w := devWrite (takeCommand s) .iod v x.base bytes
      ∃ s', exec (.hurestore n i v) s = .next s' ∧ s'.ms = w.1.ms ∧ s'.banks = w.1.banks ∧
        Reported w.1 s' 0x11 v (if w.2.1.isNone && w.2.2.isNone then 0 else 3) ∧
        ((bk.itemState x).1 = 2 → Reported s s' 0x11 v 0 ∧ s'.ms = s.ms ∧ s'.banks = s.banks)))

/-- Which bank an image is written to (R390): never a bad one; the one that does not hold the sealed image of higher SEQ; bank 0 where neither
is sealed. Its SEQ is one more than the highest of any sealed bank, or 1; and when a bank is sealed. -/
def Obligations.ImageBanks : Prop :=
  (∀ b : Bank, b.isSealed = true ↔ b.ver = 1 ∧ b.nitem ≤ 4096 ∧ b.sealseq = b.seq ∧ b.sealcrc = crc32c b.sealed) ∧
  (∀ s, let b0 := s.bank 0
    let b1 := s.bank 1
    (∀ n, saveBank s = some n → n < 2 ∧ (s.bank n).bad = false) ∧
    (b0.bad = false → b1.bad = false →
      (b0.isSealed = false → b1.isSealed = false → saveBank s = some 0) ∧ (b0.isSealed = true → b1.isSealed = false → saveBank s = some 1) ∧
      (b0.isSealed = false → b1.isSealed = true → saveBank s = some 0) ∧
      (b0.isSealed = true → b1.isSealed = true → (b0.seq < b1.seq → saveBank s = some 0) ∧ (b1.seq < b0.seq → saveBank s = some 1))) ∧
    (∀ n, n < 2 → (s.bank n).isSealed = true → (s.bank n).seq < nextSeq s) ∧
    (b0.isSealed = false → b1.isSealed = false → nextSeq s = 1) ∧
    (∀ n, n < 2 → (s.bank n).isSealed = true → ∃ m, m < 2 ∧ (s.bank m).isSealed = true ∧ nextSeq s = (s.bank m).seq + 1)) ∧
  (∀ s tdet n, s.power = .stopping tdet → tdet + 20000 ≤ s.now → onTheWay s = false → s.armed = true → saveBank s = some n →
    ∃ s', exec .holdupFreeze s = .next s' ∧ (s'.bank n).ver = 1 ∧ (s'.bank n).seq = nextSeq s ∧ ∀ m, m ≠ n → s'.bank m = s.bank m)
end

