-- ==== Sys2Proof/Laws/State.lean ====
section
/-!
SUPPORT. What each named update of the state and of a thread leaves alone: one lemma per field and update.
-/

namespace Sys2Proof.Machine

/-! State.modThr. -/

@[simp] theorem State.modThr_free (s : State) (k : ThrKey) (f : Thread → Thread) : (s.modThr k f).free = s.free := rfl
@[simp] theorem State.modThr_nextId (s : State) (k : ThrKey) (f : Thread → Thread) : (s.modThr k f).nextId = s.nextId := rfl
@[simp] theorem State.modThr_agenda (s : State) (k : ThrKey) (f : Thread → Thread) : (s.modThr k f).agenda = s.agenda := rfl
@[simp] theorem State.modThr_cur (s : State) (k : ThrKey) (f : Thread → Thread) : (s.modThr k f).cur = s.cur := rfl
@[simp] theorem State.modThr_now (s : State) (k : ThrKey) (f : Thread → Thread) : (s.modThr k f).now = s.now := rfl
@[simp] theorem State.modThr_power (s : State) (k : ThrKey) (f : Thread → Thread) : (s.modThr k f).power = s.power := rfl
@[simp] theorem State.modThr_armed (s : State) (k : ThrKey) (f : Thread → Thread) : (s.modThr k f).armed = s.armed := rfl
@[simp] theorem State.modThr_supplyBack (s : State) (k : ThrKey) (f : Thread → Thread) : (s.modThr k f).supplyBack = s.supplyBack := rfl
@[simp] theorem State.modThr_dies (s : State) (k : ThrKey) (f : Thread → Thread) : (s.modThr k f).dies = s.dies := rfl
@[simp] theorem State.modThr_mds (s : State) (k : ThrKey) (f : Thread → Thread) : (s.modThr k f).mds = s.mds := rfl
@[simp] theorem State.modThr_parts (s : State) (k : ThrKey) (f : Thread → Thread) : (s.modThr k f).parts = s.parts := rfl
@[simp] theorem State.modThr_ms (s : State) (k : ThrKey) (f : Thread → Thread) : (s.modThr k f).ms = s.ms := rfl
@[simp] theorem State.modThr_vds (s : State) (k : ThrKey) (f : Thread → Thread) : (s.modThr k f).vds = s.vds := rfl
@[simp] theorem State.modThr_launches (s : State) (k : ThrKey) (f : Thread → Thread) : (s.modThr k f).launches = s.launches := rfl
@[simp] theorem State.modThr_teams (s : State) (k : ThrKey) (f : Thread → Thread) : (s.modThr k f).teams = s.teams := rfl
@[simp] theorem State.modThr_cores (s : State) (k : ThrKey) (f : Thread → Thread) : (s.modThr k f).cores = s.cores := rfl
@[simp] theorem State.modThr_clusters (s : State) (k : ThrKey) (f : Thread → Thread) : (s.modThr k f).clusters = s.clusters := rfl
@[simp] theorem State.modThr_ops (s : State) (k : ThrKey) (f : Thread → Thread) : (s.modThr k f).ops = s.ops := rfl
@[simp] theorem State.modThr_mg (s : State) (k : ThrKey) (f : Thread → Thread) : (s.modThr k f).mg = s.mg := rfl
@[simp] theorem State.modThr_musts (s : State) (k : ThrKey) (f : Thread → Thread) : (s.modThr k f).musts = s.musts := rfl
@[simp] theorem State.modThr_banks (s : State) (k : ThrKey) (f : Thread → Thread) : (s.modThr k f).banks = s.banks := rfl
@[simp] theorem State.modThr_upsets (s : State) (k : ThrKey) (f : Thread → Thread) : (s.modThr k f).upsets = s.upsets := rfl

/-! State.putThr. -/

@[simp] theorem State.putThr_free (s : State) (t : Thread) : (s.putThr t).free = s.free := rfl
@[simp] theorem State.putThr_nextId (s : State) (t : Thread) : (s.putThr t).nextId = s.nextId := rfl
@[simp] theorem State.putThr_agenda (s : State) (t : Thread) : (s.putThr t).agenda = s.agenda := rfl
@[simp] theorem State.putThr_cur (s : State) (t : Thread) : (s.putThr t).cur = s.cur := rfl
@[simp] theorem State.putThr_now (s : State) (t : Thread) : (s.putThr t).now = s.now := rfl
@[simp] theorem State.putThr_power (s : State) (t : Thread) : (s.putThr t).power = s.power := rfl
@[simp] theorem State.putThr_armed (s : State) (t : Thread) : (s.putThr t).armed = s.armed := rfl
@[simp] theorem State.putThr_supplyBack (s : State) (t : Thread) : (s.putThr t).supplyBack = s.supplyBack := rfl
@[simp] theorem State.putThr_dies (s : State) (t : Thread) : (s.putThr t).dies = s.dies := rfl
@[simp] theorem State.putThr_mds (s : State) (t : Thread) : (s.putThr t).mds = s.mds := rfl
@[simp] theorem State.putThr_parts (s : State) (t : Thread) : (s.putThr t).parts = s.parts := rfl
@[simp] theorem State.putThr_ms (s : State) (t : Thread) : (s.putThr t).ms = s.ms := rfl
@[simp] theorem State.putThr_vds (s : State) (t : Thread) : (s.putThr t).vds = s.vds := rfl
@[simp] theorem State.putThr_launches (s : State) (t : Thread) : (s.putThr t).launches = s.launches := rfl
@[simp] theorem State.putThr_teams (s : State) (t : Thread) : (s.putThr t).teams = s.teams := rfl
@[simp] theorem State.putThr_cores (s : State) (t : Thread) : (s.putThr t).cores = s.cores := rfl
@[simp] theorem State.putThr_clusters (s : State) (t : Thread) : (s.putThr t).clusters = s.clusters := rfl
@[simp] theorem State.putThr_ops (s : State) (t : Thread) : (s.putThr t).ops = s.ops := rfl
@[simp] theorem State.putThr_mg (s : State) (t : Thread) : (s.putThr t).mg = s.mg := rfl
@[simp] theorem State.putThr_musts (s : State) (t : Thread) : (s.putThr t).musts = s.musts := rfl
@[simp] theorem State.putThr_banks (s : State) (t : Thread) : (s.putThr t).banks = s.banks := rfl
@[simp] theorem State.putThr_upsets (s : State) (t : Thread) : (s.putThr t).upsets = s.upsets := rfl

/-! State.modTeam. -/

@[simp] theorem State.modTeam_free (s : State) (k : TeamKey) (f : Team → Team) : (s.modTeam k f).free = s.free := rfl
@[simp] theorem State.modTeam_nextId (s : State) (k : TeamKey) (f : Team → Team) : (s.modTeam k f).nextId = s.nextId := rfl
@[simp] theorem State.modTeam_agenda (s : State) (k : TeamKey) (f : Team → Team) : (s.modTeam k f).agenda = s.agenda := rfl
@[simp] theorem State.modTeam_cur (s : State) (k : TeamKey) (f : Team → Team) : (s.modTeam k f).cur = s.cur := rfl
@[simp] theorem State.modTeam_now (s : State) (k : TeamKey) (f : Team → Team) : (s.modTeam k f).now = s.now := rfl
@[simp] theorem State.modTeam_power (s : State) (k : TeamKey) (f : Team → Team) : (s.modTeam k f).power = s.power := rfl
@[simp] theorem State.modTeam_armed (s : State) (k : TeamKey) (f : Team → Team) : (s.modTeam k f).armed = s.armed := rfl
@[simp] theorem State.modTeam_supplyBack (s : State) (k : TeamKey) (f : Team → Team) : (s.modTeam k f).supplyBack = s.supplyBack := rfl
@[simp] theorem State.modTeam_dies (s : State) (k : TeamKey) (f : Team → Team) : (s.modTeam k f).dies = s.dies := rfl
@[simp] theorem State.modTeam_mds (s : State) (k : TeamKey) (f : Team → Team) : (s.modTeam k f).mds = s.mds := rfl
@[simp] theorem State.modTeam_parts (s : State) (k : TeamKey) (f : Team → Team) : (s.modTeam k f).parts = s.parts := rfl
@[simp] theorem State.modTeam_ms (s : State) (k : TeamKey) (f : Team → Team) : (s.modTeam k f).ms = s.ms := rfl
@[simp] theorem State.modTeam_vds (s : State) (k : TeamKey) (f : Team → Team) : (s.modTeam k f).vds = s.vds := rfl
@[simp] theorem State.modTeam_launches (s : State) (k : TeamKey) (f : Team → Team) : (s.modTeam k f).launches = s.launches := rfl
@[simp] theorem State.modTeam_threads (s : State) (k : TeamKey) (f : Team → Team) : (s.modTeam k f).threads = s.threads := rfl
@[simp] theorem State.modTeam_cores (s : State) (k : TeamKey) (f : Team → Team) : (s.modTeam k f).cores = s.cores := rfl
@[simp] theorem State.modTeam_clusters (s : State) (k : TeamKey) (f : Team → Team) : (s.modTeam k f).clusters = s.clusters := rfl
@[simp] theorem State.modTeam_ops (s : State) (k : TeamKey) (f : Team → Team) : (s.modTeam k f).ops = s.ops := rfl
@[simp] theorem State.modTeam_mg (s : State) (k : TeamKey) (f : Team → Team) : (s.modTeam k f).mg = s.mg := rfl
@[simp] theorem State.modTeam_musts (s : State) (k : TeamKey) (f : Team → Team) : (s.modTeam k f).musts = s.musts := rfl
@[simp] theorem State.modTeam_banks (s : State) (k : TeamKey) (f : Team → Team) : (s.modTeam k f).banks = s.banks := rfl
@[simp] theorem State.modTeam_upsets (s : State) (k : TeamKey) (f : Team → Team) : (s.modTeam k f).upsets = s.upsets := rfl

/-! State.modLaunch. -/

@[simp] theorem State.modLaunch_free (s : State) (n : Nat) (f : Launch → Launch) : (s.modLaunch n f).free = s.free := rfl
@[simp] theorem State.modLaunch_nextId (s : State) (n : Nat) (f : Launch → Launch) : (s.modLaunch n f).nextId = s.nextId := rfl
@[simp] theorem State.modLaunch_agenda (s : State) (n : Nat) (f : Launch → Launch) : (s.modLaunch n f).agenda = s.agenda := rfl
@[simp] theorem State.modLaunch_cur (s : State) (n : Nat) (f : Launch → Launch) : (s.modLaunch n f).cur = s.cur := rfl
@[simp] theorem State.modLaunch_now (s : State) (n : Nat) (f : Launch → Launch) : (s.modLaunch n f).now = s.now := rfl
@[simp] theorem State.modLaunch_power (s : State) (n : Nat) (f : Launch → Launch) : (s.modLaunch n f).power = s.power := rfl
@[simp] theorem State.modLaunch_armed (s : State) (n : Nat) (f : Launch → Launch) : (s.modLaunch n f).armed = s.armed := rfl
@[simp] theorem State.modLaunch_supplyBack (s : State) (n : Nat) (f : Launch → Launch) : (s.modLaunch n f).supplyBack = s.supplyBack := rfl
@[simp] theorem State.modLaunch_dies (s : State) (n : Nat) (f : Launch → Launch) : (s.modLaunch n f).dies = s.dies := rfl
@[simp] theorem State.modLaunch_mds (s : State) (n : Nat) (f : Launch → Launch) : (s.modLaunch n f).mds = s.mds := rfl
@[simp] theorem State.modLaunch_parts (s : State) (n : Nat) (f : Launch → Launch) : (s.modLaunch n f).parts = s.parts := rfl
@[simp] theorem State.modLaunch_ms (s : State) (n : Nat) (f : Launch → Launch) : (s.modLaunch n f).ms = s.ms := rfl
@[simp] theorem State.modLaunch_vds (s : State) (n : Nat) (f : Launch → Launch) : (s.modLaunch n f).vds = s.vds := rfl
@[simp] theorem State.modLaunch_teams (s : State) (n : Nat) (f : Launch → Launch) : (s.modLaunch n f).teams = s.teams := rfl
@[simp] theorem State.modLaunch_threads (s : State) (n : Nat) (f : Launch → Launch) : (s.modLaunch n f).threads = s.threads := rfl
@[simp] theorem State.modLaunch_cores (s : State) (n : Nat) (f : Launch → Launch) : (s.modLaunch n f).cores = s.cores := rfl
@[simp] theorem State.modLaunch_clusters (s : State) (n : Nat) (f : Launch → Launch) : (s.modLaunch n f).clusters = s.clusters := rfl
@[simp] theorem State.modLaunch_ops (s : State) (n : Nat) (f : Launch → Launch) : (s.modLaunch n f).ops = s.ops := rfl
@[simp] theorem State.modLaunch_mg (s : State) (n : Nat) (f : Launch → Launch) : (s.modLaunch n f).mg = s.mg := rfl
@[simp] theorem State.modLaunch_musts (s : State) (n : Nat) (f : Launch → Launch) : (s.modLaunch n f).musts = s.musts := rfl
@[simp] theorem State.modLaunch_banks (s : State) (n : Nat) (f : Launch → Launch) : (s.modLaunch n f).banks = s.banks := rfl
@[simp] theorem State.modLaunch_upsets (s : State) (n : Nat) (f : Launch → Launch) : (s.modLaunch n f).upsets = s.upsets := rfl

/-! State.modVd. -/

@[simp] theorem State.modVd_free (s : State) (v : Nat) (f : VDev → VDev) : (s.modVd v f).free = s.free := rfl
@[simp] theorem State.modVd_nextId (s : State) (v : Nat) (f : VDev → VDev) : (s.modVd v f).nextId = s.nextId := rfl
@[simp] theorem State.modVd_agenda (s : State) (v : Nat) (f : VDev → VDev) : (s.modVd v f).agenda = s.agenda := rfl
@[simp] theorem State.modVd_cur (s : State) (v : Nat) (f : VDev → VDev) : (s.modVd v f).cur = s.cur := rfl
@[simp] theorem State.modVd_now (s : State) (v : Nat) (f : VDev → VDev) : (s.modVd v f).now = s.now := rfl
@[simp] theorem State.modVd_power (s : State) (v : Nat) (f : VDev → VDev) : (s.modVd v f).power = s.power := rfl
@[simp] theorem State.modVd_armed (s : State) (v : Nat) (f : VDev → VDev) : (s.modVd v f).armed = s.armed := rfl
@[simp] theorem State.modVd_supplyBack (s : State) (v : Nat) (f : VDev → VDev) : (s.modVd v f).supplyBack = s.supplyBack := rfl
@[simp] theorem State.modVd_dies (s : State) (v : Nat) (f : VDev → VDev) : (s.modVd v f).dies = s.dies := rfl
@[simp] theorem State.modVd_mds (s : State) (v : Nat) (f : VDev → VDev) : (s.modVd v f).mds = s.mds := rfl
@[simp] theorem State.modVd_parts (s : State) (v : Nat) (f : VDev → VDev) : (s.modVd v f).parts = s.parts := rfl
@[simp] theorem State.modVd_ms (s : State) (v : Nat) (f : VDev → VDev) : (s.modVd v f).ms = s.ms := rfl
@[simp] theorem State.modVd_launches (s : State) (v : Nat) (f : VDev → VDev) : (s.modVd v f).launches = s.launches := rfl
@[simp] theorem State.modVd_teams (s : State) (v : Nat) (f : VDev → VDev) : (s.modVd v f).teams = s.teams := rfl
@[simp] theorem State.modVd_threads (s : State) (v : Nat) (f : VDev → VDev) : (s.modVd v f).threads = s.threads := rfl
@[simp] theorem State.modVd_cores (s : State) (v : Nat) (f : VDev → VDev) : (s.modVd v f).cores = s.cores := rfl
@[simp] theorem State.modVd_clusters (s : State) (v : Nat) (f : VDev → VDev) : (s.modVd v f).clusters = s.clusters := rfl
@[simp] theorem State.modVd_ops (s : State) (v : Nat) (f : VDev → VDev) : (s.modVd v f).ops = s.ops := rfl
@[simp] theorem State.modVd_mg (s : State) (v : Nat) (f : VDev → VDev) : (s.modVd v f).mg = s.mg := rfl
@[simp] theorem State.modVd_musts (s : State) (v : Nat) (f : VDev → VDev) : (s.modVd v f).musts = s.musts := rfl
@[simp] theorem State.modVd_banks (s : State) (v : Nat) (f : VDev → VDev) : (s.modVd v f).banks = s.banks := rfl
@[simp] theorem State.modVd_upsets (s : State) (v : Nat) (f : VDev → VDev) : (s.modVd v f).upsets = s.upsets := rfl

/-! State.modQueue. -/

@[simp] theorem State.modQueue_free (s : State) (v j : Nat) (f : Queue → Queue) : (s.modQueue v j f).free = s.free := rfl
@[simp] theorem State.modQueue_nextId (s : State) (v j : Nat) (f : Queue → Queue) : (s.modQueue v j f).nextId = s.nextId := rfl
@[simp] theorem State.modQueue_agenda (s : State) (v j : Nat) (f : Queue → Queue) : (s.modQueue v j f).agenda = s.agenda := rfl
@[simp] theorem State.modQueue_cur (s : State) (v j : Nat) (f : Queue → Queue) : (s.modQueue v j f).cur = s.cur := rfl
@[simp] theorem State.modQueue_now (s : State) (v j : Nat) (f : Queue → Queue) : (s.modQueue v j f).now = s.now := rfl
@[simp] theorem State.modQueue_power (s : State) (v j : Nat) (f : Queue → Queue) : (s.modQueue v j f).power = s.power := rfl
@[simp] theorem State.modQueue_armed (s : State) (v j : Nat) (f : Queue → Queue) : (s.modQueue v j f).armed = s.armed := rfl
@[simp] theorem State.modQueue_supplyBack (s : State) (v j : Nat) (f : Queue → Queue) : (s.modQueue v j f).supplyBack = s.supplyBack := rfl
@[simp] theorem State.modQueue_dies (s : State) (v j : Nat) (f : Queue → Queue) : (s.modQueue v j f).dies = s.dies := rfl
@[simp] theorem State.modQueue_mds (s : State) (v j : Nat) (f : Queue → Queue) : (s.modQueue v j f).mds = s.mds := rfl
@[simp] theorem State.modQueue_parts (s : State) (v j : Nat) (f : Queue → Queue) : (s.modQueue v j f).parts = s.parts := rfl
@[simp] theorem State.modQueue_ms (s : State) (v j : Nat) (f : Queue → Queue) : (s.modQueue v j f).ms = s.ms := rfl
@[simp] theorem State.modQueue_launches (s : State) (v j : Nat) (f : Queue → Queue) : (s.modQueue v j f).launches = s.launches := rfl
@[simp] theorem State.modQueue_teams (s : State) (v j : Nat) (f : Queue → Queue) : (s.modQueue v j f).teams = s.teams := rfl
@[simp] theorem State.modQueue_threads (s : State) (v j : Nat) (f : Queue → Queue) : (s.modQueue v j f).threads = s.threads := rfl
@[simp] theorem State.modQueue_cores (s : State) (v j : Nat) (f : Queue → Queue) : (s.modQueue v j f).cores = s.cores := rfl
@[simp] theorem State.modQueue_clusters (s : State) (v j : Nat) (f : Queue → Queue) : (s.modQueue v j f).clusters = s.clusters := rfl
@[simp] theorem State.modQueue_ops (s : State) (v j : Nat) (f : Queue → Queue) : (s.modQueue v j f).ops = s.ops := rfl
@[simp] theorem State.modQueue_mg (s : State) (v j : Nat) (f : Queue → Queue) : (s.modQueue v j f).mg = s.mg := rfl
@[simp] theorem State.modQueue_musts (s : State) (v j : Nat) (f : Queue → Queue) : (s.modQueue v j f).musts = s.musts := rfl
@[simp] theorem State.modQueue_banks (s : State) (v j : Nat) (f : Queue → Queue) : (s.modQueue v j f).banks = s.banks := rfl
@[simp] theorem State.modQueue_upsets (s : State) (v j : Nat) (f : Queue → Queue) : (s.modQueue v j f).upsets = s.upsets := rfl

/-! State.putCore. -/

@[simp] theorem State.putCore_free (s : State) (c : Nat) (x : Core) : (s.putCore c x).free = s.free := rfl
@[simp] theorem State.putCore_nextId (s : State) (c : Nat) (x : Core) : (s.putCore c x).nextId = s.nextId := rfl
@[simp] theorem State.putCore_agenda (s : State) (c : Nat) (x : Core) : (s.putCore c x).agenda = s.agenda := rfl
@[simp] theorem State.putCore_cur (s : State) (c : Nat) (x : Core) : (s.putCore c x).cur = s.cur := rfl
@[simp] theorem State.putCore_now (s : State) (c : Nat) (x : Core) : (s.putCore c x).now = s.now := rfl
@[simp] theorem State.putCore_power (s : State) (c : Nat) (x : Core) : (s.putCore c x).power = s.power := rfl
@[simp] theorem State.putCore_armed (s : State) (c : Nat) (x : Core) : (s.putCore c x).armed = s.armed := rfl
@[simp] theorem State.putCore_supplyBack (s : State) (c : Nat) (x : Core) : (s.putCore c x).supplyBack = s.supplyBack := rfl
@[simp] theorem State.putCore_dies (s : State) (c : Nat) (x : Core) : (s.putCore c x).dies = s.dies := rfl
@[simp] theorem State.putCore_mds (s : State) (c : Nat) (x : Core) : (s.putCore c x).mds = s.mds := rfl
@[simp] theorem State.putCore_parts (s : State) (c : Nat) (x : Core) : (s.putCore c x).parts = s.parts := rfl
@[simp] theorem State.putCore_ms (s : State) (c : Nat) (x : Core) : (s.putCore c x).ms = s.ms := rfl
@[simp] theorem State.putCore_vds (s : State) (c : Nat) (x : Core) : (s.putCore c x).vds = s.vds := rfl
@[simp] theorem State.putCore_launches (s : State) (c : Nat) (x : Core) : (s.putCore c x).launches = s.launches := rfl
@[simp] theorem State.putCore_teams (s : State) (c : Nat) (x : Core) : (s.putCore c x).teams = s.teams := rfl
@[simp] theorem State.putCore_threads (s : State) (c : Nat) (x : Core) : (s.putCore c x).threads = s.threads := rfl
@[simp] theorem State.putCore_clusters (s : State) (c : Nat) (x : Core) : (s.putCore c x).clusters = s.clusters := rfl
@[simp] theorem State.putCore_ops (s : State) (c : Nat) (x : Core) : (s.putCore c x).ops = s.ops := rfl
@[simp] theorem State.putCore_mg (s : State) (c : Nat) (x : Core) : (s.putCore c x).mg = s.mg := rfl
@[simp] theorem State.putCore_musts (s : State) (c : Nat) (x : Core) : (s.putCore c x).musts = s.musts := rfl
@[simp] theorem State.putCore_banks (s : State) (c : Nat) (x : Core) : (s.putCore c x).banks = s.banks := rfl
@[simp] theorem State.putCore_upsets (s : State) (c : Nat) (x : Core) : (s.putCore c x).upsets = s.upsets := rfl

/-! State.unslot. -/

@[simp] theorem State.unslot_free (s : State) (k : ThrKey) : (s.unslot k).free = s.free := rfl
@[simp] theorem State.unslot_nextId (s : State) (k : ThrKey) : (s.unslot k).nextId = s.nextId := rfl
@[simp] theorem State.unslot_agenda (s : State) (k : ThrKey) : (s.unslot k).agenda = s.agenda := rfl
@[simp] theorem State.unslot_cur (s : State) (k : ThrKey) : (s.unslot k).cur = s.cur := rfl
@[simp] theorem State.unslot_now (s : State) (k : ThrKey) : (s.unslot k).now = s.now := rfl
@[simp] theorem State.unslot_power (s : State) (k : ThrKey) : (s.unslot k).power = s.power := rfl
@[simp] theorem State.unslot_armed (s : State) (k : ThrKey) : (s.unslot k).armed = s.armed := rfl
@[simp] theorem State.unslot_supplyBack (s : State) (k : ThrKey) : (s.unslot k).supplyBack = s.supplyBack := rfl
@[simp] theorem State.unslot_dies (s : State) (k : ThrKey) : (s.unslot k).dies = s.dies := rfl
@[simp] theorem State.unslot_mds (s : State) (k : ThrKey) : (s.unslot k).mds = s.mds := rfl
@[simp] theorem State.unslot_parts (s : State) (k : ThrKey) : (s.unslot k).parts = s.parts := rfl
@[simp] theorem State.unslot_ms (s : State) (k : ThrKey) : (s.unslot k).ms = s.ms := rfl
@[simp] theorem State.unslot_vds (s : State) (k : ThrKey) : (s.unslot k).vds = s.vds := rfl
@[simp] theorem State.unslot_launches (s : State) (k : ThrKey) : (s.unslot k).launches = s.launches := rfl
@[simp] theorem State.unslot_teams (s : State) (k : ThrKey) : (s.unslot k).teams = s.teams := rfl
@[simp] theorem State.unslot_threads (s : State) (k : ThrKey) : (s.unslot k).threads = s.threads := rfl
@[simp] theorem State.unslot_clusters (s : State) (k : ThrKey) : (s.unslot k).clusters = s.clusters := rfl
@[simp] theorem State.unslot_ops (s : State) (k : ThrKey) : (s.unslot k).ops = s.ops := rfl
@[simp] theorem State.unslot_mg (s : State) (k : ThrKey) : (s.unslot k).mg = s.mg := rfl
@[simp] theorem State.unslot_musts (s : State) (k : ThrKey) : (s.unslot k).musts = s.musts := rfl
@[simp] theorem State.unslot_banks (s : State) (k : ThrKey) : (s.unslot k).banks = s.banks := rfl
@[simp] theorem State.unslot_upsets (s : State) (k : ThrKey) : (s.unslot k).upsets = s.upsets := rfl

/-! State.modCluster. -/

@[simp] theorem State.modCluster_free (s : State) (c : Nat) (f : Cluster → Cluster) : (s.modCluster c f).free = s.free := rfl
@[simp] theorem State.modCluster_nextId (s : State) (c : Nat) (f : Cluster → Cluster) : (s.modCluster c f).nextId = s.nextId := rfl
@[simp] theorem State.modCluster_agenda (s : State) (c : Nat) (f : Cluster → Cluster) : (s.modCluster c f).agenda = s.agenda := rfl
@[simp] theorem State.modCluster_cur (s : State) (c : Nat) (f : Cluster → Cluster) : (s.modCluster c f).cur = s.cur := rfl
@[simp] theorem State.modCluster_now (s : State) (c : Nat) (f : Cluster → Cluster) : (s.modCluster c f).now = s.now := rfl
@[simp] theorem State.modCluster_power (s : State) (c : Nat) (f : Cluster → Cluster) : (s.modCluster c f).power = s.power := rfl
@[simp] theorem State.modCluster_armed (s : State) (c : Nat) (f : Cluster → Cluster) : (s.modCluster c f).armed = s.armed := rfl
@[simp] theorem State.modCluster_supplyBack (s : State) (c : Nat) (f : Cluster → Cluster) : (s.modCluster c f).supplyBack = s.supplyBack := rfl
@[simp] theorem State.modCluster_dies (s : State) (c : Nat) (f : Cluster → Cluster) : (s.modCluster c f).dies = s.dies := rfl
@[simp] theorem State.modCluster_mds (s : State) (c : Nat) (f : Cluster → Cluster) : (s.modCluster c f).mds = s.mds := rfl
@[simp] theorem State.modCluster_parts (s : State) (c : Nat) (f : Cluster → Cluster) : (s.modCluster c f).parts = s.parts := rfl
@[simp] theorem State.modCluster_ms (s : State) (c : Nat) (f : Cluster → Cluster) : (s.modCluster c f).ms = s.ms := rfl
@[simp] theorem State.modCluster_vds (s : State) (c : Nat) (f : Cluster → Cluster) : (s.modCluster c f).vds = s.vds := rfl
@[simp] theorem State.modCluster_launches (s : State) (c : Nat) (f : Cluster → Cluster) : (s.modCluster c f).launches = s.launches := rfl
@[simp] theorem State.modCluster_teams (s : State) (c : Nat) (f : Cluster → Cluster) : (s.modCluster c f).teams = s.teams := rfl
@[simp] theorem State.modCluster_threads (s : State) (c : Nat) (f : Cluster → Cluster) : (s.modCluster c f).threads = s.threads := rfl
@[simp] theorem State.modCluster_cores (s : State) (c : Nat) (f : Cluster → Cluster) : (s.modCluster c f).cores = s.cores := rfl
@[simp] theorem State.modCluster_ops (s : State) (c : Nat) (f : Cluster → Cluster) : (s.modCluster c f).ops = s.ops := rfl
@[simp] theorem State.modCluster_mg (s : State) (c : Nat) (f : Cluster → Cluster) : (s.modCluster c f).mg = s.mg := rfl
@[simp] theorem State.modCluster_musts (s : State) (c : Nat) (f : Cluster → Cluster) : (s.modCluster c f).musts = s.musts := rfl
@[simp] theorem State.modCluster_banks (s : State) (c : Nat) (f : Cluster → Cluster) : (s.modCluster c f).banks = s.banks := rfl
@[simp] theorem State.modCluster_upsets (s : State) (c : Nat) (f : Cluster → Cluster) : (s.modCluster c f).upsets = s.upsets := rfl

/-! State.modDie. -/

@[simp] theorem State.modDie_free (s : State) (d : Nat) (f : Die → Die) : (s.modDie d f).free = s.free := rfl
@[simp] theorem State.modDie_nextId (s : State) (d : Nat) (f : Die → Die) : (s.modDie d f).nextId = s.nextId := rfl
@[simp] theorem State.modDie_agenda (s : State) (d : Nat) (f : Die → Die) : (s.modDie d f).agenda = s.agenda := rfl
@[simp] theorem State.modDie_cur (s : State) (d : Nat) (f : Die → Die) : (s.modDie d f).cur = s.cur := rfl
@[simp] theorem State.modDie_now (s : State) (d : Nat) (f : Die → Die) : (s.modDie d f).now = s.now := rfl
@[simp] theorem State.modDie_power (s : State) (d : Nat) (f : Die → Die) : (s.modDie d f).power = s.power := rfl
@[simp] theorem State.modDie_armed (s : State) (d : Nat) (f : Die → Die) : (s.modDie d f).armed = s.armed := rfl
@[simp] theorem State.modDie_supplyBack (s : State) (d : Nat) (f : Die → Die) : (s.modDie d f).supplyBack = s.supplyBack := rfl
@[simp] theorem State.modDie_mds (s : State) (d : Nat) (f : Die → Die) : (s.modDie d f).mds = s.mds := rfl
@[simp] theorem State.modDie_parts (s : State) (d : Nat) (f : Die → Die) : (s.modDie d f).parts = s.parts := rfl
@[simp] theorem State.modDie_ms (s : State) (d : Nat) (f : Die → Die) : (s.modDie d f).ms = s.ms := rfl
@[simp] theorem State.modDie_vds (s : State) (d : Nat) (f : Die → Die) : (s.modDie d f).vds = s.vds := rfl
@[simp] theorem State.modDie_launches (s : State) (d : Nat) (f : Die → Die) : (s.modDie d f).launches = s.launches := rfl
@[simp] theorem State.modDie_teams (s : State) (d : Nat) (f : Die → Die) : (s.modDie d f).teams = s.teams := rfl
@[simp] theorem State.modDie_threads (s : State) (d : Nat) (f : Die → Die) : (s.modDie d f).threads = s.threads := rfl
@[simp] theorem State.modDie_cores (s : State) (d : Nat) (f : Die → Die) : (s.modDie d f).cores = s.cores := rfl
@[simp] theorem State.modDie_clusters (s : State) (d : Nat) (f : Die → Die) : (s.modDie d f).clusters = s.clusters := rfl
@[simp] theorem State.modDie_ops (s : State) (d : Nat) (f : Die → Die) : (s.modDie d f).ops = s.ops := rfl
@[simp] theorem State.modDie_mg (s : State) (d : Nat) (f : Die → Die) : (s.modDie d f).mg = s.mg := rfl
@[simp] theorem State.modDie_musts (s : State) (d : Nat) (f : Die → Die) : (s.modDie d f).musts = s.musts := rfl
@[simp] theorem State.modDie_banks (s : State) (d : Nat) (f : Die → Die) : (s.modDie d f).banks = s.banks := rfl
@[simp] theorem State.modDie_upsets (s : State) (d : Nat) (f : Die → Die) : (s.modDie d f).upsets = s.upsets := rfl

/-! State.modMd. -/

@[simp] theorem State.modMd_free (s : State) (d : Nat) (f : MemDie → MemDie) : (s.modMd d f).free = s.free := rfl
@[simp] theorem State.modMd_nextId (s : State) (d : Nat) (f : MemDie → MemDie) : (s.modMd d f).nextId = s.nextId := rfl
@[simp] theorem State.modMd_agenda (s : State) (d : Nat) (f : MemDie → MemDie) : (s.modMd d f).agenda = s.agenda := rfl
@[simp] theorem State.modMd_cur (s : State) (d : Nat) (f : MemDie → MemDie) : (s.modMd d f).cur = s.cur := rfl
@[simp] theorem State.modMd_now (s : State) (d : Nat) (f : MemDie → MemDie) : (s.modMd d f).now = s.now := rfl
@[simp] theorem State.modMd_power (s : State) (d : Nat) (f : MemDie → MemDie) : (s.modMd d f).power = s.power := rfl
@[simp] theorem State.modMd_armed (s : State) (d : Nat) (f : MemDie → MemDie) : (s.modMd d f).armed = s.armed := rfl
@[simp] theorem State.modMd_supplyBack (s : State) (d : Nat) (f : MemDie → MemDie) : (s.modMd d f).supplyBack = s.supplyBack := rfl
@[simp] theorem State.modMd_dies (s : State) (d : Nat) (f : MemDie → MemDie) : (s.modMd d f).dies = s.dies := rfl
@[simp] theorem State.modMd_parts (s : State) (d : Nat) (f : MemDie → MemDie) : (s.modMd d f).parts = s.parts := rfl
@[simp] theorem State.modMd_ms (s : State) (d : Nat) (f : MemDie → MemDie) : (s.modMd d f).ms = s.ms := rfl
@[simp] theorem State.modMd_vds (s : State) (d : Nat) (f : MemDie → MemDie) : (s.modMd d f).vds = s.vds := rfl
@[simp] theorem State.modMd_launches (s : State) (d : Nat) (f : MemDie → MemDie) : (s.modMd d f).launches = s.launches := rfl
@[simp] theorem State.modMd_teams (s : State) (d : Nat) (f : MemDie → MemDie) : (s.modMd d f).teams = s.teams := rfl
@[simp] theorem State.modMd_threads (s : State) (d : Nat) (f : MemDie → MemDie) : (s.modMd d f).threads = s.threads := rfl
@[simp] theorem State.modMd_cores (s : State) (d : Nat) (f : MemDie → MemDie) : (s.modMd d f).cores = s.cores := rfl
@[simp] theorem State.modMd_clusters (s : State) (d : Nat) (f : MemDie → MemDie) : (s.modMd d f).clusters = s.clusters := rfl
@[simp] theorem State.modMd_ops (s : State) (d : Nat) (f : MemDie → MemDie) : (s.modMd d f).ops = s.ops := rfl
@[simp] theorem State.modMd_mg (s : State) (d : Nat) (f : MemDie → MemDie) : (s.modMd d f).mg = s.mg := rfl
@[simp] theorem State.modMd_musts (s : State) (d : Nat) (f : MemDie → MemDie) : (s.modMd d f).musts = s.musts := rfl
@[simp] theorem State.modMd_banks (s : State) (d : Nat) (f : MemDie → MemDie) : (s.modMd d f).banks = s.banks := rfl
@[simp] theorem State.modMd_upsets (s : State) (d : Nat) (f : MemDie → MemDie) : (s.modMd d f).upsets = s.upsets := rfl

/-! State.toStream. -/

@[simp] theorem State.toStream_free (s : State) (v : Nat) (r : Rec) : (s.toStream v r).free = s.free := rfl
@[simp] theorem State.toStream_nextId (s : State) (v : Nat) (r : Rec) : (s.toStream v r).nextId = s.nextId := rfl
@[simp] theorem State.toStream_agenda (s : State) (v : Nat) (r : Rec) : (s.toStream v r).agenda = s.agenda := rfl
@[simp] theorem State.toStream_cur (s : State) (v : Nat) (r : Rec) : (s.toStream v r).cur = s.cur := rfl
@[simp] theorem State.toStream_now (s : State) (v : Nat) (r : Rec) : (s.toStream v r).now = s.now := rfl
@[simp] theorem State.toStream_power (s : State) (v : Nat) (r : Rec) : (s.toStream v r).power = s.power := rfl
@[simp] theorem State.toStream_armed (s : State) (v : Nat) (r : Rec) : (s.toStream v r).armed = s.armed := rfl
@[simp] theorem State.toStream_supplyBack (s : State) (v : Nat) (r : Rec) : (s.toStream v r).supplyBack = s.supplyBack := rfl
@[simp] theorem State.toStream_dies (s : State) (v : Nat) (r : Rec) : (s.toStream v r).dies = s.dies := rfl
@[simp] theorem State.toStream_mds (s : State) (v : Nat) (r : Rec) : (s.toStream v r).mds = s.mds := rfl
@[simp] theorem State.toStream_parts (s : State) (v : Nat) (r : Rec) : (s.toStream v r).parts = s.parts := rfl
@[simp] theorem State.toStream_ms (s : State) (v : Nat) (r : Rec) : (s.toStream v r).ms = s.ms := rfl
@[simp] theorem State.toStream_vds (s : State) (v : Nat) (r : Rec) : (s.toStream v r).vds = s.vds := rfl
@[simp] theorem State.toStream_launches (s : State) (v : Nat) (r : Rec) : (s.toStream v r).launches = s.launches := rfl
@[simp] theorem State.toStream_teams (s : State) (v : Nat) (r : Rec) : (s.toStream v r).teams = s.teams := rfl
@[simp] theorem State.toStream_threads (s : State) (v : Nat) (r : Rec) : (s.toStream v r).threads = s.threads := rfl
@[simp] theorem State.toStream_cores (s : State) (v : Nat) (r : Rec) : (s.toStream v r).cores = s.cores := rfl
@[simp] theorem State.toStream_clusters (s : State) (v : Nat) (r : Rec) : (s.toStream v r).clusters = s.clusters := rfl
@[simp] theorem State.toStream_ops (s : State) (v : Nat) (r : Rec) : (s.toStream v r).ops = s.ops := rfl
@[simp] theorem State.toStream_musts (s : State) (v : Nat) (r : Rec) : (s.toStream v r).musts = s.musts := rfl
@[simp] theorem State.toStream_banks (s : State) (v : Nat) (r : Rec) : (s.toStream v r).banks = s.banks := rfl
@[simp] theorem State.toStream_upsets (s : State) (v : Nat) (r : Rec) : (s.toStream v r).upsets = s.upsets := rfl

/-! State.event. -/

@[simp] theorem State.event_free (s : State) (v kind a b : Nat) : (s.event v kind a b).free = s.free := rfl
@[simp] theorem State.event_nextId (s : State) (v kind a b : Nat) : (s.event v kind a b).nextId = s.nextId := rfl
@[simp] theorem State.event_agenda (s : State) (v kind a b : Nat) : (s.event v kind a b).agenda = s.agenda := rfl
@[simp] theorem State.event_cur (s : State) (v kind a b : Nat) : (s.event v kind a b).cur = s.cur := rfl
@[simp] theorem State.event_now (s : State) (v kind a b : Nat) : (s.event v kind a b).now = s.now := rfl
@[simp] theorem State.event_power (s : State) (v kind a b : Nat) : (s.event v kind a b).power = s.power := rfl
@[simp] theorem State.event_armed (s : State) (v kind a b : Nat) : (s.event v kind a b).armed = s.armed := rfl
@[simp] theorem State.event_supplyBack (s : State) (v kind a b : Nat) : (s.event v kind a b).supplyBack = s.supplyBack := rfl
@[simp] theorem State.event_dies (s : State) (v kind a b : Nat) : (s.event v kind a b).dies = s.dies := rfl
@[simp] theorem State.event_mds (s : State) (v kind a b : Nat) : (s.event v kind a b).mds = s.mds := rfl
@[simp] theorem State.event_parts (s : State) (v kind a b : Nat) : (s.event v kind a b).parts = s.parts := rfl
@[simp] theorem State.event_ms (s : State) (v kind a b : Nat) : (s.event v kind a b).ms = s.ms := rfl
@[simp] theorem State.event_vds (s : State) (v kind a b : Nat) : (s.event v kind a b).vds = s.vds := rfl
@[simp] theorem State.event_launches (s : State) (v kind a b : Nat) : (s.event v kind a b).launches = s.launches := rfl
@[simp] theorem State.event_teams (s : State) (v kind a b : Nat) : (s.event v kind a b).teams = s.teams := rfl
@[simp] theorem State.event_threads (s : State) (v kind a b : Nat) : (s.event v kind a b).threads = s.threads := rfl
@[simp] theorem State.event_cores (s : State) (v kind a b : Nat) : (s.event v kind a b).cores = s.cores := rfl
@[simp] theorem State.event_clusters (s : State) (v kind a b : Nat) : (s.event v kind a b).clusters = s.clusters := rfl
@[simp] theorem State.event_ops (s : State) (v kind a b : Nat) : (s.event v kind a b).ops = s.ops := rfl
@[simp] theorem State.event_musts (s : State) (v kind a b : Nat) : (s.event v kind a b).musts = s.musts := rfl
@[simp] theorem State.event_banks (s : State) (v kind a b : Nat) : (s.event v kind a b).banks = s.banks := rfl
@[simp] theorem State.event_upsets (s : State) (v kind a b : Nat) : (s.event v kind a b).upsets = s.upsets := rfl

/-! State.putHome. -/

/-- Only the lease tables of the homes change, and their floors. -/
theorem State.putHome_rest (s : State) (n : Nat) (h : HomeLine) :
    s.putHome n h = { s with ms := (s.putHome n h).ms, mds := (s.putHome n h).mds } := by
  unfold State.putHome dropHome
  simp only
  split
  · split <;> rfl
  · rfl

@[simp] theorem State.putHome_free (s : State) (n : Nat) (h : HomeLine) : (s.putHome n h).free = s.free := by rw [State.putHome_rest]
@[simp] theorem State.putHome_nextId (s : State) (n : Nat) (h : HomeLine) : (s.putHome n h).nextId = s.nextId := by rw [State.putHome_rest]
@[simp] theorem State.putHome_agenda (s : State) (n : Nat) (h : HomeLine) : (s.putHome n h).agenda = s.agenda := by rw [State.putHome_rest]
@[simp] theorem State.putHome_cur (s : State) (n : Nat) (h : HomeLine) : (s.putHome n h).cur = s.cur := by rw [State.putHome_rest]
@[simp] theorem State.putHome_now (s : State) (n : Nat) (h : HomeLine) : (s.putHome n h).now = s.now := by rw [State.putHome_rest]
@[simp] theorem State.putHome_power (s : State) (n : Nat) (h : HomeLine) : (s.putHome n h).power = s.power := by rw [State.putHome_rest]
@[simp] theorem State.putHome_armed (s : State) (n : Nat) (h : HomeLine) : (s.putHome n h).armed = s.armed := by rw [State.putHome_rest]
@[simp] theorem State.putHome_supplyBack (s : State) (n : Nat) (h : HomeLine) : (s.putHome n h).supplyBack = s.supplyBack := by rw [State.putHome_rest]
@[simp] theorem State.putHome_dies (s : State) (n : Nat) (h : HomeLine) : (s.putHome n h).dies = s.dies := by rw [State.putHome_rest]
@[simp] theorem State.putHome_parts (s : State) (n : Nat) (h : HomeLine) : (s.putHome n h).parts = s.parts := by rw [State.putHome_rest]
@[simp] theorem State.putHome_vds (s : State) (n : Nat) (h : HomeLine) : (s.putHome n h).vds = s.vds := by rw [State.putHome_rest]
@[simp] theorem State.putHome_launches (s : State) (n : Nat) (h : HomeLine) : (s.putHome n h).launches = s.launches := by rw [State.putHome_rest]
@[simp] theorem State.putHome_teams (s : State) (n : Nat) (h : HomeLine) : (s.putHome n h).teams = s.teams := by rw [State.putHome_rest]
@[simp] theorem State.putHome_threads (s : State) (n : Nat) (h : HomeLine) : (s.putHome n h).threads = s.threads := by rw [State.putHome_rest]
@[simp] theorem State.putHome_cores (s : State) (n : Nat) (h : HomeLine) : (s.putHome n h).cores = s.cores := by rw [State.putHome_rest]
@[simp] theorem State.putHome_clusters (s : State) (n : Nat) (h : HomeLine) : (s.putHome n h).clusters = s.clusters := by rw [State.putHome_rest]
@[simp] theorem State.putHome_ops (s : State) (n : Nat) (h : HomeLine) : (s.putHome n h).ops = s.ops := by rw [State.putHome_rest]
@[simp] theorem State.putHome_mg (s : State) (n : Nat) (h : HomeLine) : (s.putHome n h).mg = s.mg := by rw [State.putHome_rest]
@[simp] theorem State.putHome_musts (s : State) (n : Nat) (h : HomeLine) : (s.putHome n h).musts = s.musts := by rw [State.putHome_rest]
@[simp] theorem State.putHome_banks (s : State) (n : Nat) (h : HomeLine) : (s.putHome n h).banks = s.banks := by rw [State.putHome_rest]
@[simp] theorem State.putHome_upsets (s : State) (n : Nat) (h : HomeLine) : (s.putHome n h).upsets = s.upsets := by rw [State.putHome_rest]

/-! State.pokeBytes. -/

@[simp] theorem State.pokeBytes_free (s : State) (a : Nat) (bs : List Byte) : (s.pokeBytes a bs).free = s.free := rfl
@[simp] theorem State.pokeBytes_nextId (s : State) (a : Nat) (bs : List Byte) : (s.pokeBytes a bs).nextId = s.nextId := rfl
@[simp] theorem State.pokeBytes_agenda (s : State) (a : Nat) (bs : List Byte) : (s.pokeBytes a bs).agenda = s.agenda := rfl
@[simp] theorem State.pokeBytes_cur (s : State) (a : Nat) (bs : List Byte) : (s.pokeBytes a bs).cur = s.cur := rfl
@[simp] theorem State.pokeBytes_now (s : State) (a : Nat) (bs : List Byte) : (s.pokeBytes a bs).now = s.now := rfl
@[simp] theorem State.pokeBytes_power (s : State) (a : Nat) (bs : List Byte) : (s.pokeBytes a bs).power = s.power := rfl
@[simp] theorem State.pokeBytes_armed (s : State) (a : Nat) (bs : List Byte) : (s.pokeBytes a bs).armed = s.armed := rfl
@[simp] theorem State.pokeBytes_supplyBack (s : State) (a : Nat) (bs : List Byte) : (s.pokeBytes a bs).supplyBack = s.supplyBack := rfl
@[simp] theorem State.pokeBytes_dies (s : State) (a : Nat) (bs : List Byte) : (s.pokeBytes a bs).dies = s.dies := rfl
@[simp] theorem State.pokeBytes_mds (s : State) (a : Nat) (bs : List Byte) : (s.pokeBytes a bs).mds = s.mds := rfl
@[simp] theorem State.pokeBytes_parts (s : State) (a : Nat) (bs : List Byte) : (s.pokeBytes a bs).parts = s.parts := rfl
@[simp] theorem State.pokeBytes_vds (s : State) (a : Nat) (bs : List Byte) : (s.pokeBytes a bs).vds = s.vds := rfl
@[simp] theorem State.pokeBytes_launches (s : State) (a : Nat) (bs : List Byte) : (s.pokeBytes a bs).launches = s.launches := rfl
@[simp] theorem State.pokeBytes_teams (s : State) (a : Nat) (bs : List Byte) : (s.pokeBytes a bs).teams = s.teams := rfl
@[simp] theorem State.pokeBytes_threads (s : State) (a : Nat) (bs : List Byte) : (s.pokeBytes a bs).threads = s.threads := rfl
@[simp] theorem State.pokeBytes_cores (s : State) (a : Nat) (bs : List Byte) : (s.pokeBytes a bs).cores = s.cores := rfl
@[simp] theorem State.pokeBytes_clusters (s : State) (a : Nat) (bs : List Byte) : (s.pokeBytes a bs).clusters = s.clusters := rfl
@[simp] theorem State.pokeBytes_ops (s : State) (a : Nat) (bs : List Byte) : (s.pokeBytes a bs).ops = s.ops := rfl
@[simp] theorem State.pokeBytes_mg (s : State) (a : Nat) (bs : List Byte) : (s.pokeBytes a bs).mg = s.mg := rfl
@[simp] theorem State.pokeBytes_musts (s : State) (a : Nat) (bs : List Byte) : (s.pokeBytes a bs).musts = s.musts := rfl
@[simp] theorem State.pokeBytes_banks (s : State) (a : Nat) (bs : List Byte) : (s.pokeBytes a bs).banks = s.banks := rfl
@[simp] theorem State.pokeBytes_upsets (s : State) (a : Nat) (bs : List Byte) : (s.pokeBytes a bs).upsets = s.upsets := rfl

/-! State.addVersion. -/

@[simp] theorem State.addVersion_free (s : State) (tw : Nat) (c : List Host.Cell) (cl : List Nat) (w : Option ThrKey) (x : List Nat) : (s.addVersion tw c cl w x).free = s.free := rfl
@[simp] theorem State.addVersion_nextId (s : State) (tw : Nat) (c : List Host.Cell) (cl : List Nat) (w : Option ThrKey) (x : List Nat) : (s.addVersion tw c cl w x).nextId = s.nextId := rfl
@[simp] theorem State.addVersion_agenda (s : State) (tw : Nat) (c : List Host.Cell) (cl : List Nat) (w : Option ThrKey) (x : List Nat) : (s.addVersion tw c cl w x).agenda = s.agenda := rfl
@[simp] theorem State.addVersion_cur (s : State) (tw : Nat) (c : List Host.Cell) (cl : List Nat) (w : Option ThrKey) (x : List Nat) : (s.addVersion tw c cl w x).cur = s.cur := rfl
@[simp] theorem State.addVersion_now (s : State) (tw : Nat) (c : List Host.Cell) (cl : List Nat) (w : Option ThrKey) (x : List Nat) : (s.addVersion tw c cl w x).now = s.now := rfl
@[simp] theorem State.addVersion_power (s : State) (tw : Nat) (c : List Host.Cell) (cl : List Nat) (w : Option ThrKey) (x : List Nat) : (s.addVersion tw c cl w x).power = s.power := rfl
@[simp] theorem State.addVersion_armed (s : State) (tw : Nat) (c : List Host.Cell) (cl : List Nat) (w : Option ThrKey) (x : List Nat) : (s.addVersion tw c cl w x).armed = s.armed := rfl
@[simp] theorem State.addVersion_supplyBack (s : State) (tw : Nat) (c : List Host.Cell) (cl : List Nat) (w : Option ThrKey) (x : List Nat) : (s.addVersion tw c cl w x).supplyBack = s.supplyBack := rfl
@[simp] theorem State.addVersion_dies (s : State) (tw : Nat) (c : List Host.Cell) (cl : List Nat) (w : Option ThrKey) (x : List Nat) : (s.addVersion tw c cl w x).dies = s.dies := rfl
@[simp] theorem State.addVersion_mds (s : State) (tw : Nat) (c : List Host.Cell) (cl : List Nat) (w : Option ThrKey) (x : List Nat) : (s.addVersion tw c cl w x).mds = s.mds := rfl
@[simp] theorem State.addVersion_parts (s : State) (tw : Nat) (c : List Host.Cell) (cl : List Nat) (w : Option ThrKey) (x : List Nat) : (s.addVersion tw c cl w x).parts = s.parts := rfl
@[simp] theorem State.addVersion_vds (s : State) (tw : Nat) (c : List Host.Cell) (cl : List Nat) (w : Option ThrKey) (x : List Nat) : (s.addVersion tw c cl w x).vds = s.vds := rfl
@[simp] theorem State.addVersion_launches (s : State) (tw : Nat) (c : List Host.Cell) (cl : List Nat) (w : Option ThrKey) (x : List Nat) : (s.addVersion tw c cl w x).launches = s.launches := rfl
@[simp] theorem State.addVersion_teams (s : State) (tw : Nat) (c : List Host.Cell) (cl : List Nat) (w : Option ThrKey) (x : List Nat) : (s.addVersion tw c cl w x).teams = s.teams := rfl
@[simp] theorem State.addVersion_threads (s : State) (tw : Nat) (c : List Host.Cell) (cl : List Nat) (w : Option ThrKey) (x : List Nat) : (s.addVersion tw c cl w x).threads = s.threads := rfl
@[simp] theorem State.addVersion_cores (s : State) (tw : Nat) (c : List Host.Cell) (cl : List Nat) (w : Option ThrKey) (x : List Nat) : (s.addVersion tw c cl w x).cores = s.cores := rfl
@[simp] theorem State.addVersion_clusters (s : State) (tw : Nat) (c : List Host.Cell) (cl : List Nat) (w : Option ThrKey) (x : List Nat) : (s.addVersion tw c cl w x).clusters = s.clusters := rfl
@[simp] theorem State.addVersion_ops (s : State) (tw : Nat) (c : List Host.Cell) (cl : List Nat) (w : Option ThrKey) (x : List Nat) : (s.addVersion tw c cl w x).ops = s.ops := rfl
@[simp] theorem State.addVersion_mg (s : State) (tw : Nat) (c : List Host.Cell) (cl : List Nat) (w : Option ThrKey) (x : List Nat) : (s.addVersion tw c cl w x).mg = s.mg := rfl
@[simp] theorem State.addVersion_musts (s : State) (tw : Nat) (c : List Host.Cell) (cl : List Nat) (w : Option ThrKey) (x : List Nat) : (s.addVersion tw c cl w x).musts = s.musts := rfl
@[simp] theorem State.addVersion_banks (s : State) (tw : Nat) (c : List Host.Cell) (cl : List Nat) (w : Option ThrKey) (x : List Nat) : (s.addVersion tw c cl w x).banks = s.banks := rfl
@[simp] theorem State.addVersion_upsets (s : State) (tw : Nat) (c : List Host.Cell) (cl : List Nat) (w : Option ThrKey) (x : List Nat) : (s.addVersion tw c cl w x).upsets = s.upsets := rfl

/-! Thread.writeV. -/

@[simp] theorem Thread.writeV_key (t : Thread) (i : Nat) (x : Word) : (t.writeV i x).key = t.key := rfl
@[simp] theorem Thread.writeV_vd (t : Thread) (i : Nat) (x : Word) : (t.writeV i x).vd = t.vd := rfl
@[simp] theorem Thread.writeV_consumer (t : Thread) (i : Nat) (x : Word) : (t.writeV i x).consumer = t.consumer := rfl
@[simp] theorem Thread.writeV_budget (t : Thread) (i : Nat) (x : Word) : (t.writeV i x).budget = t.budget := rfl
@[simp] theorem Thread.writeV_detached (t : Thread) (i : Nat) (x : Word) : (t.writeV i x).detached = t.detached := rfl
@[simp] theorem Thread.writeV_clus (t : Thread) (i : Nat) (x : Word) : (t.writeV i x).clus = t.clus := rfl
@[simp] theorem Thread.writeV_st (t : Thread) (i : Nat) (x : Word) : (t.writeV i x).st = t.st := rfl
@[simp] theorem Thread.writeV_pc (t : Thread) (i : Nat) (x : Word) : (t.writeV i x).pc = t.pc := rfl
@[simp] theorem Thread.writeV_cpos (t : Thread) (i : Nat) (x : Word) : (t.writeV i x).cpos = t.cpos := rfl
@[simp] theorem Thread.writeV_repa (t : Thread) (i : Nat) (x : Word) : (t.writeV i x).repa = t.repa := rfl
@[simp] theorem Thread.writeV_repn (t : Thread) (i : Nat) (x : Word) : (t.writeV i x).repn = t.repn := rfl
@[simp] theorem Thread.writeV_repc (t : Thread) (i : Nat) (x : Word) : (t.writeV i x).repc = t.repc := rfl
@[simp] theorem Thread.writeV_repsd (t : Thread) (i : Nat) (x : Word) : (t.writeV i x).repsd = t.repsd := rfl
@[simp] theorem Thread.writeV_repsa (t : Thread) (i : Nat) (x : Word) : (t.writeV i x).repsa = t.repsa := rfl
@[simp] theorem Thread.writeV_repsb (t : Thread) (i : Nat) (x : Word) : (t.writeV i x).repsb = t.repsb := rfl
@[simp] theorem Thread.writeV_repsc (t : Thread) (i : Nat) (x : Word) : (t.writeV i x).repsc = t.repsc := rfl
@[simp] theorem Thread.writeV_arrv (t : Thread) (i : Nat) (x : Word) : (t.writeV i x).arrv = t.arrv := rfl
@[simp] theorem Thread.writeV_bpar (t : Thread) (i : Nat) (x : Word) : (t.writeV i x).bpar = t.bpar := rfl
@[simp] theorem Thread.writeV_aph (t : Thread) (i : Nat) (x : Word) : (t.writeV i x).aph = t.aph := rfl
@[simp] theorem Thread.writeV_pred (t : Thread) (i : Nat) (x : Word) : (t.writeV i x).pred = t.pred := rfl
@[simp] theorem Thread.writeV_flags (t : Thread) (i : Nat) (x : Word) : (t.writeV i x).flags = t.flags := rfl
@[simp] theorem Thread.writeV_twowed (t : Thread) (i : Nat) (x : Word) : (t.writeV i x).twowed = t.twowed := rfl
@[simp] theorem Thread.writeV_pfen (t : Thread) (i : Nat) (x : Word) : (t.writeV i x).pfen = t.pfen := rfl
@[simp] theorem Thread.writeV_pfsc (t : Thread) (i : Nat) (x : Word) : (t.writeV i x).pfsc = t.pfsc := rfl
@[simp] theorem Thread.writeV_pfsrc (t : Thread) (i : Nat) (x : Word) : (t.writeV i x).pfsrc = t.pfsrc := rfl
@[simp] theorem Thread.writeV_pfdst (t : Thread) (i : Nat) (x : Word) : (t.writeV i x).pfdst = t.pfdst := rfl
@[simp] theorem Thread.writeV_pfid (t : Thread) (i : Nat) (x : Word) : (t.writeV i x).pfid = t.pfid := rfl
@[simp] theorem Thread.writeV_pfx (t : Thread) (i : Nat) (x : Word) : (t.writeV i x).pfx = t.pfx := rfl
@[simp] theorem Thread.writeV_tcpos (t : Thread) (i : Nat) (x : Word) : (t.writeV i x).tcpos = t.tcpos := rfl
@[simp] theorem Thread.writeV_tact (t : Thread) (i : Nat) (x : Word) : (t.writeV i x).tact = t.tact := rfl
@[simp] theorem Thread.writeV_tcause (t : Thread) (i : Nat) (x : Word) : (t.writeV i x).tcause = t.tcause := rfl
@[simp] theorem Thread.writeV_trpc (t : Thread) (i : Nat) (x : Word) : (t.writeV i x).trpc = t.trpc := rfl
@[simp] theorem Thread.writeV_created (t : Thread) (i : Nat) (x : Word) : (t.writeV i x).created = t.created := rfl
@[simp] theorem Thread.writeV_used (t : Thread) (i : Nat) (x : Word) : (t.writeV i x).used = t.used := rfl
@[simp] theorem Thread.writeV_pins (t : Thread) (i : Nat) (x : Word) : (t.writeV i x).pins = t.pins := rfl
@[simp] theorem Thread.writeV_gen (t : Thread) (i : Nat) (x : Word) : (t.writeV i x).gen = t.gen := rfl
@[simp] theorem Thread.writeV_idleSince (t : Thread) (i : Nat) (x : Word) : (t.writeV i x).idleSince = t.idleSince := rfl
@[simp] theorem Thread.writeV_atHead (t : Thread) (i : Nat) (x : Word) : (t.writeV i x).atHead = t.atHead := rfl
@[simp] theorem Thread.writeV_landing (t : Thread) (i : Nat) (x : Word) : (t.writeV i x).landing = t.landing := rfl
@[simp] theorem Thread.writeV_since (t : Thread) (i : Nat) (x : Word) : (t.writeV i x).since = t.since := rfl
@[simp] theorem Thread.writeV_aged (t : Thread) (i : Nat) (x : Word) : (t.writeV i x).aged = t.aged := rfl
@[simp] theorem Thread.writeV_barrier (t : Thread) (i : Nat) (x : Word) : (t.writeV i x).barrier = t.barrier := rfl
@[simp] theorem Thread.writeV_releaseAt (t : Thread) (i : Nat) (x : Word) : (t.writeV i x).releaseAt = t.releaseAt := rfl
@[simp] theorem Thread.writeV_yieldUntil (t : Thread) (i : Nat) (x : Word) : (t.writeV i x).yieldUntil = t.yieldUntil := rfl
@[simp] theorem Thread.writeV_yieldHint (t : Thread) (i : Nat) (x : Word) : (t.writeV i x).yieldHint = t.yieldHint := rfl
@[simp] theorem Thread.writeV_waitUntil (t : Thread) (i : Nat) (x : Word) : (t.writeV i x).waitUntil = t.waitUntil := rfl
@[simp] theorem Thread.writeV_ereted (t : Thread) (i : Nat) (x : Word) : (t.writeV i x).ereted = t.ereted := rfl
@[simp] theorem Thread.writeV_migTo (t : Thread) (i : Nat) (x : Word) : (t.writeV i x).migTo = t.migTo := rfl
@[simp] theorem Thread.writeV_migSince (t : Thread) (i : Nat) (x : Word) : (t.writeV i x).migSince = t.migSince := rfl
@[simp] theorem Thread.writeV_haltReq (t : Thread) (i : Nat) (x : Word) : (t.writeV i x).haltReq = t.haltReq := rfl
@[simp] theorem Thread.writeV_brkCode (t : Thread) (i : Nat) (x : Word) : (t.writeV i x).brkCode = t.brkCode := rfl
@[simp] theorem Thread.writeV_due (t : Thread) (i : Nat) (x : Word) : (t.writeV i x).due = t.due := rfl
@[simp] theorem Thread.writeV_undelivered (t : Thread) (i : Nat) (x : Word) : (t.writeV i x).undelivered = t.undelivered := rfl
@[simp] theorem Thread.writeV_faultPending (t : Thread) (i : Nat) (x : Word) : (t.writeV i x).faultPending = t.faultPending := rfl
@[simp] theorem Thread.writeV_retrying (t : Thread) (i : Nat) (x : Word) : (t.writeV i x).retrying = t.retrying := rfl
@[simp] theorem Thread.writeV_owed (t : Thread) (i : Nat) (x : Word) : (t.writeV i x).owed = t.owed := rfl

/-! Thread.writeP. -/

@[simp] theorem Thread.writeP_key (t : Thread) (i : Nat) (x : Byte) : (t.writeP i x).key = t.key := rfl
@[simp] theorem Thread.writeP_vd (t : Thread) (i : Nat) (x : Byte) : (t.writeP i x).vd = t.vd := rfl
@[simp] theorem Thread.writeP_consumer (t : Thread) (i : Nat) (x : Byte) : (t.writeP i x).consumer = t.consumer := rfl
@[simp] theorem Thread.writeP_budget (t : Thread) (i : Nat) (x : Byte) : (t.writeP i x).budget = t.budget := rfl
@[simp] theorem Thread.writeP_detached (t : Thread) (i : Nat) (x : Byte) : (t.writeP i x).detached = t.detached := rfl
@[simp] theorem Thread.writeP_clus (t : Thread) (i : Nat) (x : Byte) : (t.writeP i x).clus = t.clus := rfl
@[simp] theorem Thread.writeP_st (t : Thread) (i : Nat) (x : Byte) : (t.writeP i x).st = t.st := rfl
@[simp] theorem Thread.writeP_pc (t : Thread) (i : Nat) (x : Byte) : (t.writeP i x).pc = t.pc := rfl
@[simp] theorem Thread.writeP_cpos (t : Thread) (i : Nat) (x : Byte) : (t.writeP i x).cpos = t.cpos := rfl
@[simp] theorem Thread.writeP_repa (t : Thread) (i : Nat) (x : Byte) : (t.writeP i x).repa = t.repa := rfl
@[simp] theorem Thread.writeP_repn (t : Thread) (i : Nat) (x : Byte) : (t.writeP i x).repn = t.repn := rfl
@[simp] theorem Thread.writeP_repc (t : Thread) (i : Nat) (x : Byte) : (t.writeP i x).repc = t.repc := rfl
@[simp] theorem Thread.writeP_repsd (t : Thread) (i : Nat) (x : Byte) : (t.writeP i x).repsd = t.repsd := rfl
@[simp] theorem Thread.writeP_repsa (t : Thread) (i : Nat) (x : Byte) : (t.writeP i x).repsa = t.repsa := rfl
@[simp] theorem Thread.writeP_repsb (t : Thread) (i : Nat) (x : Byte) : (t.writeP i x).repsb = t.repsb := rfl
@[simp] theorem Thread.writeP_repsc (t : Thread) (i : Nat) (x : Byte) : (t.writeP i x).repsc = t.repsc := rfl
@[simp] theorem Thread.writeP_arrv (t : Thread) (i : Nat) (x : Byte) : (t.writeP i x).arrv = t.arrv := rfl
@[simp] theorem Thread.writeP_bpar (t : Thread) (i : Nat) (x : Byte) : (t.writeP i x).bpar = t.bpar := rfl
@[simp] theorem Thread.writeP_aph (t : Thread) (i : Nat) (x : Byte) : (t.writeP i x).aph = t.aph := rfl
@[simp] theorem Thread.writeP_flags (t : Thread) (i : Nat) (x : Byte) : (t.writeP i x).flags = t.flags := rfl
@[simp] theorem Thread.writeP_twowed (t : Thread) (i : Nat) (x : Byte) : (t.writeP i x).twowed = t.twowed := rfl
@[simp] theorem Thread.writeP_pfen (t : Thread) (i : Nat) (x : Byte) : (t.writeP i x).pfen = t.pfen := rfl
@[simp] theorem Thread.writeP_pfsc (t : Thread) (i : Nat) (x : Byte) : (t.writeP i x).pfsc = t.pfsc := rfl
@[simp] theorem Thread.writeP_pfsrc (t : Thread) (i : Nat) (x : Byte) : (t.writeP i x).pfsrc = t.pfsrc := rfl
@[simp] theorem Thread.writeP_pfdst (t : Thread) (i : Nat) (x : Byte) : (t.writeP i x).pfdst = t.pfdst := rfl
@[simp] theorem Thread.writeP_pfid (t : Thread) (i : Nat) (x : Byte) : (t.writeP i x).pfid = t.pfid := rfl
@[simp] theorem Thread.writeP_pfx (t : Thread) (i : Nat) (x : Byte) : (t.writeP i x).pfx = t.pfx := rfl
@[simp] theorem Thread.writeP_tcpos (t : Thread) (i : Nat) (x : Byte) : (t.writeP i x).tcpos = t.tcpos := rfl
@[simp] theorem Thread.writeP_tact (t : Thread) (i : Nat) (x : Byte) : (t.writeP i x).tact = t.tact := rfl
@[simp] theorem Thread.writeP_tcause (t : Thread) (i : Nat) (x : Byte) : (t.writeP i x).tcause = t.tcause := rfl
@[simp] theorem Thread.writeP_trpc (t : Thread) (i : Nat) (x : Byte) : (t.writeP i x).trpc = t.trpc := rfl
@[simp] theorem Thread.writeP_v (t : Thread) (i : Nat) (x : Byte) : (t.writeP i x).v = t.v := rfl
@[simp] theorem Thread.writeP_created (t : Thread) (i : Nat) (x : Byte) : (t.writeP i x).created = t.created := rfl
@[simp] theorem Thread.writeP_lines (t : Thread) (i : Nat) (x : Byte) : (t.writeP i x).lines = t.lines := rfl
@[simp] theorem Thread.writeP_used (t : Thread) (i : Nat) (x : Byte) : (t.writeP i x).used = t.used := rfl
@[simp] theorem Thread.writeP_pins (t : Thread) (i : Nat) (x : Byte) : (t.writeP i x).pins = t.pins := rfl
@[simp] theorem Thread.writeP_gen (t : Thread) (i : Nat) (x : Byte) : (t.writeP i x).gen = t.gen := rfl
@[simp] theorem Thread.writeP_idleSince (t : Thread) (i : Nat) (x : Byte) : (t.writeP i x).idleSince = t.idleSince := rfl
@[simp] theorem Thread.writeP_atHead (t : Thread) (i : Nat) (x : Byte) : (t.writeP i x).atHead = t.atHead := rfl
@[simp] theorem Thread.writeP_landing (t : Thread) (i : Nat) (x : Byte) : (t.writeP i x).landing = t.landing := rfl
@[simp] theorem Thread.writeP_since (t : Thread) (i : Nat) (x : Byte) : (t.writeP i x).since = t.since := rfl
@[simp] theorem Thread.writeP_aged (t : Thread) (i : Nat) (x : Byte) : (t.writeP i x).aged = t.aged := rfl
@[simp] theorem Thread.writeP_barrier (t : Thread) (i : Nat) (x : Byte) : (t.writeP i x).barrier = t.barrier := rfl
@[simp] theorem Thread.writeP_releaseAt (t : Thread) (i : Nat) (x : Byte) : (t.writeP i x).releaseAt = t.releaseAt := rfl
@[simp] theorem Thread.writeP_yieldUntil (t : Thread) (i : Nat) (x : Byte) : (t.writeP i x).yieldUntil = t.yieldUntil := rfl
@[simp] theorem Thread.writeP_yieldHint (t : Thread) (i : Nat) (x : Byte) : (t.writeP i x).yieldHint = t.yieldHint := rfl
@[simp] theorem Thread.writeP_waitUntil (t : Thread) (i : Nat) (x : Byte) : (t.writeP i x).waitUntil = t.waitUntil := rfl
@[simp] theorem Thread.writeP_ereted (t : Thread) (i : Nat) (x : Byte) : (t.writeP i x).ereted = t.ereted := rfl
@[simp] theorem Thread.writeP_migTo (t : Thread) (i : Nat) (x : Byte) : (t.writeP i x).migTo = t.migTo := rfl
@[simp] theorem Thread.writeP_migSince (t : Thread) (i : Nat) (x : Byte) : (t.writeP i x).migSince = t.migSince := rfl
@[simp] theorem Thread.writeP_haltReq (t : Thread) (i : Nat) (x : Byte) : (t.writeP i x).haltReq = t.haltReq := rfl
@[simp] theorem Thread.writeP_brkCode (t : Thread) (i : Nat) (x : Byte) : (t.writeP i x).brkCode = t.brkCode := rfl
@[simp] theorem Thread.writeP_due (t : Thread) (i : Nat) (x : Byte) : (t.writeP i x).due = t.due := rfl
@[simp] theorem Thread.writeP_undelivered (t : Thread) (i : Nat) (x : Byte) : (t.writeP i x).undelivered = t.undelivered := rfl
@[simp] theorem Thread.writeP_faultPending (t : Thread) (i : Nat) (x : Byte) : (t.writeP i x).faultPending = t.faultPending := rfl
@[simp] theorem Thread.writeP_retrying (t : Thread) (i : Nat) (x : Byte) : (t.writeP i x).retrying = t.retrying := rfl
@[simp] theorem Thread.writeP_owed (t : Thread) (i : Nat) (x : Byte) : (t.writeP i x).owed = t.owed := rfl

end Sys2Proof.Machine
end

