-- ==== Sys2Proof/Laws/Issue.lean ====
section
/-!
SUPPORT. What issuing does, once for all instructions: tables, threads found again after an update, the group that issues, the
position afterwards, and the results of the datapath forms.
-/

namespace Sys2Proof.Machine

/-! Tables and vectors. -/

theorem look_put_same {α : Type} (k : Nat) (x : α) (l : List (Nat × α)) : look k (put k x l) = some x := by
  induction l with
  | nil => simp [put, look]
  | cons p rest ih =>
    obtain ⟨j, a⟩ := p
    unfold put
    split
    · simp [look]
    · split
      · simp [look]
      · rename_i h
        simp [look, h, ih]

theorem look_put_other {α : Type} {k j : Nat} (h : j ≠ k) (x : α) (l : List (Nat × α)) : look j (put k x l) = look j l := by
  induction l with
  | nil => simp [put, look, Ne.symm h]
  | cons p rest ih =>
    obtain ⟨i, a⟩ := p
    unfold put
    split
    · simp [look, Ne.symm h]
    · split
      · rename_i hi
        subst hi
        simp [look, Ne.symm h]
      · simp only [look, ih]

theorem vget_vset {α : Type} {n : Nat} (v : Vector α n) (i j : Nat) (x d : α) :
    vget (vset v i x) j d = if i = j ∧ i < n then x else vget v j d := by
  unfold vget vset
  by_cases hi : i < n <;> by_cases hj : j < n <;> (simp [hi, hj, Vector.getElem_set]; try omega)

theorem vget_vset_same {α : Type} {n : Nat} (v : Vector α n) (i : Nat) (x d : α) (h : i < n) : vget (vset v i x) i d = x := by
  simp [vget_vset, h]

theorem vget_vset_other {α : Type} {n : Nat} (v : Vector α n) {i j : Nat} (x d : α) (h : i ≠ j) : vget (vset v i x) j d = vget v j d := by
  simp [vget_vset, h]

/-! Threads found again. -/

/-- An update that keeps the key of the threads it changes. -/
def KeepsKey (k : ThrKey) (f : Thread → Thread) : Prop := ∀ t, t.key = k → (f t).key = k

theorem find?_map_key (k k' : ThrKey) (f : Thread → Thread) (hf : KeepsKey k f) (l : List Thread) :
    (l.map (fun t => if t.key == k then f t else t)).find? (fun t => t.key == k') =
      (l.find? (fun t => t.key == k')).map (fun t => if t.key == k then f t else t) := by
  induction l with
  | nil => rfl
  | cons t rest ih =>
    have hk : (if t.key == k then f t else t).key = t.key := by
      split
      · rename_i h
        have h : t.key = k := by simpa using h
        rw [hf t h, h]
      · rfl
    rw [List.map_cons, List.find?_cons, List.find?_cons, hk]
    cases h : t.key == k' with
    | true => rfl
    | false => exact ih

/-- A thread after an update that keeps its key. -/
theorem State.thr?_modThr (s : State) (k k' : ThrKey) (f : Thread → Thread) (hf : KeepsKey k f) :
    (s.modThr k f).thr? k' = (s.thr? k').map (fun t => if t.key == k then f t else t) := find?_map_key k k' f hf s.threads

theorem State.thr?_key {s : State} {k : ThrKey} {t : Thread} (h : s.thr? k = some t) : t.key = k := by
  have := List.find?_some h
  simpa using this

theorem State.thr?_modThr_same {s : State} {k : ThrKey} {t : Thread} (h : s.thr? k = some t) (f : Thread → Thread) (hf : KeepsKey k f) :
    (s.modThr k f).thr? k = some (f t) := by
  rw [State.thr?_modThr s k k f hf, h]
  simp [State.thr?_key h]

theorem State.thr?_modThr_other {s : State} {k k' : ThrKey} (h : k' ≠ k) (f : Thread → Thread) (hf : KeepsKey k f) :
    (s.modThr k f).thr? k' = s.thr? k' := by
  rw [State.thr?_modThr s k k' f hf]
  cases ht : s.thr? k' with
  | none => rfl
  | some t =>
    have hk : ¬ t.key = k := by rw [State.thr?_key ht]; exact h
    simp [hk]

theorem keepsKey_putThr (t : Thread) : KeepsKey t.key (fun _ => t) := fun _ _ => rfl

theorem State.thr?_putThr_same {s : State} {t u : Thread} (h : s.thr? t.key = some u) : (s.putThr t).thr? t.key = some t :=
  State.thr?_modThr_same h _ (keepsKey_putThr t)

theorem State.thr?_putThr_other {s : State} {t : Thread} {k : ThrKey} (h : k ≠ t.key) : (s.putThr t).thr? k = s.thr? k :=
  State.thr?_modThr_other h _ (keepsKey_putThr t)

/-- A list of threads put back: only threads change. -/
theorem foldl_putThr_rest (ts : List Thread) (s : State) :
    ts.foldl State.putThr s = { s with threads := (ts.foldl State.putThr s).threads } := by
  induction ts generalizing s with
  | nil => rfl
  | cons t rest ih => rw [List.foldl_cons, ih]; rfl

theorem foldl_putThr_other (ts : List Thread) (s : State) (k : ThrKey) (h : ∀ t ∈ ts, t.key ≠ k) :
    (ts.foldl State.putThr s).thr? k = s.thr? k := by
  induction ts generalizing s with
  | nil => rfl
  | cons t rest ih =>
    rw [List.foldl_cons, ih _ (fun u hu => h u (by simp [hu])), State.thr?_putThr_other (h t (by simp)).symm]

/-- Each thread put back is found, where threads of one key agree. -/
theorem foldl_putThr_found (ts : List Thread) (s : State) (t : Thread) (ht : t ∈ ts) (hs : ∃ u, s.thr? t.key = some u)
    (agree : ∀ a ∈ ts, ∀ b ∈ ts, a.key = b.key → a = b) : (ts.foldl State.putThr s).thr? t.key = some t := by
  induction ts generalizing s with
  | nil => cases ht
  | cons a rest ih =>
    rw [List.foldl_cons]
    have agree' : ∀ x ∈ rest, ∀ y ∈ rest, x.key = y.key → x = y := fun x hx y hy => agree x (by simp [hx]) y (by simp [hy])
    obtain ⟨u, hu⟩ := hs
    by_cases hin : t ∈ rest
    · refine ih _ hin ?_ agree'
      by_cases hk : t.key = a.key
      · rw [hk] at hu ⊢
        exact ⟨a, State.thr?_putThr_same hu⟩
      · exact ⟨u, by rw [State.thr?_putThr_other hk]; exact hu⟩
    · have hta : t = a := by
        rcases List.mem_cons.mp ht with h | h
        · exact h
        · exact absurd h hin
      subst hta
      rw [foldl_putThr_other]
      · exact State.thr?_putThr_same hu
      · intro x hx hxk
        exact hin ((agree x (by simp [hx]) t (by simp) hxk) ▸ hx)

/-! The group that issues. -/

/-- What `ctx?` gives of a group. -/
theorem ctx?_spec {s : State} {cx : Ctx} (h : ctx? s = some cx) :
    (s.core s.cur).slot = some cx.g ∧ cx.core = s.cur ∧ s.team? cx.g.team = some cx.team ∧ s.launch? cx.g.team.lid = some cx.launch ∧
      cx.vd = cx.team.vd ∧ cx.ts = cx.g.members.filterMap (fun n => s.thr? { team := cx.g.team, tid := n }) ∧
      (∃ rest, cx.ts = cx.t0 :: rest) ∧ cx.a = setSize (hAlign (cx.g.words.headD 0)) := by
  unfold ctx? at h
  split at h
  · cases h
  · rename_i g hg
    simp only at h
    split at h
    · rename_i tm l t0 rest htm hl hts
      cases h
      exact ⟨hg, rfl, htm, hl, rfl, rfl, ⟨rest, hts⟩, rfl⟩
    · cases h

/-- A member of the group is a thread of the state, under the group's team. -/
theorem ctx?_member {s : State} {cx : Ctx} (h : ctx? s = some cx) {t : Thread} (ht : t ∈ cx.ts) :
    s.thr? t.key = some t ∧ t.key = { team := cx.g.team, tid := t.key.tid } := by
  obtain ⟨-, -, -, -, -, hts, -, -⟩ := ctx?_spec h
  rw [hts, List.mem_filterMap] at ht
  obtain ⟨n, -, hn⟩ := ht
  have := State.thr?_key hn
  constructor
  · rw [this]; exact hn
  · rw [this]

theorem ctx?_agree {s : State} {cx : Ctx} (h : ctx? s = some cx) : ∀ a ∈ cx.ts, ∀ b ∈ cx.ts, a.key = b.key → a = b := by
  intro a ha b hb hk
  have h1 := (ctx?_member h ha).1
  have h2 := (ctx?_member h hb).1
  rw [hk, h2] at h1
  exact (Option.some.inj h1).symm

/-- An instruction that nothing holds back has its effect. -/
theorem issue_next {s : State} {cx : Ctx} {eff : Ctx → Instr} {body : Ctx → State} (h : Issues s cx (eff cx)) :
    issue s eff body = .next (body cx) := by
  unfold issue
  rw [h.group]
  have h1 : (needsAligned (eff cx) && decide (cx.a = 0)) = false := by
    cases hn : needsAligned (eff cx) with
    | false => rfl
    | true => simpa using h.aligned hn
  have h2 : cx.ts.any (fenceHolds (eff cx)) = false := by
    rw [List.any_eq_false]
    intro t ht
    simp [h.unfenced t ht]
  have h3 : cx.ts.all (flagRoom (flagOfInstr cx.hdr (eff cx))) = true := by
    rw [List.all_eq_true]
    exact fun t ht => h.room t ht
  simp [h.legal, h.slots, h1, h2, h3]

/-- A word that breaks its encoding raises illegal-instruction for every member (R152, R327). -/
theorem issue_illegal {s : State} {cx : Ctx} {eff : Ctx → Instr} {body : Ctx → State} (hg : ctx? s = some cx) (hl : legal (eff cx) = false) :
    issue s eff body = .next (raiseAll s cx 0x02) := by
  unfold issue
  rw [hg]
  simp [hl]

/-- No outstanding write holds the instruction. -/
theorem held161_false {s : State} {cx : Ctx} {rs : List Nat} (h : Unwritten s cx rs) (writes : Thread → List Nat)
    (hw : ∀ t ∈ cx.ts, ∀ r ∈ writes t, r ∈ rs) : held161 s writes cx.ts = false := by
  unfold held161
  rw [List.any_eq_false]
  intro t ht
  rw [Bool.not_eq_true, List.any_eq_false]
  intro r hr
  simp [h t ht r (hw t ht r hr)]

/-! Positions. -/

theorem Thread.Moved.refl (t : Thread) : t.Moved t := rfl

theorem Thread.Moved.trans {t u w : Thread} (h : t.Moved u) (h' : u.Moved w) : t.Moved w := by
  unfold Thread.Moved at *
  rw [h'] ; rw [h]

theorem Thread.Moved.key {t t' : Thread} (h : t.Moved t') : t'.key = t.key := by rw [h]

theorem advance_moved (h : Word) (n pos : Nat) (t : Thread) : t.Moved (advance h n pos t) := by
  unfold advance
  split
  · rfl
  · simp only
    split <;> split <;> rfl

theorem startYield_moved (cyc : Nat) (t : Thread) : t.Moved (startYield cyc t) := by
  unfold startYield
  split <;> rfl

/-- s' is s but for the places of the threads of some keys. -/
structure OnlyMoves (keys : ThrKey → Prop) (s s' : State) : Prop where
  rest : s' = { s with threads := s'.threads }
  others : ∀ k, ¬ keys k → s'.thr? k = s.thr? k
  moved : ∀ k t, s.thr? k = some t → ∃ t', s'.thr? k = some t' ∧ t.Moved t'

theorem OnlyMoves.refl (keys : ThrKey → Prop) (s : State) : OnlyMoves keys s s :=
  ⟨rfl, fun _ _ => rfl, fun _ t h => ⟨t, h, rfl⟩⟩

theorem OnlyMoves.trans {keys : ThrKey → Prop} {s u w : State} (h : OnlyMoves keys s u) (h' : OnlyMoves keys u w) : OnlyMoves keys s w := by
  refine ⟨?_, fun k hk => (h'.others k hk).trans (h.others k hk), fun k t ht => ?_⟩
  · rw [h'.rest, h.rest]
  · obtain ⟨t1, h1, m1⟩ := h.moved k t ht
    obtain ⟨t2, h2, m2⟩ := h'.moved k t1 h1
    exact ⟨t2, h2, m1.trans m2⟩

theorem OnlyMoves.modThr {keys : ThrKey → Prop} (s : State) (k : ThrKey) (hk : keys k) (f : Thread → Thread) (hf : ∀ t : Thread, t.Moved (f t)) :
    OnlyMoves keys s (s.modThr k f) := by
  have hkeep : KeepsKey k f := fun t ht => by rw [(hf t).key, ht]
  refine ⟨rfl, fun k' hk' => ?_, fun k' t ht => ?_⟩
  · refine State.thr?_modThr_other ?_ f hkeep
    rintro rfl
    exact hk' hk
  · rw [State.thr?_modThr s k k' f hkeep, ht]
    refine ⟨_, rfl, ?_⟩
    show t.Moved (if t.key == k then f t else t)
    split
    · exact hf t
    · rfl

theorem OnlyMoves.foldl {α : Type} {keys : ThrKey → Prop} (one : State → α → State) (l : List α)
    (h : ∀ s, ∀ p ∈ l, OnlyMoves keys s (one s p)) (s : State) : OnlyMoves keys s (l.foldl one s) := by
  induction l generalizing s with
  | nil => exact OnlyMoves.refl keys s
  | cons p rest ih =>
    rw [List.foldl_cons]
    exact (h s p (by simp)).trans (ih (fun s q hq => h s q (by simp [hq])) _)

theorem State.core_putCore_other (s : State) {c d : Nat} (h : d ≠ c) (x : Core) : (s.putCore c x).core d = s.core d := by
  unfold State.putCore State.core
  simp only
  rw [look_put_other h]

/-- What `commit` does to the members it names: it moves them, and changes nothing else but the core's slot. -/
theorem commit_moves (s : State) (cx : Ctx) (fins : List (Nat × Fin)) :
    ∃ u x, commit s cx fins = u.putCore cx.core x ∧ OnlyMoves (fun k => ∃ p ∈ fins, k = { team := cx.g.team, tid := p.1 }) s u := by
  unfold commit
  simp only
  refine ⟨_, _, rfl, ?_⟩
  apply OnlyMoves.foldl
  intro s p hp
  split
  · refine OnlyMoves.modThr s _ ⟨p, hp, rfl⟩ _ (fun t => ?_)
    split
    · exact (advance_moved _ _ _ t).trans (startYield_moved _ _)
    · exact advance_moved _ _ _ t
  · exact OnlyMoves.modThr s _ ⟨p, hp, rfl⟩ _ (fun t => rfl)
  · refine OnlyMoves.modThr s _ ⟨p, hp, rfl⟩ _ (fun t => ?_)
    refine Thread.Moved.trans (u := { t with pc := _, cpos := _, repa := _ }) ?_ (startYield_moved _ _)
    rfl
  · exact OnlyMoves.refl _ s
  · exact OnlyMoves.refl _ s

/-- A datapath instruction (R160): where it issues and nothing outstanding holds it, each member is changed from the state before, and
moved; nothing else changes. -/
theorem datapath_result {s : State} {cx : Ctx} {eff : Ctx → Instr} {writes : Ctx → Thread → List Nat} {act : Ctx → Thread → Thread}
    (h : Issues s cx (eff cx)) (hw : held161 s (writes cx) cx.ts = false) (hk : ∀ t, (act cx t).key = t.key) (r : Thread → Thread → Prop)
    (hr : ∀ t ∈ cx.ts, ∀ t', (act cx t).Moved t' → r t t') :
    ∃ s', datapath s eff writes act = .next s' ∧ GroupResult s s' cx r := by
  unfold datapath
  rw [issue_next h, hw]
  refine ⟨_, rfl, ?_⟩
  simp only [Bool.false_eq_true, if_false, commitAll]
  obtain ⟨u, x, hu, hm⟩ := commit_moves ((cx.ts.map (act cx)).foldl State.putThr s) cx (cx.ts.map (fun t => (t.key.tid, .adv)))
  rw [hu]
  have agree := ctx?_agree h.group
  have hrest := foldl_putThr_rest (cx.ts.map (act cx)) s
  constructor
  · show u.putCore cx.core x = _
    unfold State.putCore
    rw [hm.rest, hrest]
  · intro k hne
    show u.thr? k = _
    rw [hm.others k, foldl_putThr_other]
    · intro t ht
      rw [List.mem_map] at ht
      obtain ⟨y, hy, rfl⟩ := ht
      rw [hk]
      exact hne y hy
    · rintro ⟨p, hp, rfl⟩
      rw [List.mem_map] at hp
      obtain ⟨y, hy, rfl⟩ := hp
      exact hne y hy (ctx?_member h.group hy).2
  · intro c hc
    rw [State.core_putCore_other _ hc]
    unfold State.core
    rw [hm.rest, hrest]
  · intro t ht
    have hfound : ((cx.ts.map (act cx)).foldl State.putThr s).thr? t.key = some (act cx t) := by
      have := foldl_putThr_found (cx.ts.map (act cx)) s (act cx t) (List.mem_map.mpr ⟨t, ht, rfl⟩)
        ⟨t, by rw [hk]; exact (ctx?_member h.group ht).1⟩ ?_
      · rw [hk] at this; exact this
      · intro a ha b hb hab
        rw [List.mem_map] at ha hb
        obtain ⟨y, hy, rfl⟩ := ha
        obtain ⟨z, hz, rfl⟩ := hb
        rw [hk, hk] at hab
        rw [agree y hy z hz hab]
    obtain ⟨t', h1, h2⟩ := hm.moved _ _ hfound
    exact ⟨t', h1, hr t ht t' h2⟩

end Sys2Proof.Machine
end

