-- ==== Sys2Proof/Laws/Results.lean ====
section
/-!
SUPPORT. The results of the datapath forms, each said once: sub-elements, whole registers, predicates, and the shadow unit's pass.
-/

namespace Sys2Proof.Machine

/-! Sub-elements. -/

theorem joinW_lt (w : Nat) (l : List Nat) : joinW w l < 2 ^ (w * l.length) := by
  induction l with
  | nil => simp [joinW]
  | cons x rest ih =>
    have h1 : x % 2 ^ w < 2 ^ w := Nat.mod_lt _ (by positivity)
    have h2 : 2 ^ (w * (rest.length + 1)) = 2 ^ w * 2 ^ (w * rest.length) := by rw [Nat.mul_succ, Nat.pow_add, Nat.mul_comm]
    simp only [joinW, List.length_cons, h2]
    calc x % 2 ^ w + 2 ^ w * joinW w rest < 2 ^ w + 2 ^ w * joinW w rest := by omega
      _ = 2 ^ w * (joinW w rest + 1) := by ring
      _ ≤ 2 ^ w * 2 ^ (w * rest.length) := Nat.mul_le_mul_left _ ih

theorem joinW_digit (w : Nat) (l : List Nat) (i : Nat) (h : i < l.length) : joinW w l / 2 ^ (w * i) % 2 ^ w = l[i] % 2 ^ w := by
  induction l generalizing i with
  | nil => simp at h
  | cons x rest ih =>
    have hx : x % 2 ^ w < 2 ^ w := Nat.mod_lt _ (by positivity)
    cases i with
    | zero => simp [joinW, Nat.add_mod]
    | succ i =>
      have hi : i < rest.length := by simpa using h
      have h2 : 2 ^ (w * (i + 1)) = 2 ^ w * 2 ^ (w * i) := by rw [Nat.mul_succ, Nat.pow_add, Nat.mul_comm]
      have h3 : (x % 2 ^ w + 2 ^ w * joinW w rest) / 2 ^ w = joinW w rest := by
        rw [Nat.add_mul_div_left _ _ (by positivity), Nat.div_eq_of_lt hx, Nat.zero_add]
      simp only [joinW, List.getElem_cons_succ]
      rw [h2, ← Nat.div_div_eq_div_mul, h3, ih i hi]

/-- Each sub-element after a masked write. -/
theorem sub_mapSubs (w : Nat) (on : Nat → Bool) (old : Word) (new : Nat → Nat) (i : Nat) (hi : i < 64 / w) :
    sub w (mapSubs w on old new) i = if on i then new i % 2 ^ w else sub w old i := by
  have hlen : ((List.range (64 / w)).map (fun i => if on i then new i else sub w old i)).length = 64 / w := by simp
  have hlt := joinW_lt w ((List.range (64 / w)).map (fun i => if on i then new i else sub w old i))
  rw [hlen] at hlt
  have h64 : joinW w ((List.range (64 / w)).map (fun i => if on i then new i else sub w old i)) < 2 ^ 64 :=
    lt_of_lt_of_le hlt (Nat.pow_le_pow_right (by norm_num) (Nat.mul_div_le 64 w))
  have e : sub w (mapSubs w on old new) i =
      joinW w ((List.range (64 / w)).map (fun i => if on i then new i else sub w old i)) / 2 ^ (w * i) % 2 ^ w := by
    show (mapSubs w on old new).toNat / _ % _ = _
    unfold mapSubs
    rw [BitVec.toNat_ofNat, Nat.mod_eq_of_lt h64]
  rw [e, joinW_digit w _ i (by rw [hlen]; exact hi)]
  simp only [List.getElem_map, List.getElem_range]
  split
  · rfl
  · exact Nat.mod_mod _ _

theorem tyK_eq (t : Ty) : tyK t = 64 / tyW t := by cases t <;> rfl

theorem heldV_writeV (t : Thread) (d r : Nat) (x : Word) : (t.writeV d x).heldV r = if d = r ∧ d < 64 then x else t.heldV r :=
  vget_vset t.v d r x 0

theorem heldV_moved {t t' : Thread} (h : t.Moved t') (r : Nat) : t'.heldV r = t.heldV r := by rw [h]; rfl

theorem readP_moved {t t' : Thread} (h : t.Moved t') (p : Nat) : t'.readP p = t.readP p := by rw [h]; rfl

/-- A register written, then moved. -/
theorem regsOnly_writeV {t t' : Thread} {d : Nat} {x : Word} (h : (t.writeV d x).Moved t') : RegsOnly t t' [d] := by
  constructor
  · rw [h]; rfl
  · intro r hr
    rw [heldV_moved h, heldV_writeV]
    simp only [List.mem_singleton] at hr
    simp [Ne.symm hr]

theorem regsOnly_none {t t' : Thread} {ds : List Nat} (h : t.Moved t') : RegsOnly t t' ds :=
  ⟨by rw [h]; rfl, fun r _ => heldV_moved h r⟩

/-- Nothing enabled, nothing written. -/
theorem anyOn_false {t : Thread} {g : Guard} {k i : Nat} (h : anyOn t g k = false) (hi : i < k) : enabledAt t g k i = false := by
  unfold anyOn at h
  rw [List.any_eq_false] at h
  simpa using h i (List.mem_range.mpr hi)

/-- What the masked write of R160 leaves. -/
theorem subsWritten_act {f e : FR} {t t' : Thread} {x : Nat → Nat}
    (h : (if anyOn t f.g (tyK f.ty) then t.writeV e.d.toNat (mapSubs (tyW f.ty) (enabledAt t f.g (tyK f.ty)) (t.heldV e.d.toNat) x) else t).Moved t') :
    SubsWritten f e t t' x := by
  have hd : e.d.toNat < 64 := e.d.isLt
  split at h
  · refine ⟨regsOnly_writeV h, fun i hi => ?_⟩
    rw [heldV_moved h, heldV_writeV]
    simp only [hd, and_self, if_true]
    exact sub_mapSubs _ _ _ _ i (by rw [← tyK_eq]; exact hi)
  · rename_i hn
    refine ⟨regsOnly_none h, fun i hi => ?_⟩
    rw [heldV_moved h, anyOn_false (by simpa using hn) hi]
    simp

theorem key_ite_writeV (c : Bool) (t : Thread) (d : Nat) (x : Word) : (if c then t.writeV d x else t).key = t.key := by
  split <;> rfl

/-- Every instruction that writes sub-elements. -/
theorem packed_result (mk : FR → Instr) (x : State → Ctx → FR → Thread → Nat → Nat) {s : State} {cx : Ctx} {f : FR}
    (h : Issues s cx (mk (cx.fr f))) (hu : Unwritten s cx [(cx.fr f).d.toNat]) :
    ∃ s', packedR s mk f (x s) = .next s' ∧ GroupResult s s' cx (fun t t' => SubsWritten f (cx.fr f) t t' (x s cx (cx.fr f) t)) := by
  unfold packedR
  refine datapath_result h (held161_false hu _ ?_) ?_ _ ?_
  · intro t _ r hr
    split at hr
    · exact hr
    · cases hr
  · intro t
    simp only
    exact key_ite_writeV _ _ _ _
  · intro t _ t' hm
    exact subsWritten_act hm

/-- Every instruction that writes a whole register. -/
theorem whole_result (mk : FR → Instr) (x : State → Ctx → FR → Thread → Word) {s : State} {cx : Ctx} {f : FR}
    (h : Issues s cx (mk (cx.fr f))) (hu : Unwritten s cx [(cx.fr f).d.toNat]) :
    ∃ s', wholeR s mk f (x s) = .next s' ∧
      GroupResult s s' cx (fun t t' => WordWritten f.g (cx.fr f).d.toNat t t' (x s cx (cx.fr f) t)) := by
  unfold wholeR
  refine datapath_result h (held161_false hu _ ?_) ?_ _ ?_
  · intro t _ r hr
    split at hr
    · exact hr
    · cases hr
  · intro t
    exact key_ite_writeV _ _ _ _
  · intro t _ t' hm
    have hd : (cx.fr f).d.toNat < 64 := (cx.fr f).d.isLt
    split at hm
    · rename_i hon
      refine ⟨regsOnly_writeV hm, ?_⟩
      rw [heldV_moved hm, heldV_writeV]
      simp [hd, hon]
    · rename_i hon
      refine ⟨regsOnly_none hm, ?_⟩
      rw [heldV_moved hm]
      simp [hon]

/-- A predicate written, then moved. -/
theorem predWritten_writeP {t t' : Thread} {d : Nat} {b : Byte} {x : Nat → Bool} (hx : ∀ j, j < 8 → b.getLsbD j = x j)
    (h : (t.writeP d b).Moved t') : PredWritten d t t' x := by
  constructor
  · rw [h]; rfl
  · intro p hp
    rw [readP_moved h]
    exact vget_vset_other t.pred b 0xFF (Ne.symm hp)
  · intro hd j hj
    rw [readP_moved h, ← hx j hj]
    show (vget (vset t.pred d b) d 0xFF).getLsbD j = _
    rw [vget_vset_same _ _ _ _ hd]
  · intro hd
    rw [readP_moved h]
    show vget (vset t.pred d b) d 0xFF = vget t.pred d 0xFF
    unfold vset
    rw [dif_neg (by omega)]

/-- Every instruction that writes a predicate. -/
theorem predicate_result (mk : FR → Instr) (p : Ctx → FR → Thread → Byte → Byte) (x : Ctx → FR → Thread → Nat → Bool)
    {s : State} {cx : Ctx} {f : FR} (hx : ∀ t, ∀ j, j < 8 → (p cx (cx.fr f) t (t.readP (cx.fr f).d.toNat)).getLsbD j = x cx (cx.fr f) t j)
    (h : Issues s cx (mk (cx.fr f))) :
    ∃ s', predR s mk f p = .next s' ∧ GroupResult s s' cx (fun t t' => PredWritten (cx.fr f).d.toNat t t' (x cx (cx.fr f) t)) := by
  unfold predR
  refine datapath_result h ?_ ?_ _ ?_
  · unfold held161
    rw [List.any_eq_false]
    intro t _
    simp
  · intro t; rfl
  · intro t _ t' hm
    exact predWritten_writeP (hx t) hm

/-! Predicate bits. -/

theorem testBit_joinW_one (l : List Nat) (j : Nat) (h : j < l.length) : (joinW 1 l).testBit j = decide (l[j] % 2 = 1) := by
  have := joinW_digit 1 l j h
  rw [Nat.one_mul, Nat.pow_one] at this
  rw [Nat.testBit_eq_decide_div_mod_eq, this]

theorem testBit_bitsOf (n : Nat) (f : Nat → Bool) (j : Nat) (h : j < n) : (bitsOf n f).testBit j = f j := by
  unfold bitsOf
  rw [testBit_joinW_one _ _ (by simpa using h)]
  simp only [List.getElem_map, List.getElem_range]
  cases f j <;> simp

theorem getLsbD_predBits (g : Byte) (res : Nat → Bool) (old : Byte) (j : Nat) (h : j < 8) :
    (predBits g res old).getLsbD j = if g.getLsbD j then res j else old.getLsbD j := by
  unfold predBits
  rw [BitVec.getLsbD_ofNat, testBit_bitsOf 8 _ j h]
  simp [h]

theorem getLsbD_predSubs (k : Nat) (on res : Nat → Bool) (old : Byte) (j : Nat) (h : j < 8) :
    (predSubs k on res old).getLsbD j = if on (j / (8 / k)) then res (j / (8 / k)) else old.getLsbD j := by
  unfold predSubs
  rw [BitVec.getLsbD_ofNat, testBit_bitsOf 8 _ j h]
  simp [h]

/-! The shadow unit. -/

theorem memberUpsets_nil {s : State} {cx : Ctx} (h : Unstruck s cx) {t : Thread} (ht : t ∈ cx.ts) : memberUpsets s cx.core t.key.tid = [] := by
  simpa [shadowStruck] using h t ht

/-- A member that no upset strikes is as its instruction leaves it. -/
theorem shadowed_nil (k d : Nat) (f : Fmt) (on : Nat → Bool) (t : Thread) : shadowed [] k d f on t = some t := rfl

/-- A checked instruction that no upset strikes writes what it would unchecked (R360). -/
theorem shadowedBody_quiet {s : State} {cx : Ctx} (h : Unstruck s cx) (k d : Nat) (f : Fmt) (on : Thread → Nat → Bool) (after : Thread → Thread) :
    shadowedBody s cx k d f on after = commitAll ((cx.ts.map after).foldl State.putThr s) cx := by
  have hany : cx.ts.any (fun t => shadowStruck s cx.core t.key.tid) = false := by
    rw [List.any_eq_false]
    intro t ht
    simp [h t ht]
  have hmap : cx.ts.map (fun t => (shadowed (memberUpsets s cx.core t.key.tid) k d f (on t) (after t)).getD t) = cx.ts.map after := by
    apply List.map_congr_left
    intro t ht
    rw [memberUpsets_nil h ht, shadowed_nil]
    rfl
  unfold shadowedBody
  simp only [hany, hmap]
  rfl

/-- A shadowed instruction that no upset strikes is a datapath instruction (R160, R360). -/
theorem shadowed_quiet {s : State} {mk : FR → Instr} {f : FR} {writes : Ctx → Thread → List Nat} {on : Ctx → FR → Thread → Nat → Bool}
    {act : Ctx → FR → Thread → Thread} {cx : Ctx} (h : Issues s cx (mk (cx.fr f))) (hq : Unstruck s cx) :
    shadowedR s mk f writes on act = datapath s (fun cx => mk (cx.fr f)) writes (fun cx t => act cx (cx.fr f) t) := by
  unfold shadowedR datapath
  rw [issue_next h, issue_next h]
  split
  · rfl
  · simp only [shadowedBody_quiet hq]

/-- Every floating-point instruction that writes sub-elements, no upset striking it. -/
theorem packedFloat_result (mk : FR → Instr) (x : State → Ctx → FR → Thread → Nat → Nat) {s : State} {cx : Ctx} {f : FR}
    (h : Issues s cx (mk (cx.fr f))) (hu : Unwritten s cx [(cx.fr f).d.toNat]) (hq : Unstruck s cx) :
    ∃ s', floatR s mk f (x s) = .next s' ∧ GroupResult s s' cx (fun t t' => SubsWritten f (cx.fr f) t t' (x s cx (cx.fr f) t)) := by
  unfold floatR
  rw [shadowed_quiet h hq]
  exact packed_result mk x h hu

/-! The statement shapes, from an instruction's meaning. -/

theorem GroupResult.mono {s s' : State} {cx : Ctx} {r q : Thread → Thread → Prop} (h : GroupResult s s' cx r)
    (hq : ∀ t t', r t t' → q t t') : GroupResult s s' cx q :=
  ⟨h.rest, h.others, h.cores, fun t ht => by obtain ⟨t', h1, h2⟩ := h.members t ht; exact ⟨t', h1, hq t t' h2⟩⟩

theorem SubsWritten.congr {f e : FR} {t t' : Thread} {x y : Nat → Nat} (h : SubsWritten f e t t' x)
    (hxy : ∀ i, i < tyK f.ty → x i % 2 ^ tyW f.ty = y i % 2 ^ tyW f.ty) : SubsWritten f e t t' y :=
  ⟨h.only, fun i hi => by rw [h.subs i hi, hxy i hi]⟩

theorem packed_of {mk : FR → Instr} {x : State → Ctx → FR → Thread → Nat → Nat} (y : State → FR → Ctx → FR → Thread → Nat → Nat)
    (he : ∀ f s, exec (mk f) s = packedR s mk f (y s f))
    (hx : ∀ s cx f t i, i < tyK f.ty → y s f cx (cx.fr f) t i % 2 ^ tyW f.ty = x s cx (cx.fr f) t i % 2 ^ tyW f.ty) : Packed mk x := by
  intro s cx f h hu
  rw [he]
  obtain ⟨s', h1, h2⟩ := packed_result mk (fun s => y s f) h hu
  exact ⟨s', h1, h2.mono (fun t t' h3 => h3.congr (hx s cx f t))⟩

theorem packedFloat_of {mk : FR → Instr} {x : State → Ctx → FR → Thread → Nat → Nat} (y : State → FR → Ctx → FR → Thread → Nat → Nat)
    (he : ∀ f s, exec (mk f) s = floatR s mk f (y s f))
    (hx : ∀ s cx f t i, i < tyK f.ty → y s f cx (cx.fr f) t i % 2 ^ tyW f.ty = x s cx (cx.fr f) t i % 2 ^ tyW f.ty) : PackedFloat mk x := by
  intro s cx f h hu hq
  rw [he]
  obtain ⟨s', h1, h2⟩ := packedFloat_result mk (fun s => y s f) h hu hq
  exact ⟨s', h1, h2.mono (fun t t' h3 => h3.congr (hx s cx f t))⟩

theorem predicate_of {mk : FR → Instr} {x : State → Ctx → FR → FR → Thread → Nat → Bool} (p : State → FR → Ctx → FR → Thread → Byte → Byte)
    (he : ∀ f s, exec (mk f) s = predR s mk f (p s f))
    (hx : ∀ s cx f e t j, j < 8 → (p s f cx e t (t.readP e.d.toNat)).getLsbD j = x s cx f e t j) : Predicate mk x := by
  intro s cx f h
  rw [he]
  exact predicate_result mk (p s f) (fun cx e t j => x s cx f e t j) (fun t j hj => hx s cx f (cx.fr f) t j hj) h

/-- movi and movi.hi: a whole register under enabled(0), by format I. -/
theorem wholeI_result (mk : FI → Instr) (x : FI → Thread → Word) {s : State} {cx : Ctx} {f : FI}
    (h : Issues s cx (mk (cx.fi f))) (hu : Unwritten s cx [(cx.fi f).d.toNat]) :
    ∃ s', wholeI s mk f x = .next s' ∧ GroupResult s s' cx (fun t t' => WordWritten f.g (cx.fi f).d.toNat t t' (x (cx.fi f) t)) := by
  unfold wholeI
  refine datapath_result h (held161_false hu _ ?_) ?_ _ ?_
  · intro t _ r hr
    split at hr
    · exact hr
    · cases hr
  · intro t
    exact key_ite_writeV _ _ _ _
  · intro t _ t' hm
    have hd : (cx.fi f).d.toNat < 64 := (cx.fi f).d.isLt
    split at hm
    · rename_i hon
      refine ⟨regsOnly_writeV hm, ?_⟩
      rw [heldV_moved hm, heldV_writeV]
      simp [hd, hon]
    · rename_i hon
      refine ⟨regsOnly_none hm, ?_⟩
      rw [heldV_moved hm]
      simp [hon]

end Sys2Proof.Machine
end

