-- ==== Sys2Proof/Laws/Groups.lean ====
section
/-!
SUPPORT. How the members of a group leave an instruction, and instructions whose members act one after another.
-/

namespace Sys2Proof.Machine

/-- A member after it has left an instruction as `commit` makes it leave. -/
def leaveAs (cx : Ctx) (last : Bool) (cyc : Nat) (fin : Fin) (t : Thread) : Thread :=
  match fin with
  | .adv => if last then startYield cyc (advance cx.g.h (hCount cx.hdr) cx.g.pos t) else advance cx.g.h (hCount cx.hdr) cx.g.pos t
  | .next => { t with cpos := cx.g.pos + 1 }
  | .jump pc cpos => startYield cyc { t with pc := pc, cpos := cpos, repa := if t.tact then t.repa else false }
  | .stay => t
  | .gone => t

theorem startYield_place (cyc : Nat) (t : Thread) : (startYield cyc t).pc = t.pc ∧ (startYield cyc t).cpos = t.cpos ∧
    (startYield cyc t).repa = t.repa ∧ (startYield cyc t).repc = t.repc := by
  unfold startYield
  split <;> simp

theorem leaveAs_moved (cx : Ctx) (last : Bool) (cyc : Nat) (fin : Fin) (t : Thread) : t.Moved (leaveAs cx last cyc fin t) := by
  unfold leaveAs
  split
  · split
    · exact (advance_moved _ _ _ t).trans (startYield_moved _ _)
    · exact advance_moved _ _ _ t
  · rfl
  · refine Thread.Moved.trans (u := { t with pc := _, cpos := _, repa := _ }) ?_ (startYield_moved _ _)
    rfl
  · rfl
  · rfl

theorem foldl_leave (cx : Ctx) (last : Bool) (cyc : Nat) (fins : List (Nat × Fin)) (hn : (fins.map (·.1)).Nodup) (s : State) (p : Nat × Fin)
    (hp : p ∈ fins) :
    (fins.foldl (fun (s : State) (p : Nat × Fin) => s.modThr { team := cx.g.team, tid := p.1 } (leaveAs cx last cyc p.2)) s).thr?
      { team := cx.g.team, tid := p.1 } = (s.thr? { team := cx.g.team, tid := p.1 }).map (leaveAs cx last cyc p.2) := by
  have keep : ∀ (k : ThrKey) (f : Fin), KeepsKey k (leaveAs cx last cyc f) := fun k f t ht => by
    rw [(leaveAs_moved cx last cyc f t).key, ht]
  have other : ∀ (l : List (Nat × Fin)) (u : State), p.1 ∉ l.map (·.1) →
      (l.foldl (fun (s : State) (p : Nat × Fin) => s.modThr { team := cx.g.team, tid := p.1 } (leaveAs cx last cyc p.2)) u).thr?
        { team := cx.g.team, tid := p.1 } = u.thr? { team := cx.g.team, tid := p.1 } := by
    intro l
    induction l with
    | nil => intro u _; rfl
    | cons q rest ih =>
      intro u hq
      simp only [List.map_cons, List.mem_cons, not_or] at hq
      rw [List.foldl_cons, ih _ hq.2, State.thr?_modThr_other _ _ (keep _ _)]
      intro e
      exact hq.1 (congrArg ThrKey.tid e)
  induction fins generalizing s with
  | nil => cases hp
  | cons q rest ih =>
    simp only [List.map_cons, List.nodup_cons] at hn
    rw [List.foldl_cons]
    rcases List.mem_cons.mp hp with h | h
    · subst h
      rw [other rest _ hn.1, State.thr?_modThr _ _ _ _ (keep _ _)]
      cases ht : s.thr? { team := cx.g.team, tid := p.1 } with
      | none => rfl
      | some t => simp [State.thr?_key ht]
    · rw [ih hn.2 _ h, State.thr?_modThr_other _ _ (keep _ _)]
      intro e
      have e : p.1 = q.1 := congrArg ThrKey.tid e
      exact hn.1 (e ▸ List.mem_map.mpr ⟨p, h, rfl⟩)

theorem modThr_id (s : State) (k : ThrKey) : s.modThr k (fun t => t) = s := by
  unfold State.modThr
  simp

/-- Each member named once leaves as it is told. -/
theorem commit_found (s : State) (cx : Ctx) (fins : List (Nat × Fin)) (hn : (fins.map (·.1)).Nodup) :
    ∃ last cyc, ∀ p ∈ fins, (commit s cx fins).thr? { team := cx.g.team, tid := p.1 } =
      (s.thr? { team := cx.g.team, tid := p.1 }).map (leaveAs cx last cyc p.2) := by
  refine ⟨!(cx.again && !(fins.any (fun p => p.2 == .next))) && !(cx.g.pos + 1 < hCount cx.hdr), (s.die cx.die).cyc, fun p hp => ?_⟩
  rw [← foldl_leave cx _ _ fins hn s p hp]
  unfold commit
  simp only
  show State.thr? (fins.foldl _ s) _ = _
  congr 2
  funext u q
  split
  · congr 1
    funext t
    rename_i h
    simp only [leaveAs, h]
  · rename_i h
    rw [h]
    rfl
  · rename_i h
    rw [h]
    rfl
  · rename_i h
    simp only [h]
    exact (modThr_id _ _).symm
  · rename_i h
    simp only [h]
    exact (modThr_id _ _).symm

/-- One member acts: the step is its act, and its leaving. -/
theorem eachMember_alone {s : State} {cx : Ctx} {t : Thread} (hg : ctx? s = some cx) (h : cx.ts = [t]) (act : State → Thread → State × Fin) :
    eachMember s cx act = commit (act s t).1 cx [(t.key.tid, (act s t).2)] := by
  have ht : s.thr? t.key = some t := (ctx?_member hg (by rw [h]; simp)).1
  unfold eachMember
  simp only [h, List.foldl_cons, List.foldl_nil, ht, List.nil_append]

/-- The member of a group of one is a thread of the state. -/
theorem alone_found {s : State} {cx : Ctx} {i : Instr} {g : Guard} {t : Thread} (h : Alone s cx i g t) :
    s.thr? t.key = some t ∧ t.key = { team := cx.g.team, tid := t.key.tid } := ctx?_member h.issues.group (by rw [h.one]; simp)

/-- One member acts on threads alone, and leaves: nothing else changes but its core's issue slot. -/
theorem commit_alone {s u : State} {cx : Ctx} {t w : Thread} {fin : Fin} (hg : ctx? s = some cx) (h1 : cx.ts = [t])
    (hu : u = { s with threads := u.threads }) (ho : ∀ k, k ≠ t.key → u.thr? k = s.thr? k) (hw : u.thr? t.key = some w)
    (r : Thread → Thread → Prop) (hr : ∀ last cyc, r t (leaveAs cx last cyc fin w)) : GroupResult s (commit u cx [(t.key.tid, fin)]) cx r := by
  have hk : t.key = { team := cx.g.team, tid := t.key.tid } := (ctx?_member hg (by rw [h1]; simp)).2
  obtain ⟨v, x, hv, hm⟩ := commit_moves u cx [(t.key.tid, fin)]
  obtain ⟨last, cyc, hc⟩ := commit_found u cx [(t.key.tid, fin)] (by simp)
  constructor
  · rw [hv]
    unfold State.putCore
    rw [hm.rest, hu]
  · intro k hne
    rw [hv]
    show v.thr? k = _
    rw [hm.others k, ho k]
    · exact (hne t (by rw [h1]; simp)).symm
    · rintro ⟨p, hp, rfl⟩
      simp only [List.mem_singleton] at hp
      subst hp
      exact hne t (by rw [h1]; simp) hk
  · intro c hcc
    rw [hv, State.core_putCore_other _ hcc]
    unfold State.core
    rw [hm.rest, hu]
  · intro y hy
    rw [h1, List.mem_singleton] at hy
    subst hy
    have := hc _ (List.mem_singleton.mpr rfl)
    simp only at this
    rw [← hk, hw] at this
    exact ⟨_, this, hr last cyc⟩

/-- The positions after a transfer of control that traps for no member (R186): a group of distinct members. -/
theorem transfer_result {s : State} {cx : Ctx} {g : Guard} {target : Thread → Word} {link : Thread → Thread}
    (hg : ctx? s = some cx) (hn : cx.g.members.Nodup) (ht : ∀ t ∈ cx.ts, enabled t g = true → bits (target t) 63 48 = 0)
    (hl : ∀ t, (link t).key = t.key) (r : Thread → Thread → Prop)
    (hr : ∀ t ∈ cx.ts, ∀ t', (if enabled t g then (link t).Moved t' ∧ t'.pc = BitVec.ofNat 64 ((target t).toNat / 8 * 8) ∧ t'.cpos = 0
      else t.Moved t' ∧ t'.pc = (advance cx.g.h (hCount cx.hdr) cx.g.pos t).pc ∧ t'.cpos = (advance cx.g.h (hCount cx.hdr) cx.g.pos t).cpos) → r t t') :
    GroupResult s (transfer s cx g target link) cx r := by
  have hts : (cx.ts.map (fun t => t.key.tid)).Nodup := by
    obtain ⟨-, -, -, -, -, hts, -, -⟩ := ctx?_spec hg
    rw [hts, List.map_filterMap]
    refine List.Nodup.filterMap ?_ hn
    intro a b c ha hb
    simp only [Option.mem_def, Option.map_eq_some_iff] at ha hb
    obtain ⟨x, hx, rfl⟩ := ha
    obtain ⟨y, hy, hyx⟩ := hb
    rw [State.thr?_key hx, State.thr?_key hy] at hyx
    exact hyx.symm
  let act : Thread → Thread := fun t => if enabled t g then link t else t
  let fin : Thread → Fin := fun t => if enabled t g then .jump (BitVec.ofNat 64 ((target t).toNat / 8 * 8)) 0 else .adv
  have fold : ∀ (ts : List Thread) (acc : State × List (Nat × Fin)), (∀ t ∈ ts, enabled t g = true → bits (target t) 63 48 = 0) →
      ts.foldl (fun (acc : State × List (Nat × Fin)) (t : Thread) =>
        let x := target t
        if !enabled t g then (acc.1, acc.2 ++ [(t.key.tid, .adv)])
        else if bits x 63 48 != 0 then (raise acc.1 t.key { cx.info t 0x10 with addr := x.toNat }, acc.2 ++ [(t.key.tid, .gone)])
        else (acc.1.modThr t.key link, acc.2 ++ [(t.key.tid, .jump (BitVec.ofNat 64 (x.toNat / 8 * 8)) 0)])) acc =
      ((ts.filter (fun t => enabled t g)).foldl (fun u t => u.modThr t.key link) acc.1, acc.2 ++ ts.map (fun t => (t.key.tid, fin t))) := by
    intro ts
    induction ts with
    | nil => intro acc _; simp
    | cons t rest ih =>
      intro acc h
      rw [List.foldl_cons, ih _ (fun u hu => h u (by simp [hu]))]
      cases he : enabled t g with
      | false => simp [he, fin]
      | true =>
        have := h t (by simp) he
        simp [he, fin, this]
  have hkeep : ∀ k, KeepsKey k link := fun k t hk => by rw [hl, hk]
  have found : ∀ (ts : List Thread) (u : State) (k : ThrKey) (t : Thread), u.thr? k = some t → (ts.map (·.key)).Nodup →
      (ts.foldl (fun u t => u.modThr t.key link) u).thr? k = some (if k ∈ ts.map (·.key) then link t else t) := by
    intro ts
    induction ts with
    | nil => intro u k t h _; simpa using h
    | cons a rest ih =>
      intro u k t h hnd
      simp only [List.map_cons, List.nodup_cons] at hnd
      rw [List.foldl_cons]
      by_cases hk : k = a.key
      · subst hk
        rw [ih _ _ (link t) (State.thr?_modThr_same h link (hkeep _)) hnd.2]
        simp [hnd.1]
      · rw [ih _ _ t (by rw [State.thr?_modThr_other hk _ (hkeep _)]; exact h) hnd.2]
        simp [hk]
  have rest : ∀ (ts : List Thread) (u : State), ts.foldl (fun u t => u.modThr t.key link) u =
      { u with threads := (ts.foldl (fun u t => u.modThr t.key link) u).threads } := by
    intro ts
    induction ts with
    | nil => intro u; rfl
    | cons a l ih => intro u; rw [List.foldl_cons, ih]; rfl
  have other : ∀ (ts : List Thread) (u : State) (k : ThrKey), (∀ t ∈ ts, t.key ≠ k) →
      (ts.foldl (fun u t => u.modThr t.key link) u).thr? k = u.thr? k := by
    intro ts
    induction ts with
    | nil => intro u k _; rfl
    | cons a l ih =>
      intro u k h
      rw [List.foldl_cons, ih _ _ (fun t ht => h t (by simp [ht])), State.thr?_modThr_other (Ne.symm (h a (by simp))) _ (hkeep _)]
  unfold transfer
  simp only
  rw [fold cx.ts (s, []) ht, List.nil_append]
  simp only
  have hfins : ((cx.ts.map (fun t => (t.key.tid, fin t))).map (·.1)).Nodup := by
    rw [List.map_map]
    exact hts
  obtain ⟨u, x, hu, hm⟩ := commit_moves ((cx.ts.filter (fun t => enabled t g)).foldl (fun u t => u.modThr t.key link) s) cx
    (cx.ts.map (fun t => (t.key.tid, fin t)))
  obtain ⟨last, cyc, hc⟩ := commit_found ((cx.ts.filter (fun t => enabled t g)).foldl (fun u t => u.modThr t.key link) s) cx
    (cx.ts.map (fun t => (t.key.tid, fin t))) hfins
  have hkeys : ∀ t ∈ cx.ts, t.key = { team := cx.g.team, tid := t.key.tid } := fun t h => (ctx?_member hg h).2
  have hnodup : (cx.ts.map (·.key)).Nodup := by
    apply List.Nodup.of_map ThrKey.tid
    rw [List.map_map]
    exact hts
  constructor
  · rw [hu]
    unfold State.putCore
    rw [hm.rest, rest]
  · intro k hk
    rw [hu]
    show u.thr? k = _
    rw [hm.others k, other]
    · intro t h
      exact hk t (List.mem_of_mem_filter h)
    · rintro ⟨p, hp, rfl⟩
      rw [List.mem_map] at hp
      obtain ⟨t, h, rfl⟩ := hp
      exact hk t h (hkeys t h)
  · intro c hcc
    rw [hu, State.core_putCore_other _ hcc]
    unfold State.core
    rw [hm.rest, rest]
  · intro t h
    have h1 := hc _ (List.mem_map.mpr ⟨t, h, rfl⟩)
    simp only at h1
    rw [← hkeys t h] at h1
    have h2 := found (cx.ts.filter (fun t => enabled t g)) s t.key t (ctx?_member hg h).1
      (hnodup.sublist (List.filter_sublist.map _))
    rw [h2] at h1
    refine ⟨_, h1, hr t h _ ?_⟩
    have hmem : t.key ∈ (cx.ts.filter (fun t => enabled t g)).map (·.key) ↔ enabled t g = true := by
      rw [List.mem_map]
      constructor
      · rintro ⟨y, hy, hyk⟩
        rw [List.mem_filter] at hy
        rw [← ctx?_agree hg y hy.1 t h hyk]
        exact hy.2
      · intro he
        exact ⟨t, List.mem_filter.mpr ⟨h, he⟩, rfl⟩
    cases he : enabled t g with
    | true =>
      simp only [hmem.mpr he, if_true, fin, he]
      exact ⟨leaveAs_moved _ _ _ _ _, (startYield_place _ _).1, (startYield_place _ _).2.1⟩
    | false =>
      have hno : t.key ∉ (cx.ts.filter (fun t => enabled t g)).map (·.key) := by rw [hmem, he]; simp
      simp only [hno, if_false, fin, he, Bool.false_eq_true]
      refine ⟨leaveAs_moved _ _ _ _ _, ?_⟩
      unfold leaveAs
      simp only
      split
      · exact ⟨(startYield_place _ _).1, (startYield_place _ _).2.1⟩
      · exact ⟨rfl, rfl⟩

end Sys2Proof.Machine
end

