-- ==== Sys2Proof/Laws/Interrupts.lean ====
section
/-!
SUPPORT. What posting an interrupt and completing a management command leave alone.
-/

namespace Sys2Proof.Machine

/-- Posting a message changes nothing but the messages posted and pending. -/
theorem Mgmt.post_frame (m : Mgmt) (fn vec : Nat) : m.post fn vec = { m with msix := (m.post fn vec).msix, msixPend := (m.post fn vec).msixPend } := by
  unfold Mgmt.post
  split
  · rfl
  · split <;> rfl

/-- A vector that may be sent is posted; one that may not is pending afterwards. -/
theorem Mgmt.post_open (m : Mgmt) (fn vec : Nat) (h : m.vectorOpen fn vec = true) : m.post fn vec = { m with msix := m.msix ++ [(fn, vec)] } := by
  simp [Mgmt.post, h]
theorem Mgmt.post_masked (m : Mgmt) (fn vec : Nat) (h : m.vectorOpen fn vec = false) :
    (m.post fn vec).msix = m.msix ∧ (fn, vec) ∈ (m.post fn vec).msixPend := by
  unfold Mgmt.post
  simp only [h, Bool.false_eq_true, ↓reduceIte]
  split <;> simp_all

/-- What a completed management command leaves alone: all but its report and the messages. -/
theorem mgmtDone_frame (s : State) (opc v status : Nat) :
    mgmtDone s opc v status = { s with mg := { s.mg with done := s.mg.done ++ [{ opc := opc, vd := v, status := status }],
                                                         msix := (s.mg.post 0 s.mg.mcqvec).msix, msixPend := (s.mg.post 0 s.mg.mcqvec).msixPend } } := by
  unfold mgmtDone
  rw [Mgmt.post_frame s.mg 0 s.mg.mcqvec]
@[simp] theorem mgmtDone_ms (s : State) (opc v status : Nat) : (mgmtDone s opc v status).ms = s.ms := rfl
@[simp] theorem mgmtDone_vds (s : State) (opc v status : Nat) : (mgmtDone s opc v status).vds = s.vds := rfl
@[simp] theorem mgmtDone_threads (s : State) (opc v status : Nat) : (mgmtDone s opc v status).threads = s.threads := rfl
@[simp] theorem mgmtDone_banks (s : State) (opc v status : Nat) : (mgmtDone s opc v status).banks = s.banks := rfl
@[simp] theorem mgmtDone_done (s : State) (opc v status : Nat) :
    (mgmtDone s opc v status).mg.done = s.mg.done ++ [{ opc := opc, vd := v, status := status }] := rfl
@[simp] theorem mgmtDone_replies (s : State) (opc v status : Nat) : (mgmtDone s opc v status).mg.replies = s.mg.replies := by
  rw [mgmtDone_frame]

end Sys2Proof.Machine
end

