-- ==== Sys2Proof/Laws/Memory.lean ====
section
/-!
SUPPORT. Sparse memory: every operation keeps the canonical form, and what a byte reads after a write.
-/

namespace Sys2Proof.Machine

/-! The canonical form. -/

theorem Memory.wfFrom_cons (lo a : Nat) (b : Byte) (m : Mem) :
    Memory.wfFrom lo ((a, b) :: m) = true ↔ lo ≤ a ∧ b ≠ 0 ∧ Memory.wfFrom (a + 1) m = true := by
  simp [Memory.wfFrom, and_assoc]

theorem Memory.wfFrom_weaken {lo lo' : Nat} {m : Mem} (h : Memory.wfFrom lo m = true) (hl : lo' ≤ lo) : Memory.wfFrom lo' m = true := by
  cases m with
  | nil => rfl
  | cons c rest =>
    obtain ⟨a, b⟩ := c
    rw [Memory.wfFrom_cons] at h ⊢
    exact ⟨by omega, h.2⟩

theorem Memory.wfFrom_memWrite {lo : Nat} (m : Mem) (a : Nat) (b : Byte) (h : Memory.wfFrom lo m = true) (ha : lo ≤ a) :
    Memory.wfFrom lo (memWrite m a b) = true := by
  induction m generalizing lo with
  | nil =>
    unfold memWrite
    split
    · rfl
    · rw [Memory.wfFrom_cons]
      exact ⟨ha, by assumption, rfl⟩
  | cons c rest ih =>
    obtain ⟨k, x⟩ := c
    rw [Memory.wfFrom_cons] at h
    obtain ⟨h1, h2, h3⟩ := h
    unfold memWrite
    split
    · split
      · rw [Memory.wfFrom_cons]
        exact ⟨h1, h2, h3⟩
      · rw [Memory.wfFrom_cons, Memory.wfFrom_cons]
        exact ⟨ha, by assumption, by omega, h2, h3⟩
    · split
      · subst k
        split
        · exact Memory.wfFrom_weaken h3 (by omega)
        · rw [Memory.wfFrom_cons]
          exact ⟨ha, by assumption, h3⟩
      · rw [Memory.wfFrom_cons]
        exact ⟨h1, h2, ih h3 (by omega)⟩

/-- A write keeps the canonical form. -/
theorem Memory.wf_memWrite (m : Mem) (a : Nat) (b : Byte) (h : Memory.wf m = true) : Memory.wf (memWrite m a b) = true :=
  Memory.wfFrom_memWrite m a b h (Nat.zero_le a)

/-- A list of writes keeps it. -/
theorem Memory.wf_memWriteCells (m : Mem) (cells : List Host.Cell) (h : Memory.wf m = true) :
    Memory.wf (memWriteCells m cells) = true := by
  unfold memWriteCells
  induction cells generalizing m with
  | nil => exact h
  | cons c rest ih => exact ih _ (Memory.wf_memWrite m c.1 c.2 h)

/-- A run of bytes keeps it. -/
theorem Memory.wf_memWriteN (m : Mem) (a : Nat) (bs : List Byte) (h : Memory.wf m = true) : Memory.wf (memWriteN m a bs) = true :=
  Memory.wf_memWriteCells m _ h

theorem Memory.wfFrom_append {lo mid : Nat} {m n : Mem} (hm : Memory.wfFrom lo m = true) (hb : ∀ c ∈ m, c.1 < mid) (hl : lo ≤ mid)
    (hn : Memory.wfFrom mid n = true) : Memory.wfFrom lo (m ++ n) = true := by
  induction m generalizing lo with
  | nil => exact Memory.wfFrom_weaken hn hl
  | cons c rest ih =>
    obtain ⟨a, b⟩ := c
    rw [Memory.wfFrom_cons] at hm
    rw [List.cons_append, Memory.wfFrom_cons]
    have ha : a < mid := hb (a, b) (by simp)
    exact ⟨hm.1, hm.2.1, ih hm.2.2 (fun c hc => hb c (by simp [hc])) (by omega)⟩

theorem Memory.wfFrom_filter {lo : Nat} {m : Mem} (p : Host.Cell → Bool) (h : Memory.wfFrom lo m = true) :
    Memory.wfFrom lo (m.filter p) = true := by
  induction m generalizing lo with
  | nil => rfl
  | cons c rest ih =>
    obtain ⟨a, b⟩ := c
    rw [Memory.wfFrom_cons] at h
    rw [List.filter_cons]
    split
    · rw [Memory.wfFrom_cons]
      exact ⟨h.1, h.2.1, ih h.2.2⟩
    · exact Memory.wfFrom_weaken (ih h.2.2) (by omega)

theorem Memory.wfFrom_atLeast {lo x : Nat} {m : Mem} (h : Memory.wfFrom lo m = true) (hm : ∀ c ∈ m, x ≤ c.1) :
    Memory.wfFrom x m = true := by
  cases m with
  | nil => rfl
  | cons c rest =>
    obtain ⟨a, b⟩ := c
    rw [Memory.wfFrom_cons] at h ⊢
    exact ⟨hm (a, b) (by simp), h.2⟩

theorem cellsAt_bounds (a : Nat) (bs : List Byte) : ∀ c ∈ cellsAt a bs, a ≤ c.1 ∧ c.1 < a + bs.length := by
  induction bs generalizing a with
  | nil => simp [cellsAt]
  | cons b rest ih =>
    intro c hc
    simp only [cellsAt, List.mem_cons] at hc
    rcases hc with rfl | hc
    · simp
    · have := ih (a + 1) c hc
      simp only [List.length_cons]
      omega

theorem Memory.wfFrom_cellsAt (a : Nat) (bs : List Byte) : Memory.wfFrom a ((cellsAt a bs).filter (fun c => c.2 != 0)) = true := by
  induction bs generalizing a with
  | nil => rfl
  | cons b rest ih =>
    simp only [cellsAt, List.filter_cons]
    split
    · rename_i hb
      rw [Memory.wfFrom_cons]
      exact ⟨Nat.le_refl a, by simpa using hb, ih (a + 1)⟩
    · exact Memory.wfFrom_weaken (ih (a + 1)) (by omega)

/-- A splice keeps it. -/
theorem Memory.wf_memSplice (m : Mem) (a : Nat) (bs : List Byte) (h : Memory.wf m = true) : Memory.wf (memSplice m a bs) = true := by
  unfold memSplice Memory.wf
  rw [List.append_assoc]
  refine Memory.wfFrom_append (mid := a) (Memory.wfFrom_filter _ h) (fun c hc => by simpa using (List.mem_filter.mp hc).2) (Nat.zero_le a) ?_
  refine Memory.wfFrom_append (mid := a + bs.length) (Memory.wfFrom_cellsAt a bs)
    (fun c hc => (cellsAt_bounds a bs c (List.mem_filter.mp hc).1).2) (by omega) ?_
  exact Memory.wfFrom_atLeast (Memory.wfFrom_filter _ h) (fun c hc => by simpa using (List.mem_filter.mp hc).2)

/-! Reading after a write. -/

theorem memRead_below {lo : Nat} {m : Mem} {a : Nat} (h : Memory.wfFrom lo m = true) (ha : a < lo) : memRead m a = 0 := by
  cases m with
  | nil => rfl
  | cons c rest =>
    obtain ⟨k, x⟩ := c
    rw [Memory.wfFrom_cons] at h
    unfold memRead
    rw [if_neg (by omega), if_pos (by omega)]

theorem memRead_memWrite {lo : Nat} (m : Mem) (a : Nat) (b : Byte) (x : Nat) (h : Memory.wfFrom lo m = true) :
    memRead (memWrite m a b) x = if x = a then b else memRead m x := by
  induction m generalizing lo with
  | nil =>
    unfold memWrite
    by_cases hb : b = 0
    · rw [if_pos hb]
      by_cases hx : x = a
      · rw [if_pos hx, hb]; rfl
      · rw [if_neg hx]
    · rw [if_neg hb, memRead, memRead]
      by_cases hx : x = a
      · rw [if_pos hx.symm, if_pos hx]
      · rw [if_neg (fun e => hx e.symm), if_neg hx]
        split <;> rfl
  | cons c rest ih =>
    obtain ⟨k, y⟩ := c
    rw [Memory.wfFrom_cons] at h
    obtain ⟨h1, h2, h3⟩ := h
    unfold memWrite
    by_cases hak : a < k
    · rw [if_pos hak]
      by_cases hb : b = 0
      · rw [if_pos hb]
        by_cases hx : x = a
        · rw [if_pos hx, hx, hb, memRead, if_neg (by omega), if_pos hak]
        · rw [if_neg hx]
      · rw [if_neg hb]
        by_cases hx : x = a
        · subst hx; simp [memRead]
        · rw [memRead]
          simp only [show ¬ a = x from fun e => hx e.symm, if_false, hx]
          by_cases hxa : x < a
          · rw [if_pos hxa, memRead, if_neg (by omega), if_pos (by omega)]
          · rw [if_neg hxa]
    · rw [if_neg hak]
      by_cases hka : k = a
      · subst hka
        rw [if_pos rfl]
        by_cases hb : b = 0
        · rw [if_pos hb]
          by_cases hx : x = k
          · rw [if_pos hx, hx, hb, memRead_below h3 (by omega)]
          · rw [if_neg hx]
            by_cases hxk : x < k
            · rw [memRead_below h3 (by omega), memRead, if_neg (by omega), if_pos hxk]
            · rw [memRead, if_neg (by omega), if_neg hxk]
        · rw [if_neg hb]
          by_cases hx : x = k
          · subst hx; simp [memRead]
          · simp [memRead, show ¬ k = x from fun e => hx e.symm, hx]
      · rw [if_neg hka, memRead, memRead, ih h3]
        by_cases hx : x = a
        · subst hx; simp [hka, hak]
        · simp [hx]

/-- A byte reads as it was written, and every other byte as before. -/
theorem memRead_write (m : Mem) (a : Nat) (b : Byte) (x : Nat) (h : Memory.wf m = true) :
    memRead (memWrite m a b) x = if x = a then b else memRead m x := memRead_memWrite m a b x h

/-! The device's memory under the operations that change it. -/

theorem wf_pokeBytes (s : State) (a : Nat) (bs : List Byte) (h : Memory.wf s.ms.mem = true) : Memory.wf (s.pokeBytes a bs).ms.mem = true :=
  Memory.wf_memWriteN _ _ _ h

theorem bookGroup_ms (s : State) (d pc g : Nat) : (bookGroup s d pc g).ms = s.ms := by
  unfold bookGroup
  simp only
  split <;> rfl

theorem foldl_bookGroup_ms (s : State) (d pc : Nat) (gs : List Nat) : (gs.foldl (fun s g => bookGroup s d pc g) s).ms = s.ms := by
  induction gs generalizing s with
  | nil => rfl
  | cons g rest ih => rw [List.foldl_cons, ih, bookGroup_ms]

theorem bookCorrection_ms (s : State) (sector : Nat) (bad : List (Nat × Byte)) : (bookCorrection s sector bad).ms = s.ms := by
  unfold bookCorrection
  simp only [foldl_bookGroup_ms]
  rfl

theorem wf_poisonSector (s : State) (sector : Nat) (h : Memory.wf s.ms.mem = true) : Memory.wf (poisonSector s sector).ms.mem = true := by
  unfold poisonSector
  split <;> exact h

/-- Reading a sector through its decoder keeps it. -/
theorem wf_decodeSector (s : State) (sector : Nat) (h : Memory.wf s.ms.mem = true) : Memory.wf (decodeSector s sector).ms.mem = true := by
  unfold decodeSector
  split
  · exact h
  · simp only
    split
    · split
      · exact h
      · rw [bookCorrection_ms]
        exact h
    · split
      · exact wf_poisonSector s sector h
      · exact wf_pokeBytes _ _ _ h

theorem wf_foldl_decodeSector (l : List Nat) (s : State) (h : Memory.wf s.ms.mem = true) : Memory.wf (l.foldl decodeSector s).ms.mem = true := by
  induction l generalizing s with
  | nil => exact h
  | cons x rest ih => exact ih _ (wf_decodeSector s x h)

theorem wf_applyVersion (s : State) (v : Version) (h : Memory.wf s.ms.mem = true) : Memory.wf (applyVersion s v).ms.mem = true :=
  Memory.wf_memWriteCells _ _ (wf_foldl_decodeSector _ s h)

theorem wf_settleLoop (n : Nat) (s : State) (h : Memory.wf s.ms.mem = true) : Memory.wf (settleLoop n s).ms.mem = true := by
  induction n generalizing s with
  | zero => exact h
  | succ n ih =>
    unfold settleLoop
    split
    · split
      · exact ih _ (wf_applyVersion _ _ h)
      · exact h
    · exact h

theorem wf_markDirty (s : State) (v a : Nat) (h : Memory.wf s.ms.mem = true) : Memory.wf (s.markDirty v a).ms.mem = true := by
  unfold State.markDirty
  simp only
  split
  · exact Memory.wf_memWrite _ _ _ (wf_decodeSector _ _ h)
  · exact h

/-- Reads on the way of an access keep it, and leave the state alone where no stored symbol is bad. -/
theorem wf_readThrough (s : State) (as : List Nat) (h : Memory.wf s.ms.mem = true) : Memory.wf (readThrough s as).ms.mem = true :=
  wf_foldl_decodeSector _ s h

theorem wf_walked (s : State) (a : Asker) (v gva : Nat) (h : Memory.wf s.ms.mem = true) : Memory.wf (s.walked a v gva).ms.mem = true := by
  unfold State.walked
  split
  · exact h
  · exact wf_readThrough _ _ h

theorem walked_clean {s : State} (h : s.ms.badSymbols = []) (a : Asker) (v gva : Nat) : s.walked a v gva = s := by simp [State.walked, h]

theorem walkedGpa_clean {s : State} (h : s.ms.badSymbols = []) (v gpa : Nat) : s.walkedGpa v gpa = s := by simp [State.walkedGpa, h]

/-- Reset lists no memory. -/
theorem wf_reset : Memory.wf State.reset.ms.mem = true := rfl

end Sys2Proof.Machine
end

