-- ==== Sys2Proof/Laws/PerInstr.lean ====
section
/-!
SUPPORT. For each constructor of Instr: a well-formed instruction's word decodes to that instruction (R140 to R152). The events
of the table have no word.
-/

namespace Sys2Proof.Laws.RoundTrip

/-! Fields of a concatenation. -/

theorem extract_high {n m s l : Nat} (x : BitVec n) (y : BitVec m) (h : m ≤ s) : (x ++ y).extractLsb' s l = x.extractLsb' (s - m) l := by
  apply BitVec.eq_of_getLsbD_eq
  intro i hi
  simp [BitVec.getLsbD_append, hi, show ¬ (s + i < m) by omega, show s + i - m = s - m + i by omega]

theorem extract_low {n m : Nat} (x : BitVec n) (y : BitVec m) : (x ++ y).extractLsb' 0 m = y := by
  apply BitVec.eq_of_getLsbD_eq
  intro i hi
  simp [BitVec.getLsbD_append, hi]

theorem extract_whole {n : Nat} (x : BitVec n) : x.extractLsb' 0 n = x := by
  apply BitVec.eq_of_getLsbD_eq
  intro i hi
  simp [hi]

theorem bit_high {n m i : Nat} (x : BitVec n) (y : BitVec m) (h : m ≤ i) : (x ++ y).getLsbD i = x.getLsbD (i - m) := by
  rw [BitVec.getLsbD_append]
  simp [show ¬ i < m by omega]

theorem bit_low {n : Nat} (x : BitVec n) (b : Bool) : (x ++ BitVec.ofBool b).getLsbD 0 = b := by
  rw [BitVec.getLsbD_append]
  cases b <;> rfl

theorem tyOfCode_tyCode (t : Ty) : (Machine.tyOfCode (BitVec.ofNat 4 (Machine.tyCode t)).toNat).getD .b64 = t := by cases t <;> rfl

theorem rndOfCode_rndCode (r : Rnd) : (Machine.rndOfCode (BitVec.ofNat 3 (Machine.rndCode r)).toNat).getD .rne = r := by cases r <;> rfl

/-! Format R. -/

theorem packR_op (op : BitVec 8) (f : FR) : (packR op f).extractLsb' 56 8 = op := by
  unfold packR headBits
  repeat refine (extract_high _ _ (by decide)).trans ?_
  exact extract_whole _

theorem packR_sub (op : BitVec 8) (f : FR) : (packR op f).extractLsb' 48 3 = f.sub := by
  unfold packR headBits
  repeat refine (extract_high _ _ (by decide)).trans ?_
  exact extract_low _ _

theorem packR_neg (op : BitVec 8) (f : FR) : (packR op f).getLsbD 55 = f.g.neg := by
  unfold packR headBits
  repeat refine (bit_high _ _ (by decide)).trans ?_
  exact bit_low _ _

theorem packR_p (op : BitVec 8) (f : FR) : (packR op f).extractLsb' 52 3 = f.g.p := by
  unfold packR headBits
  repeat refine (extract_high _ _ (by decide)).trans ?_
  exact extract_low _ _

theorem packR_d (op : BitVec 8) (f : FR) : (packR op f).extractLsb' 42 6 = f.d := by
  unfold packR headBits
  repeat refine (extract_high _ _ (by decide)).trans ?_
  exact extract_low _ _

theorem packR_a (op : BitVec 8) (f : FR) : (packR op f).extractLsb' 36 6 = f.a := by
  unfold packR headBits
  repeat refine (extract_high _ _ (by decide)).trans ?_
  exact extract_low _ _

theorem packR_b (op : BitVec 8) (f : FR) : (packR op f).extractLsb' 30 6 = f.b := by
  unfold packR headBits
  repeat refine (extract_high _ _ (by decide)).trans ?_
  exact extract_low _ _

theorem packR_c (op : BitVec 8) (f : FR) : (packR op f).extractLsb' 24 6 = f.c := by
  unfold packR headBits
  repeat refine (extract_high _ _ (by decide)).trans ?_
  exact extract_low _ _

theorem packR_swz (op : BitVec 8) (f : FR) : (packR op f).extractLsb' 18 6 = f.swz := by
  unfold packR headBits
  repeat refine (extract_high _ _ (by decide)).trans ?_
  exact extract_low _ _

theorem packR_ty (op : BitVec 8) (f : FR) : (packR op f).extractLsb' 14 4 = BitVec.ofNat 4 (Machine.tyCode f.ty) := by
  unfold packR headBits
  repeat refine (extract_high _ _ (by decide)).trans ?_
  exact extract_low _ _

theorem packR_rnd (op : BitVec 8) (f : FR) : (packR op f).extractLsb' 11 3 = BitVec.ofNat 3 (Machine.rndCode f.rnd) := by
  unfold packR headBits
  repeat refine (extract_high _ _ (by decide)).trans ?_
  exact extract_low _ _

theorem packR_sat (op : BitVec 8) (f : FR) : (packR op f).getLsbD 10 = f.sat := by
  unfold packR headBits
  repeat refine (bit_high _ _ (by decide)).trans ?_
  exact bit_low _ _

theorem packR_reuse (op : BitVec 8) (f : FR) : (packR op f).getLsbD 9 = f.reuse := by
  unfold packR headBits
  repeat refine (bit_high _ _ (by decide)).trans ?_
  exact bit_low _ _

theorem packR_ext (op : BitVec 8) (f : FR) : (packR op f).extractLsb' 0 9 = f.ext := by
  unfold packR headBits
  repeat refine (extract_high _ _ (by decide)).trans ?_
  exact extract_low _ _

theorem readR_packR (op : BitVec 8) (f : FR) : readR (packR op f) = f := by
  simp only [readR, guardOf, subOf, packR_sub, packR_neg, packR_p, packR_d, packR_a, packR_b, packR_c, packR_swz, packR_ty, packR_rnd, packR_sat, packR_reuse, packR_ext, tyOfCode_tyCode, rndOfCode_rndCode]

/-! Format I. -/

theorem packI_op (op : BitVec 8) (f : FI) : (packI op f).extractLsb' 56 8 = op := by
  unfold packI headBits
  repeat refine (extract_high _ _ (by decide)).trans ?_
  exact extract_whole _

theorem packI_sub (op : BitVec 8) (f : FI) : (packI op f).extractLsb' 48 3 = f.sub := by
  unfold packI headBits
  repeat refine (extract_high _ _ (by decide)).trans ?_
  exact extract_low _ _

theorem packI_neg (op : BitVec 8) (f : FI) : (packI op f).getLsbD 55 = f.g.neg := by
  unfold packI headBits
  repeat refine (bit_high _ _ (by decide)).trans ?_
  exact bit_low _ _

theorem packI_p (op : BitVec 8) (f : FI) : (packI op f).extractLsb' 52 3 = f.g.p := by
  unfold packI headBits
  repeat refine (extract_high _ _ (by decide)).trans ?_
  exact extract_low _ _

theorem packI_d (op : BitVec 8) (f : FI) : (packI op f).extractLsb' 42 6 = f.d := by
  unfold packI headBits
  repeat refine (extract_high _ _ (by decide)).trans ?_
  exact extract_low _ _

theorem packI_a (op : BitVec 8) (f : FI) : (packI op f).extractLsb' 36 6 = f.a := by
  unfold packI headBits
  repeat refine (extract_high _ _ (by decide)).trans ?_
  exact extract_low _ _

theorem packI_imm (op : BitVec 8) (f : FI) : (packI op f).extractLsb' 0 36 = f.imm := by
  unfold packI headBits
  repeat refine (extract_high _ _ (by decide)).trans ?_
  exact extract_low _ _

theorem readI_packI (op : BitVec 8) (f : FI) : readI (packI op f) = f := by
  simp only [readI, guardOf, subOf, packI_sub, packI_neg, packI_p, packI_d, packI_a, packI_imm]

/-! Format M. -/

theorem packM_op (op : BitVec 8) (f : FM) : (packM op f).extractLsb' 56 8 = op := by
  unfold packM headBits
  repeat refine (extract_high _ _ (by decide)).trans ?_
  exact extract_whole _

theorem packM_sub (op : BitVec 8) (f : FM) : (packM op f).extractLsb' 48 3 = f.sub := by
  unfold packM headBits
  repeat refine (extract_high _ _ (by decide)).trans ?_
  exact extract_low _ _

theorem packM_neg (op : BitVec 8) (f : FM) : (packM op f).getLsbD 55 = f.g.neg := by
  unfold packM headBits
  repeat refine (bit_high _ _ (by decide)).trans ?_
  exact bit_low _ _

theorem packM_p (op : BitVec 8) (f : FM) : (packM op f).extractLsb' 52 3 = f.g.p := by
  unfold packM headBits
  repeat refine (extract_high _ _ (by decide)).trans ?_
  exact extract_low _ _

theorem packM_f (op : BitVec 8) (f : FM) : (packM op f).getLsbD 51 = f.f := by
  unfold packM headBits
  repeat refine (bit_high _ _ (by decide)).trans ?_
  exact bit_low _ _

theorem packM_d (op : BitVec 8) (f : FM) : (packM op f).extractLsb' 42 6 = f.d := by
  unfold packM headBits
  repeat refine (extract_high _ _ (by decide)).trans ?_
  exact extract_low _ _

theorem packM_a (op : BitVec 8) (f : FM) : (packM op f).extractLsb' 36 6 = f.a := by
  unfold packM headBits
  repeat refine (extract_high _ _ (by decide)).trans ?_
  exact extract_low _ _

theorem packM_b (op : BitVec 8) (f : FM) : (packM op f).extractLsb' 30 6 = f.b := by
  unfold packM headBits
  repeat refine (extract_high _ _ (by decide)).trans ?_
  exact extract_low _ _

theorem packM_scope (op : BitVec 8) (f : FM) : (packM op f).extractLsb' 27 3 = f.scope := by
  unfold packM headBits
  repeat refine (extract_high _ _ (by decide)).trans ?_
  exact extract_low _ _

theorem packM_lh (op : BitVec 8) (f : FM) : (packM op f).extractLsb' 25 2 = f.lh := by
  unfold packM headBits
  repeat refine (extract_high _ _ (by decide)).trans ?_
  exact extract_low _ _

theorem packM_ub (op : BitVec 8) (f : FM) : (packM op f).getLsbD 24 = f.ub := by
  unfold packM headBits
  repeat refine (bit_high _ _ (by decide)).trans ?_
  exact bit_low _ _

theorem packM_sp (op : BitVec 8) (f : FM) : (packM op f).getLsbD 23 = f.sp := by
  unfold packM headBits
  repeat refine (bit_high _ _ (by decide)).trans ?_
  exact bit_low _ _

theorem packM_cnt (op : BitVec 8) (f : FM) : (packM op f).extractLsb' 20 3 = f.cnt := by
  unfold packM headBits
  repeat refine (extract_high _ _ (by decide)).trans ?_
  exact extract_low _ _

theorem packM_off (op : BitVec 8) (f : FM) : (packM op f).extractLsb' 0 20 = f.off := by
  unfold packM headBits
  repeat refine (extract_high _ _ (by decide)).trans ?_
  exact extract_low _ _

theorem readM_packM (op : BitVec 8) (f : FM) : readM (packM op f) = f := by
  simp only [readM, guardOf, subOf, packM_sub, packM_neg, packM_p, packM_f, packM_d, packM_a, packM_b, packM_scope, packM_lh, packM_ub, packM_sp, packM_cnt, packM_off]

/-! Format X. -/

theorem packX_op (op : BitVec 8) (f : FX) : (packX op f).extractLsb' 56 8 = op := by
  unfold packX headBits
  repeat refine (extract_high _ _ (by decide)).trans ?_
  exact extract_whole _

theorem packX_sub (op : BitVec 8) (f : FX) : (packX op f).extractLsb' 48 3 = f.sub := by
  unfold packX headBits
  repeat refine (extract_high _ _ (by decide)).trans ?_
  exact extract_low _ _

theorem packX_neg (op : BitVec 8) (f : FX) : (packX op f).getLsbD 55 = f.g.neg := by
  unfold packX headBits
  repeat refine (bit_high _ _ (by decide)).trans ?_
  exact bit_low _ _

theorem packX_p (op : BitVec 8) (f : FX) : (packX op f).extractLsb' 52 3 = f.g.p := by
  unfold packX headBits
  repeat refine (extract_high _ _ (by decide)).trans ?_
  exact extract_low _ _

theorem packX_f (op : BitVec 8) (f : FX) : (packX op f).getLsbD 51 = f.f := by
  unfold packX headBits
  repeat refine (bit_high _ _ (by decide)).trans ?_
  exact bit_low _ _

theorem packX_d (op : BitVec 8) (f : FX) : (packX op f).extractLsb' 42 6 = f.d := by
  unfold packX headBits
  repeat refine (extract_high _ _ (by decide)).trans ?_
  exact extract_low _ _

theorem packX_a (op : BitVec 8) (f : FX) : (packX op f).extractLsb' 36 6 = f.a := by
  unfold packX headBits
  repeat refine (extract_high _ _ (by decide)).trans ?_
  exact extract_low _ _

theorem packX_b (op : BitVec 8) (f : FX) : (packX op f).extractLsb' 30 6 = f.b := by
  unfold packX headBits
  repeat refine (extract_high _ _ (by decide)).trans ?_
  exact extract_low _ _

theorem packX_c (op : BitVec 8) (f : FX) : (packX op f).extractLsb' 24 6 = f.c := by
  unfold packX headBits
  repeat refine (extract_high _ _ (by decide)).trans ?_
  exact extract_low _ _

theorem packX_sla (op : BitVec 8) (f : FX) : (packX op f).extractLsb' 21 3 = f.sla := by
  unfold packX headBits
  repeat refine (extract_high _ _ (by decide)).trans ?_
  exact extract_low _ _

theorem packX_slb (op : BitVec 8) (f : FX) : (packX op f).extractLsb' 18 3 = f.slb := by
  unfold packX headBits
  repeat refine (extract_high _ _ (by decide)).trans ?_
  exact extract_low _ _

theorem packX_msel (op : BitVec 8) (f : FX) : (packX op f).extractLsb' 14 4 = f.msel := by
  unfold packX headBits
  repeat refine (extract_high _ _ (by decide)).trans ?_
  exact extract_low _ _

theorem packX_men (op : BitVec 8) (f : FX) : (packX op f).getLsbD 13 = f.men := by
  unfold packX headBits
  repeat refine (bit_high _ _ (by decide)).trans ?_
  exact bit_low _ _

theorem packX_byp (op : BitVec 8) (f : FX) : (packX op f).getLsbD 12 = f.byp := by
  unfold packX headBits
  repeat refine (bit_high _ _ (by decide)).trans ?_
  exact bit_low _ _

theorem packX_reuse (op : BitVec 8) (f : FX) : (packX op f).getLsbD 11 = f.reuse := by
  unfold packX headBits
  repeat refine (bit_high _ _ (by decide)).trans ?_
  exact bit_low _ _

theorem packX_sp (op : BitVec 8) (f : FX) : (packX op f).getLsbD 10 = f.sp := by
  unfold packX headBits
  repeat refine (bit_high _ _ (by decide)).trans ?_
  exact bit_low _ _

theorem readX_packX (op : BitVec 8) (f : FX) : readX (packX op f) = f := by
  simp only [readX, guardOf, subOf, packX_sub, packX_neg, packX_p, packX_f, packX_d, packX_a, packX_b, packX_c, packX_sla, packX_slb, packX_msel, packX_men, packX_byp, packX_reuse, packX_sp]

/-! Format H. -/

theorem packH_op (op : BitVec 8) (f : FH) : (packH op f).extractLsb' 56 8 = op := by
  unfold packH headBits
  repeat refine (extract_high _ _ (by decide)).trans ?_
  exact extract_whole _

theorem packH_sub (op : BitVec 8) (f : FH) : (packH op f).extractLsb' 48 3 = f.sub := by
  unfold packH headBits
  repeat refine (extract_high _ _ (by decide)).trans ?_
  exact extract_low _ _

theorem packH_neg (op : BitVec 8) (f : FH) : (packH op f).getLsbD 55 = f.g.neg := by
  unfold packH headBits
  repeat refine (bit_high _ _ (by decide)).trans ?_
  exact bit_low _ _

theorem packH_p (op : BitVec 8) (f : FH) : (packH op f).extractLsb' 52 3 = f.g.p := by
  unfold packH headBits
  repeat refine (extract_high _ _ (by decide)).trans ?_
  exact extract_low _ _

theorem packH_f (op : BitVec 8) (f : FH) : (packH op f).getLsbD 51 = f.f := by
  unfold packH headBits
  repeat refine (bit_high _ _ (by decide)).trans ?_
  exact bit_low _ _

theorem packH_d (op : BitVec 8) (f : FH) : (packH op f).extractLsb' 42 6 = f.d := by
  unfold packH headBits
  repeat refine (extract_high _ _ (by decide)).trans ?_
  exact extract_low _ _

theorem packH_a (op : BitVec 8) (f : FH) : (packH op f).extractLsb' 36 6 = f.a := by
  unfold packH headBits
  repeat refine (extract_high _ _ (by decide)).trans ?_
  exact extract_low _ _

theorem packH_b (op : BitVec 8) (f : FH) : (packH op f).extractLsb' 30 6 = f.b := by
  unfold packH headBits
  repeat refine (extract_high _ _ (by decide)).trans ?_
  exact extract_low _ _

theorem packH_c (op : BitVec 8) (f : FH) : (packH op f).extractLsb' 24 6 = f.c := by
  unfold packH headBits
  repeat refine (extract_high _ _ (by decide)).trans ?_
  exact extract_low _ _

theorem packH_mc (op : BitVec 8) (f : FH) : (packH op f).extractLsb' 22 2 = f.mc := by
  unfold packH headBits
  repeat refine (extract_high _ _ (by decide)).trans ?_
  exact extract_low _ _

theorem packH_tb (op : BitVec 8) (f : FH) : (packH op f).extractLsb' 19 3 = f.tb := by
  unfold packH headBits
  repeat refine (extract_high _ _ (by decide)).trans ?_
  exact extract_low _ _

theorem packH_sp (op : BitVec 8) (f : FH) : (packH op f).getLsbD 18 = f.sp := by
  unfold packH headBits
  repeat refine (bit_high _ _ (by decide)).trans ?_
  exact bit_low _ _

theorem packH_kn (op : BitVec 8) (f : FH) : (packH op f).extractLsb' 13 4 = f.kn := by
  unfold packH headBits
  repeat refine (extract_high _ _ (by decide)).trans ?_
  exact extract_low _ _

theorem packH_rot (op : BitVec 8) (f : FH) : (packH op f).extractLsb' 0 13 = f.rot := by
  unfold packH headBits
  repeat refine (extract_high _ _ (by decide)).trans ?_
  exact extract_low _ _

theorem readH_packH (op : BitVec 8) (f : FH) : readH (packH op f) = f := by
  simp only [readH, guardOf, subOf, packH_sub, packH_neg, packH_p, packH_f, packH_d, packH_a, packH_b, packH_c, packH_mc, packH_tb, packH_sp, packH_kn, packH_rot]

/-! Format S. -/

theorem packS_op (op : BitVec 8) (f : FS) : (packS op f).extractLsb' 56 8 = op := by
  unfold packS headBits
  repeat refine (extract_high _ _ (by decide)).trans ?_
  exact extract_whole _

theorem packS_neg (op : BitVec 8) (f : FS) : (packS op f).getLsbD 55 = f.g.neg := by
  unfold packS headBits
  repeat refine (bit_high _ _ (by decide)).trans ?_
  exact bit_low _ _

theorem packS_p (op : BitVec 8) (f : FS) : (packS op f).extractLsb' 52 3 = f.g.p := by
  unfold packS headBits
  repeat refine (extract_high _ _ (by decide)).trans ?_
  exact extract_low _ _

theorem packS_d (op : BitVec 8) (f : FS) : (packS op f).extractLsb' 42 6 = f.d := by
  unfold packS headBits
  repeat refine (extract_high _ _ (by decide)).trans ?_
  exact extract_low _ _

theorem packS_a (op : BitVec 8) (f : FS) : (packS op f).extractLsb' 36 6 = f.a := by
  unfold packS headBits
  repeat refine (extract_high _ _ (by decide)).trans ?_
  exact extract_low _ _

theorem packS_code (op : BitVec 8) (f : FS) : (packS op f).extractLsb' 0 16 = f.code := by
  unfold packS headBits
  repeat refine (extract_high _ _ (by decide)).trans ?_
  exact extract_low _ _

theorem readS_packS (op : BitVec 8) (f : FS) : readS (packS op f) = f := by
  simp only [readS, guardOf, packS_neg, packS_p, packS_d, packS_a, packS_code]

/-! Decoding a word whose term is read back. -/

/-- A well-formed instruction's word decodes to it. -/
def Statement (i : Instr) : Prop := i.wf = true → ∀ w, encodeWord i = some w → decodeWord w = some i

theorem of_parse {i : Instr} (h : i.wf = true → ∀ w, encodeWord i = some w → parse w = some i) : Statement i := by
  intro hw w he
  unfold decodeWord
  rw [h hw w he]
  simp [hw, he]

theorem of_none {i : Instr} (h : encodeWord i = none) : Statement i := by
  intro _ w he
  rw [h] at he
  cases he

theorem of_format {α : Type} {pk : BitVec 8 → α → Word} {rd : Word → α} (read : ∀ op f, rd (pk op f) = f)
    (opc : ∀ op f, (pk op f).extractLsb' 56 8 = op) {mk : α → Instr} {op : BitVec 8} (f : α) (henc : encodeWord (mk f) = some (pk op f))
    (hpar : (mk f).wf = true → parseOp op.toNat (pk op f) = some (mk (rd (pk op f)))) : Statement (mk f) := by
  apply of_parse
  intro hw w he
  rw [henc] at he
  cases he
  have h : parse (pk op f) = parseOp op.toNat (pk op f) := by
    unfold parse opOf
    rw [opc]
  rw [h, hpar hw, read]

theorem add (f : FR) : Statement (.add f) :=
  of_format readR_packR packR_op (mk := .add) (op := 0x10) f rfl (fun _ => rfl)

theorem sub (f : FR) : Statement (.sub f) :=
  of_format readR_packR packR_op (mk := .sub) (op := 0x11) f rfl (fun _ => rfl)

theorem mul (f : FR) : Statement (.mul f) :=
  of_format readR_packR packR_op (mk := .mul) (op := 0x12) f rfl (fun _ => rfl)

theorem mad (f : FR) : Statement (.mad f) :=
  of_format readR_packR packR_op (mk := .mad) (op := 0x13) f rfl (fun _ => rfl)

theorem mulhi (f : FR) : Statement (.mulhi f) :=
  of_format readR_packR packR_op (mk := .mulhi) (op := 0x14) f rfl (fun _ => rfl)

theorem dot4 (f : FR) : Statement (.dot4 f) :=
  of_format readR_packR packR_op (mk := .dot4) (op := 0x15) f rfl (fun _ => rfl)

theorem sad (f : FR) : Statement (.sad f) :=
  of_format readR_packR packR_op (mk := .sad) (op := 0x16) f rfl (fun _ => rfl)

theorem min_ (f : FR) : Statement (.min_ f) :=
  of_format readR_packR packR_op (mk := .min_) (op := 0x17) f rfl (fun _ => rfl)

theorem max_ (f : FR) : Statement (.max_ f) :=
  of_format readR_packR packR_op (mk := .max_) (op := 0x18) f rfl (fun _ => rfl)

theorem abs_ (f : FR) : Statement (.abs_ f) :=
  of_format readR_packR packR_op (mk := .abs_) (op := 0x19) f rfl (fun _ => rfl)

theorem neg (f : FR) : Statement (.neg f) :=
  of_format readR_packR packR_op (mk := .neg) (op := 0x1a) f rfl (fun _ => rfl)

theorem lea (f : FR) : Statement (.lea f) :=
  of_format readR_packR packR_op (mk := .lea) (op := 0x1b) f rfl (fun _ => rfl)

theorem sel (f : FR) : Statement (.sel f) :=
  of_format readR_packR packR_op (mk := .sel) (op := 0x1c) f rfl (fun _ => rfl)

theorem mov (f : FR) : Statement (.mov f) :=
  of_format readR_packR packR_op (mk := .mov) (op := 0x1d) f rfl (fun _ => rfl)

theorem movi (f : FI) : Statement (.movi f) :=
  of_format readI_packI packI_op (mk := .movi) (op := 0x1e) f rfl (fun hw => by
    have h : f.sub = 0 := by
      simp [Instr.wf, Machine.legal] at hw
      simp [hw]
    have hs : subOf (packI 0x1e f) = 0 := by
      unfold subOf
      rw [packI_sub, h]
    simp only [parseOp, hs]
    rfl)

theorem moviHi (f : FI) : Statement (.moviHi f) :=
  of_format readI_packI packI_op (mk := .moviHi) (op := 0x1e) f rfl (fun hw => by
    have h : f.sub = 1 := by
      simp [Instr.wf, Machine.legal] at hw
      simp [hw]
    have hs : subOf (packI 0x1e f) = 1 := by
      unfold subOf
      rw [packI_sub, h]
    simp only [parseOp, hs]
    rfl)

theorem and_ (f : FR) : Statement (.and_ f) :=
  of_format readR_packR packR_op (mk := .and_) (op := 0x20) f rfl (fun _ => rfl)

theorem or_ (f : FR) : Statement (.or_ f) :=
  of_format readR_packR packR_op (mk := .or_) (op := 0x21) f rfl (fun _ => rfl)

theorem xor_ (f : FR) : Statement (.xor_ f) :=
  of_format readR_packR packR_op (mk := .xor_) (op := 0x22) f rfl (fun _ => rfl)

theorem andn (f : FR) : Statement (.andn f) :=
  of_format readR_packR packR_op (mk := .andn) (op := 0x23) f rfl (fun _ => rfl)

theorem not_ (f : FR) : Statement (.not_ f) :=
  of_format readR_packR packR_op (mk := .not_) (op := 0x24) f rfl (fun _ => rfl)

theorem shl (f : FR) : Statement (.shl f) :=
  of_format readR_packR packR_op (mk := .shl) (op := 0x25) f rfl (fun _ => rfl)

theorem shr (f : FR) : Statement (.shr f) :=
  of_format readR_packR packR_op (mk := .shr) (op := 0x26) f rfl (fun _ => rfl)

theorem sar (f : FR) : Statement (.sar f) :=
  of_format readR_packR packR_op (mk := .sar) (op := 0x27) f rfl (fun _ => rfl)

theorem rot (f : FR) : Statement (.rot f) :=
  of_format readR_packR packR_op (mk := .rot) (op := 0x28) f rfl (fun _ => rfl)

theorem clz (f : FR) : Statement (.clz f) :=
  of_format readR_packR packR_op (mk := .clz) (op := 0x29) f rfl (fun _ => rfl)

theorem popc (f : FR) : Statement (.popc f) :=
  of_format readR_packR packR_op (mk := .popc) (op := 0x2a) f rfl (fun _ => rfl)

theorem bitrev (f : FR) : Statement (.bitrev f) :=
  of_format readR_packR packR_op (mk := .bitrev) (op := 0x2b) f rfl (fun _ => rfl)

theorem bfe (f : FR) : Statement (.bfe f) :=
  of_format readR_packR packR_op (mk := .bfe) (op := 0x2c) f rfl (fun _ => rfl)

theorem bfi (f : FR) : Statement (.bfi f) :=
  of_format readR_packR packR_op (mk := .bfi) (op := 0x2d) f rfl (fun _ => rfl)

theorem cmp (f : FR) : Statement (.cmp f) :=
  of_format readR_packR packR_op (mk := .cmp) (op := 0x30) f rfl (fun _ => rfl)

theorem fcmp (f : FR) : Statement (.fcmp f) :=
  of_format readR_packR packR_op (mk := .fcmp) (op := 0x31) f rfl (fun _ => rfl)

theorem fclass (f : FR) : Statement (.fclass f) :=
  of_format readR_packR packR_op (mk := .fclass) (op := 0x32) f rfl (fun _ => rfl)

theorem pand (f : FR) : Statement (.pand f) :=
  of_format readR_packR packR_op (mk := .pand) (op := 0x33) f rfl (fun _ => rfl)

theorem por (f : FR) : Statement (.por f) :=
  of_format readR_packR packR_op (mk := .por) (op := 0x34) f rfl (fun _ => rfl)

theorem pxor (f : FR) : Statement (.pxor f) :=
  of_format readR_packR packR_op (mk := .pxor) (op := 0x35) f rfl (fun _ => rfl)

theorem pnot (f : FR) : Statement (.pnot f) :=
  of_format readR_packR packR_op (mk := .pnot) (op := 0x36) f rfl (fun _ => rfl)

theorem pmovFromVector (f : FR) : Statement (.pmovFromVector f) :=
  of_format readR_packR packR_op (mk := .pmovFromVector) (op := 0x37) f rfl (fun hw => by
    have h : f.ext = 0 := by
      simp [Instr.wf, Machine.legal] at hw
      simp [hw]
    have hs : (packR 0x37 f).getLsbD 0 = false := by
      have hx := packR_ext 0x37 f
      have : (packR 0x37 f).getLsbD 0 = ((packR 0x37 f).extractLsb' 0 9).getLsbD 0 := by simp
      rw [this, hx, h]
      decide
    simp only [parseOp, hs]
    rfl)

theorem pmovToVector (f : FR) : Statement (.pmovToVector f) :=
  of_format readR_packR packR_op (mk := .pmovToVector) (op := 0x37) f rfl (fun hw => by
    have h : f.ext = 1 := by
      simp [Instr.wf, Machine.legal] at hw
      simp [hw]
    have hs : (packR 0x37 f).getLsbD 0 = true := by
      have hx := packR_ext 0x37 f
      have : (packR 0x37 f).getLsbD 0 = ((packR 0x37 f).extractLsb' 0 9).getLsbD 0 := by simp
      rw [this, hx, h]
      decide
    simp only [parseOp, hs]
    rfl)

theorem voteAny (f : FR) : Statement (.voteAny f) :=
  of_format readR_packR packR_op (mk := .voteAny) (op := 0x38) f rfl (fun hw => by
    have h : f.sub = 0 := by
      simp [Instr.wf, Machine.legal] at hw
      simp [hw]
    have hs : subOf (packR 0x38 f) = 0 := by
      unfold subOf
      rw [packR_sub, h]
    simp only [parseOp, hs]
    rfl)

theorem voteAll (f : FR) : Statement (.voteAll f) :=
  of_format readR_packR packR_op (mk := .voteAll) (op := 0x38) f rfl (fun hw => by
    have h : f.sub = 1 := by
      simp [Instr.wf, Machine.legal] at hw
      simp [hw]
    have hs : subOf (packR 0x38 f) = 1 := by
      unfold subOf
      rw [packR_sub, h]
    simp only [parseOp, hs]
    rfl)

theorem voteBallot (f : FR) : Statement (.voteBallot f) :=
  of_format readR_packR packR_op (mk := .voteBallot) (op := 0x38) f rfl (fun hw => by
    have h : f.sub = 2 := by
      simp [Instr.wf, Machine.legal] at hw
      simp [hw]
    have hs : subOf (packR 0x38 f) = 2 := by
      unfold subOf
      rw [packR_sub, h]
    simp only [parseOp, hs]
    rfl)

theorem shfl (f : FR) : Statement (.shfl f) :=
  of_format readR_packR packR_op (mk := .shfl) (op := 0x39) f rfl (fun _ => rfl)

theorem bperm (f : FR) : Statement (.bperm f) :=
  of_format readR_packR packR_op (mk := .bperm) (op := 0x3a) f rfl (fun _ => rfl)

theorem fadd (f : FR) : Statement (.fadd f) :=
  of_format readR_packR packR_op (mk := .fadd) (op := 0x40) f rfl (fun _ => rfl)

theorem fsub (f : FR) : Statement (.fsub f) :=
  of_format readR_packR packR_op (mk := .fsub) (op := 0x41) f rfl (fun _ => rfl)

theorem fmul (f : FR) : Statement (.fmul f) :=
  of_format readR_packR packR_op (mk := .fmul) (op := 0x42) f rfl (fun _ => rfl)

theorem fma (f : FR) : Statement (.fma f) :=
  of_format readR_packR packR_op (mk := .fma) (op := 0x43) f rfl (fun _ => rfl)

theorem fmin (f : FR) : Statement (.fmin f) :=
  of_format readR_packR packR_op (mk := .fmin) (op := 0x44) f rfl (fun _ => rfl)

theorem fmax (f : FR) : Statement (.fmax f) :=
  of_format readR_packR packR_op (mk := .fmax) (op := 0x45) f rfl (fun _ => rfl)

theorem fabs (f : FR) : Statement (.fabs f) :=
  of_format readR_packR packR_op (mk := .fabs) (op := 0x46) f rfl (fun _ => rfl)

theorem fneg (f : FR) : Statement (.fneg f) :=
  of_format readR_packR packR_op (mk := .fneg) (op := 0x47) f rfl (fun _ => rfl)

theorem frnd (f : FR) : Statement (.frnd f) :=
  of_format readR_packR packR_op (mk := .frnd) (op := 0x48) f rfl (fun _ => rfl)

theorem frcp (f : FR) : Statement (.frcp f) :=
  of_format readR_packR packR_op (mk := .frcp) (op := 0x49) f rfl (fun _ => rfl)

theorem frsq (f : FR) : Statement (.frsq f) :=
  of_format readR_packR packR_op (mk := .frsq) (op := 0x4a) f rfl (fun _ => rfl)

theorem fsqrt (f : FR) : Statement (.fsqrt f) :=
  of_format readR_packR packR_op (mk := .fsqrt) (op := 0x4b) f rfl (fun _ => rfl)

theorem fexp2 (f : FR) : Statement (.fexp2 f) :=
  of_format readR_packR packR_op (mk := .fexp2) (op := 0x4c) f rfl (fun _ => rfl)

theorem flog2 (f : FR) : Statement (.flog2 f) :=
  of_format readR_packR packR_op (mk := .flog2) (op := 0x4d) f rfl (fun _ => rfl)

theorem fsin (f : FR) : Statement (.fsin f) :=
  of_format readR_packR packR_op (mk := .fsin) (op := 0x4e) f rfl (fun _ => rfl)

theorem fcos (f : FR) : Statement (.fcos f) :=
  of_format readR_packR packR_op (mk := .fcos) (op := 0x4f) f rfl (fun _ => rfl)

theorem ftanh (f : FR) : Statement (.ftanh f) :=
  of_format readR_packR packR_op (mk := .ftanh) (op := 0x50) f rfl (fun _ => rfl)

theorem cvt (f : FR) : Statement (.cvt f) :=
  of_format readR_packR packR_op (mk := .cvt) (op := 0x51) f rfl (fun _ => rfl)

theorem qnt (f : FR) : Statement (.qnt f) :=
  of_format readR_packR packR_op (mk := .qnt) (op := 0x52) f rfl (fun _ => rfl)

theorem dqnt (f : FR) : Statement (.dqnt f) :=
  of_format readR_packR packR_op (mk := .dqnt) (op := 0x53) f rfl (fun _ => rfl)

theorem pack (f : FR) : Statement (.pack f) :=
  of_format readR_packR packR_op (mk := .pack) (op := 0x54) f rfl (fun _ => rfl)

theorem unpack (f : FR) : Statement (.unpack f) :=
  of_format readR_packR packR_op (mk := .unpack) (op := 0x55) f rfl (fun _ => rfl)

theorem bra (f : FI) : Statement (.bra f) :=
  of_format readI_packI packI_op (mk := .bra) (op := 0x60) f rfl (fun _ => rfl)

theorem call (f : FI) : Statement (.call f) :=
  of_format readI_packI packI_op (mk := .call) (op := 0x62) f rfl (fun _ => rfl)

theorem brx (f : FR) : Statement (.brx f) :=
  of_format readR_packR packR_op (mk := .brx) (op := 0x61) f rfl (fun _ => rfl)

theorem ret (f : FR) : Statement (.ret f) :=
  of_format readR_packR packR_op (mk := .ret) (op := 0x63) f rfl (fun _ => rfl)

theorem exit (f : FS) : Statement (.exit f) :=
  of_format readS_packS packS_op (mk := .exit) (op := 0x64) f rfl (fun _ => rfl)

theorem yield (f : FS) : Statement (.yield f) :=
  of_format readS_packS packS_op (mk := .yield) (op := 0x65) f rfl (fun _ => rfl)

theorem rep (f : FI) : Statement (.rep f) :=
  of_format readI_packI packI_op (mk := .rep) (op := 0x66) f rfl (fun _ => rfl)

theorem waitt (f : FS) : Statement (.waitt f) :=
  of_format readS_packS packS_op (mk := .waitt) (op := 0x67) f rfl (fun _ => rfl)

theorem trap (f : FS) : Statement (.trap f) :=
  of_format readS_packS packS_op (mk := .trap) (op := 0x68) f rfl (fun _ => rfl)

theorem brk (f : FS) : Statement (.brk f) :=
  of_format readS_packS packS_op (mk := .brk) (op := 0x69) f rfl (fun _ => rfl)

theorem eret (f : FS) : Statement (.eret f) :=
  of_format readS_packS packS_op (mk := .eret) (op := 0x6a) f rfl (fun _ => rfl)

theorem movs (f : FS) : Statement (.movs f) :=
  of_format readS_packS packS_op (mk := .movs) (op := 0x6b) f rfl (fun _ => rfl)

theorem movt (f : FS) : Statement (.movt f) :=
  of_format readS_packS packS_op (mk := .movt) (op := 0x6c) f rfl (fun _ => rfl)

theorem ld (f : FM) : Statement (.ld f) :=
  of_format readM_packM packM_op (mk := .ld) (op := 0x70) f rfl (fun _ => rfl)

theorem st (f : FM) : Statement (.st f) :=
  of_format readM_packM packM_op (mk := .st) (op := 0x71) f rfl (fun _ => rfl)

theorem ldu (f : FM) : Statement (.ldu f) :=
  of_format readM_packM packM_op (mk := .ldu) (op := 0x72) f rfl (fun _ => rfl)

theorem atom (f : FM) : Statement (.atom f) :=
  of_format readM_packM packM_op (mk := .atom) (op := 0x73) f rfl (fun _ => rfl)

theorem atomFadd (f : FM) : Statement (.atomFadd f) :=
  of_format readM_packM packM_op (mk := .atomFadd) (op := 0x74) f rfl (fun _ => rfl)

theorem red (f : FM) : Statement (.red f) :=
  of_format readM_packM packM_op (mk := .red) (op := 0x75) f rfl (fun _ => rfl)

theorem fence (f : FM) : Statement (.fence f) :=
  of_format readM_packM packM_op (mk := .fence) (op := 0x76) f rfl (fun _ => rfl)

theorem fenceX (f : FM) : Statement (.fenceX f) :=
  of_format readM_packM packM_op (mk := .fenceX) (op := 0x77) f rfl (fun _ => rfl)

theorem pref (f : FM) : Statement (.pref f) :=
  of_format readM_packM packM_op (mk := .pref) (op := 0x78) f rfl (fun _ => rfl)

theorem cpy (f : FM) : Statement (.cpy f) :=
  of_format readM_packM packM_op (mk := .cpy) (op := 0x79) f rfl (fun _ => rfl)

theorem barArr (f : FR) : Statement (.barArr f) :=
  of_format readR_packR packR_op (mk := .barArr) (op := 0x80) f rfl (fun _ => rfl)

theorem barWait (f : FR) : Statement (.barWait f) :=
  of_format readR_packR packR_op (mk := .barWait) (op := 0x81) f rfl (fun _ => rfl)

theorem barRed (f : FR) : Statement (.barRed f) :=
  of_format readR_packR packR_op (mk := .barRed) (op := 0x82) f rfl (fun _ => rfl)

theorem barScan (f : FR) : Statement (.barScan f) :=
  of_format readR_packR packR_op (mk := .barScan) (op := 0x83) f rfl (fun _ => rfl)

theorem spawn (f : FR) : Statement (.spawn f) :=
  of_format readR_packR packR_op (mk := .spawn) (op := 0x84) f rfl (fun _ => rfl)

theorem migr (f : FM) : Statement (.migr f) :=
  of_format readM_packM packM_op (mk := .migr) (op := 0x85) f rfl (fun _ => rfl)

theorem musts (f : FM) : Statement (.musts f) :=
  of_format readM_packM packM_op (mk := .musts) (op := 0x86) f rfl (fun _ => rfl)

theorem tld (f : FX) : Statement (.tld f) :=
  of_format readX_packX packX_op (mk := .tld) (op := 0x90) f rfl (fun _ => rfl)

theorem tst (f : FX) : Statement (.tst f) :=
  of_format readX_packX packX_op (mk := .tst) (op := 0x91) f rfl (fun _ => rfl)

theorem acl (f : FX) : Statement (.acl f) :=
  of_format readX_packX packX_op (mk := .acl) (op := 0x92) f rfl (fun _ => rfl)

theorem mma (f : FX) : Statement (.mma f) :=
  of_format readX_packX packX_op (mk := .mma) (op := 0x93) f rfl (fun _ => rfl)

theorem adrn (f : FX) : Statement (.adrn f) :=
  of_format readX_packX packX_op (mk := .adrn) (op := 0x94) f rfl (fun _ => rfl)

theorem abyp (f : FX) : Statement (.abyp f) :=
  of_format readX_packX packX_op (mk := .abyp) (op := 0x95) f rfl (fun _ => rfl)

theorem ast (f : FX) : Statement (.ast f) :=
  of_format readX_packX packX_op (mk := .ast) (op := 0x96) f rfl (fun _ => rfl)

theorem hld (f : FH) : Statement (.hld f) :=
  of_format readH_packH packH_op (mk := .hld) (op := 0xa0) f rfl (fun _ => rfl)

theorem hst (f : FH) : Statement (.hst f) :=
  of_format readH_packH packH_op (mk := .hst) (op := 0xa1) f rfl (fun _ => rfl)

theorem hclr (f : FH) : Statement (.hclr f) :=
  of_format readH_packH packH_op (mk := .hclr) (op := 0xa2) f rfl (fun _ => rfl)

theorem hbind (f : FH) : Statement (.hbind f) :=
  of_format readH_packH packH_op (mk := .hbind) (op := 0xa3) f rfl (fun _ => rfl)

theorem hperm (f : FH) : Statement (.hperm f) :=
  of_format readH_packH packH_op (mk := .hperm) (op := 0xa4) f rfl (fun _ => rfl)

theorem hbun (f : FH) : Statement (.hbun f) :=
  of_format readH_packH packH_op (mk := .hbun) (op := 0xa5) f rfl (fun _ => rfl)

theorem hmaj (f : FH) : Statement (.hmaj f) :=
  of_format readH_packH packH_op (mk := .hmaj) (op := 0xa6) f rfl (fun _ => rfl)

theorem hdist (f : FH) : Statement (.hdist f) :=
  of_format readH_packH packH_op (mk := .hdist) (op := 0xa7) f rfl (fun _ => rfl)

theorem hpop (f : FH) : Statement (.hpop f) :=
  of_format readH_packH packH_op (mk := .hpop) (op := 0xa8) f rfl (fun _ => rfl)

theorem hams (f : FH) : Statement (.hams f) :=
  of_format readH_packH packH_op (mk := .hams) (op := 0xa9) f rfl (fun _ => rfl)

theorem hnear (f : FH) : Statement (.hnear f) :=
  of_format readH_packH packH_op (mk := .hnear) (op := 0xaa) f rfl (fun hw => by
    have h : f.sub = 0 := by
      simp [Instr.wf, Machine.legal] at hw
      simp [hw]
    have hs : subOf (packH 0xaa f) = 0 := by
      unfold subOf
      rw [packH_sub, h]
    simp only [parseOp, hs]
    rfl)

theorem hnearK (f : FH) : Statement (.hnearK f) :=
  of_format readH_packH packH_op (mk := .hnearK) (op := 0xaa) f rfl (fun hw => by
    have h : f.sub = 1 := by
      simp [Instr.wf, Machine.legal] at hw
      simp [hw]
    have hs : subOf (packH 0xaa f) = 1 := by
      unfold subOf
      rw [packH_sub, h]
    simp only [parseOp, hs]
    rfl)

theorem hscan (f : FH) : Statement (.hscan f) :=
  of_format readH_packH packH_op (mk := .hscan) (op := 0xab) f rfl (fun _ => rfl)

theorem deferredTrap (k : ThrKey) : Statement (.deferredTrap k) := of_none rfl

theorem bucketSelection (core : Nat) : Statement (.bucketSelection core) := of_none rfl

theorem groupSuspend (core : Nat) : Statement (.groupSuspend core) := of_none rfl

theorem threadAged (k : ThrKey) : Statement (.threadAged k) := of_none rfl

theorem teamStallDetect (t : TeamKey) : Statement (.teamStallDetect t) := of_none rfl

theorem threadActivation (core : Nat) : Statement (.threadActivation core) := of_none rfl

theorem contextLineFetchComplete (k : ThrKey) (line : Nat) : Statement (.contextLineFetchComplete k line) := of_none rfl

theorem victimWritebackComplete (id : Nat) : Statement (.victimWritebackComplete id) := of_none rfl

theorem barrierRelease (k : ThrKey) : Statement (.barrierRelease k) := of_none rfl

theorem yieldExpire (k : ThrKey) : Statement (.yieldExpire k) := of_none rfl

theorem waittDeadline (k : ThrKey) : Statement (.waittDeadline k) := of_none rfl

theorem fenceComplete (k : ThrKey) : Statement (.fenceComplete k) := of_none rfl

theorem loadReturn (id : Nat) : Statement (.loadReturn id) := of_none rfl

theorem storeAck (id : Nat) : Statement (.storeAck id) := of_none rfl

theorem atomReturn (id : Nat) : Statement (.atomReturn id) := of_none rfl

theorem homeReadRequest (id : Nat) : Statement (.homeReadRequest id) := of_none rfl

theorem leaseRenewal (id : Nat) : Statement (.leaseRenewal id) := of_none rfl

theorem homeStoreArrival (id : Nat) : Statement (.homeStoreArrival id) := of_none rfl

theorem homeAtomic (id : Nat) : Statement (.homeAtomic id) := of_none rfl

theorem replicaUpdate (id : Nat) : Statement (.replicaUpdate id) := of_none rfl

theorem combiningFlush (id : Nat) : Statement (.combiningFlush id) := of_none rfl

theorem windowRetire (cluster : Nat) (sector : Nat) : Statement (.windowRetire cluster sector) := of_none rfl

theorem heatDecay (line : Nat) : Statement (.heatDecay line) := of_none rfl

theorem scrub (sector : Nat) : Statement (.scrub sector) := of_none rfl

theorem leaseEntryError (line : Nat) : Statement (.leaseEntryError line) := of_none rfl

theorem tinv (vd : Nat) (x : Word) : Statement (.tinv vd x) := of_none rfl

theorem tinvComplete (vd : Nat) : Statement (.tinvComplete vd) := of_none rfl

theorem fqtail (vd : Nat) (x : Word) : Statement (.fqtail vd x) := of_none rfl

theorem stage2FaultRelease (id : Nat) (retry : Bool) : Statement (.stage2FaultRelease id retry) := of_none rfl

theorem cntvalRead (vd : Nat) : Statement (.cntvalRead vd) := of_none rfl

theorem tierreqEvict (vd : Nat) (x : Word) : Statement (.tierreqEvict vd x) := of_none rfl

theorem tierreqPromote (vd : Nat) (x : Word) : Statement (.tierreqPromote vd x) := of_none rfl

theorem evictionStart (h : Nat) : Statement (.evictionStart h) := of_none rfl

theorem containerSealed (h : Nat) (writeFails : Bool) : Statement (.containerSealed h writeFails) := of_none rfl

theorem promotionComplete (h : ContainerRead) : Statement (.promotionComplete h) := of_none rfl

theorem kick (vd : Nat) (j : Nat) (x : KickWrite) : Statement (.kick vd j x) := of_none rfl

theorem kickRecordRead (vd : Nat) (j : Nat) : Statement (.kickRecordRead vd j) := of_none rfl

theorem dependenceReport (vd : Nat) (j : Nat) (pair : Nat) : Statement (.dependenceReport vd j pair) := of_none rfl

theorem launchStart (vd : Nat) (j : Nat) : Statement (.launchStart vd j) := of_none rfl

theorem teamPlacement (vd : Nat) : Statement (.teamPlacement vd) := of_none rfl

theorem teamComplete (t : TeamKey) : Statement (.teamComplete t) := of_none rfl

theorem launchComplete (lid : Nat) : Statement (.launchComplete lid) := of_none rfl

theorem qdoneAck (lid : Nat) : Statement (.qdoneAck lid) := of_none rfl

theorem seedBinTimer (cluster : Nat) (bin : Nat) : Statement (.seedBinTimer cluster bin) := of_none rfl

theorem spawnedTeamRelease (cluster : Nat) (bin : Nat) : Statement (.spawnedTeamRelease cluster bin) := of_none rfl

theorem landingSlotGrant (die : Nat) : Statement (.landingSlotGrant die) := of_none rfl

theorem engineChunk (cluster : Nat) (unit : EngineUnit) : Statement (.engineChunk cluster unit) := of_none rfl

theorem engineCommandComplete (id : Nat) : Statement (.engineCommandComplete id) := of_none rfl

theorem matrixArbitration (cluster : Nat) : Statement (.matrixArbitration cluster) := of_none rfl

theorem limiterWindow (die : Nat) : Statement (.limiterWindow die) := of_none rfl

theorem create (vd : Nat) (img : List Word) : Statement (.create vd img) := of_none rfl

theorem start (vd : Nat) : Statement (.start vd) := of_none rfl

theorem suspend (vd : Nat) : Statement (.suspend vd) := of_none rfl

theorem resume (vd : Nat) : Statement (.resume vd) := of_none rfl

theorem migout (vd : Nat) (transport : Word) : Statement (.migout vd transport) := of_none rfl

theorem migstop (vd : Nat) : Statement (.migstop vd) := of_none rfl

theorem migdone (vd : Nat) (pauseNs : Nat) : Statement (.migdone vd pauseNs) := of_none rfl

theorem migabort (vd : Nat) : Statement (.migabort vd) := of_none rfl

theorem migin (vd : Nat) (transport : Word) (img : List Word) : Statement (.migin vd transport img) := of_none rfl

theorem kill (vd : Nat) : Statement (.kill vd) := of_none rfl

theorem destroy (vd : Nat) : Statement (.destroy vd) := of_none rfl

theorem setf (vd : Nat) (img : List Word) (mask : Word) : Statement (.setf vd img mask) := of_none rfl

theorem s2inv (vd : Nat) (base : Word) (len : Word) : Statement (.s2inv vd base len) := of_none rfl

theorem dbswap (vd : Nat) : Statement (.dbswap vd) := of_none rfl

theorem attest (vd : Nat) (nonce : List Byte) : Statement (.attest vd nonce) := of_none rfl

theorem huquery (bank : Nat) : Statement (.huquery bank) := of_none rfl

theorem hurestore (bank : Nat) (item : Nat) (vd : Nat) : Statement (.hurestore bank item vd) := of_none rfl

theorem huclear (bank : Nat) : Statement (.huclear bank) := of_none rfl

theorem mgmtUndefinedOpc (opc : Nat) (vd : Nat) : Statement (.mgmtUndefinedOpc opc vd) := of_none rfl

theorem sliceBoundary : Statement .sliceBoundary := of_none rfl

theorem preemptionComplete (cluster : Nat) (vd : Nat) : Statement (.preemptionComplete cluster vd) := of_none rfl

theorem drainComplete (vd : Nat) : Statement (.drainComplete vd) := of_none rfl

theorem drainTimeout (vd : Nat) : Statement (.drainTimeout vd) := of_none rfl

theorem migrationRecord (vd : Nat) (r : MigRecord) : Statement (.migrationRecord vd r) := of_none rfl

theorem pullResponse (h : Nat) (r : MigRecord) : Statement (.pullResponse h r) := of_none rfl

theorem pullTimeout (vd : PullCheck) : Statement (.pullTimeout vd) := of_none rfl

theorem hostBar2Write (vd : Nat) (off : Nat) (data : List Byte) (poison : Bool) : Statement (.hostBar2Write vd off data poison) := of_none rfl

theorem hostBar2Read (vd : Nat) (off : Nat) (len : Nat) : Statement (.hostBar2Read vd off len) := of_none rfl

theorem remoteAccess (q : RemoteReq) : Statement (.remoteAccess q) := of_none rfl

theorem apertureCompletion (id : Nat) (ok : OutReply) (data : List Byte) : Statement (.apertureCompletion id ok data) := of_none rfl

theorem apertureTimeout (id : Nat) : Statement (.apertureTimeout id) := of_none rfl

theorem furrowReservationRenew (vd : Nat) (e : Nat) (expiry : Nat) : Statement (.furrowReservationRenew vd e expiry) := of_none rfl

theorem mustsAdmission (id : Nat) : Statement (.mustsAdmission id) := of_none rfl

theorem schctlWrite (x : Word) : Statement (.schctlWrite x) := of_none rfl

theorem pwidthWrite (x : Word) : Statement (.pwidthWrite x) := of_none rfl

theorem dsctlWrite (die : Nat) (x : Word) : Statement (.dsctlWrite die x) := of_none rfl

theorem fstepWrite (die : Nat) (x : Word) : Statement (.fstepWrite die x) := of_none rfl

theorem dvfsSwitch (die : Nat) : Statement (.dvfsSwitch die) := of_none rfl

theorem thermalTrip (die : Nat) : Statement (.thermalTrip die) := of_none rfl

theorem powerMeasure (die : Nat) (milliwatts : Nat) : Statement (.powerMeasure die milliwatts) := of_none rfl

theorem debugHaltTeam (vd : Nat) (team : Nat) : Statement (.debugHaltTeam vd team) := of_none rfl

theorem debugHaltLaunch (vd : Nat) : Statement (.debugHaltLaunch vd) := of_none rfl

theorem debugResumeTeam (vd : Nat) (team : Nat) : Statement (.debugResumeTeam vd team) := of_none rfl

theorem debugResumeLaunch (vd : Nat) : Statement (.debugResumeLaunch vd) := of_none rfl

theorem threadHaltEntry (k : ThrKey) : Statement (.threadHaltEntry k) := of_none rfl

theorem partitionResetRequest (k : Nat) (x : Word) : Statement (.partitionResetRequest k x) := of_none rfl

theorem partitionReset (k : Nat) : Statement (.partitionReset k) := of_none rfl

theorem selfTestComplete (k : Nat) (failed : List Nat) : Statement (.selfTestComplete k failed) := of_none rfl

theorem sramEccError (die : Nat) (site : SramSite) (double : Bool) : Statement (.sramEccError die site double) := of_none rfl

theorem rollback (t : TeamKey) : Statement (.rollback t) := of_none rfl

theorem timeCheck (die : TimeDie) (offNs : Option Nat) : Statement (.timeCheck die offNs) := of_none rfl

theorem timeRelock (die : TimeDie) : Statement (.timeRelock die) := of_none rfl

theorem timeFaultTimeout (md : Nat) : Statement (.timeFaultTimeout md) := of_none rfl

theorem ucieLaneRepair (link : Nat) (modl : Nat) (lane : Nat) : Statement (.ucieLaneRepair link modl lane) := of_none rfl

theorem furrowPortDown (port : Nat) : Statement (.furrowPortDown port) := of_none rfl

theorem boot (image : BootImage) : Statement (.boot image) := of_none rfl

theorem bankMeasure (millijoules : Nat) : Statement (.bankMeasure millijoules) := of_none rfl

theorem supplyLoss : Statement .supplyLoss := of_none rfl

theorem holdupFreeze : Statement .holdupFreeze := of_none rfl

theorem holdupSeal : Statement .holdupSeal := of_none rfl

theorem supplyReturn (millijoules : Nat) : Statement (.supplyReturn millijoules) := of_none rfl

theorem registerWrite (space : RegSpace) (off : Nat) (x : Word) : Statement (.registerWrite space off x) := of_none rfl

theorem bar2PromotionTimeout (id : Nat) : Statement (.bar2PromotionTimeout id) := of_none rfl

theorem iodReferenceLoss : Statement .iodReferenceLoss := of_none rfl

theorem peleloPlotRequest (h : Nat) (ask : PlotAsk) : Statement (.peleloPlotRequest h ask) := of_none rfl

end Sys2Proof.Laws.RoundTrip
end

