-- ==== Sys2Proof/Laws/Traps.lean ====
section
/-!
SUPPORT. Everything that taking a trap with a handler does (R328), and what exiting leaves.
-/

namespace Sys2Proof.Machine

theorem deliver_entered {s : State} {k : ThrKey} {i : TrapInfo} {t : Thread} (ht : s.thr? k = some t) (hh : handlerOf s t ≠ 0)
    (hta : t.tact = false) : deliver s k i =
      (s.unslot k).modThr k (fun u => enterHandler (handlerOf s t) i (mkRec i false k.tid k.team.num) u) := by
  unfold deliver
  rw [ht]
  exact if_neg (by simp [hh, hta])

theorem heldV_enterHandler (h : Nat) (i : TrapInfo) (r : Rec) (u : Thread) (hb : 1 ≤ u.budget) (hb8 : u.budget ≤ 8) (n : Nat) :
    (enterHandler h i r u).heldV n =
      if n = 8 * u.budget - 4 then r.w0 else if n = 8 * u.budget - 3 then r.w1 else if n = 8 * u.budget - 2 then r.w2
      else if n = 8 * u.budget - 1 then r.w3 else u.heldV n := by
  have e : (enterHandler h i r u).heldV n = ((((u.writeV (recordReg u 0) r.w0).writeV (recordReg u 1) r.w1).writeV
      (recordReg u 2) r.w2).writeV (recordReg u 3) r.w3).heldV n := rfl
  rw [e, heldV_writeV, heldV_writeV, heldV_writeV, heldV_writeV]
  unfold recordReg
  by_cases h3 : n = 8 * u.budget - 1
  · rw [if_pos (by omega), if_neg (by omega), if_neg (by omega), if_neg (by omega), if_pos (by omega)]
  · rw [if_neg (by omega)]
    by_cases h2 : n = 8 * u.budget - 2
    · rw [if_pos (by omega), if_neg (by omega), if_neg (by omega), if_pos (by omega)]
    · rw [if_neg (by omega)]
      by_cases h1 : n = 8 * u.budget - 3
      · rw [if_pos (by omega), if_neg (by omega), if_pos (by omega)]
      · rw [if_neg (by omega)]
        by_cases h0 : n = 8 * u.budget - 4
        · rw [if_pos (by omega), if_pos (by omega)]
        · rw [if_neg (by omega), if_neg h0, if_neg h1, if_neg h2, if_neg h3]

theorem enterHandler_key (h : Nat) (i : TrapInfo) (r : Rec) (u : Thread) : (enterHandler h i r u).key = u.key := by
  simp only [enterHandler, Thread.writeV]

theorem enterHandler_entry (h : Nat) (i : TrapInfo) (r : Rec) (u : Thread) : (enterHandler h i r u).pc = BitVec.ofNat 64 h ∧
    (enterHandler h i r u).cpos = 0 ∧ (enterHandler h i r u).st = .runnable := by
  refine ⟨?_, ?_, ?_⟩ <;> simp only [enterHandler]

theorem enterHandler_saved (h : Nat) (i : TrapInfo) (r : Rec) (u : Thread) : (enterHandler h i r u).tcause = i.cause ∧
    (enterHandler h i r u).trpc = i.rp ∧ (enterHandler h i r u).tcpos = i.rc ∧ (enterHandler h i r u).tact = true := by
  refine ⟨?_, ?_, ?_, ?_⟩ <;> simp only [enterHandler]

/-- What a thread that enters its handler keeps. -/
theorem enterHandler_kept (h : Nat) (i : TrapInfo) (r : Rec) (u : Thread) :
    (enterHandler h i r u).pred = u.pred ∧ (enterHandler h i r u).flags = u.flags ∧ (enterHandler h i r u).repa = u.repa ∧
      (enterHandler h i r u).repn = u.repn ∧ (enterHandler h i r u).repc = u.repc ∧ (enterHandler h i r u).repsd = u.repsd ∧
      (enterHandler h i r u).repsa = u.repsa ∧ (enterHandler h i r u).repsb = u.repsb ∧ (enterHandler h i r u).repsc = u.repsc ∧
      (enterHandler h i r u).arrv = u.arrv ∧ (enterHandler h i r u).bpar = u.bpar ∧ (enterHandler h i r u).aph = u.aph ∧
      (enterHandler h i r u).key = u.key := by
  refine ⟨?_, ?_, ?_, ?_, ?_, ?_, ?_, ?_, ?_, ?_, ?_, ?_, ?_⟩ <;> simp only [enterHandler, Thread.writeV]

/-- A trap delivered to a handler (R328). -/
theorem deliver_result {s : State} {k : ThrKey} {i : TrapInfo} {t : Thread} (ht : s.thr? k = some t) (hh : handlerOf s t ≠ 0)
    (hta : t.tact = false) (hb1 : 1 ≤ t.budget) (hb8 : t.budget ≤ 8) :
    ∃ t', (deliver s k i).thr? k = some t' ∧ InHandler s k i t t' ∧ (∀ k', k' ≠ k → (deliver s k i).thr? k' = s.thr? k') ∧
      deliver s k i = { s with threads := (deliver s k i).threads, cores := (deliver s k i).cores } := by
  have hkeep : KeepsKey k (fun u => enterHandler (handlerOf s t) i (mkRec i false k.tid k.team.num) u) :=
    fun u hu => (enterHandler_key _ _ _ _).trans hu
  rw [deliver_entered ht hh hta]
  refine ⟨_, State.thr?_modThr_same (s := s.unslot k) ht _ hkeep, ⟨enterHandler_entry _ _ _ _, enterHandler_saved _ _ _ _, ?_, ?_,
    enterHandler_kept _ _ _ _⟩, ?_, rfl⟩
  · refine ⟨?_, ?_, ?_, ?_⟩ <;> rw [heldV_enterHandler _ _ _ _ hb1 hb8]
    · rw [if_pos rfl]
    · rw [if_neg (by omega), if_pos rfl]
    · rw [if_neg (by omega), if_neg (by omega), if_pos rfl]
    · rw [if_neg (by omega), if_neg (by omega), if_neg (by omega), if_pos rfl]
  · intro r hr
    rw [heldV_enterHandler _ _ _ _ hb1 hb8, if_neg (by omega), if_neg (by omega), if_neg (by omega), if_neg (by omega)]
  · intro k' hk'
    exact State.thr?_modThr_other hk' _ hkeep

/-- A trap raised where it can be delivered at once is delivered. -/
theorem raise_delivers {s : State} {k : ThrKey} {i : TrapInfo} {t : Thread} (ht : s.thr? k = some t) (he : t.st ≠ .exited)
    (hw : deliveryWaits s t = false) : raise s k i = deliver s k i := by
  unfold raise
  rw [ht]
  simp only
  rw [if_neg (by simpa using he), if_neg (by simp [hw])]

/-- A trap that goes straight to the handler. -/
theorem raise_result {s : State} {k : ThrKey} {i : TrapInfo} {t : Thread} (ht : s.thr? k = some t) (h : TrapsNow s t) :
    ∃ t', (raise s k i).thr? k = some t' ∧ InHandler s k i t t' ∧ (∀ k', k' ≠ k → (raise s k i).thr? k' = s.thr? k') ∧
      raise s k i = { s with threads := (raise s k i).threads, cores := (raise s k i).cores } := by
  rw [raise_delivers ht h.live h.ready]
  exact deliver_result ht h.handler h.outside h.budget.1 h.budget.2

theorem commit_gone (s : State) (cx : Ctx) (n : Nat) : (commit s cx [(n, .gone)]).threads = s.threads := rfl

/-- A single member that raises a trap in place of its instruction's effect. -/
theorem trap_result {s u : State} {cx : Ctx} {t w : Thread} {i : TrapInfo} (hu : u = { s with threads := u.threads })
    (hw : u.thr? t.key = some w) (ho : ∀ k, k ≠ t.key → u.thr? k = s.thr? k) (h : TrapsNow u w) :
    ∃ t', (commit (raise u t.key i) cx [(t.key.tid, .gone)]).thr? t.key = some t' ∧ InHandler s t.key i w t' ∧
      (∀ k, k ≠ t.key → (commit (raise u t.key i) cx [(t.key.tid, .gone)]).thr? k = s.thr? k) ∧
      commit (raise u t.key i) cx [(t.key.tid, .gone)] = { s with
        threads := (commit (raise u t.key i) cx [(t.key.tid, .gone)]).threads,
        cores := (commit (raise u t.key i) cx [(t.key.tid, .gone)]).cores } := by
  obtain ⟨t', h1, h2, h3, h4⟩ := raise_result (i := i) hw h
  have hk : w.key = t.key := State.thr?_key hw
  have hh' : handlerOf s w = handlerOf u w := by
    rw [hu]
    rfl
  refine ⟨t', h1, ⟨?_, h2.saved, h2.record, h2.registers, h2.kept⟩, fun k hk => (h3 k hk).trans (ho k hk), ?_⟩
  · rw [hh']
    exact h2.entry
  · obtain ⟨v, x, hv, hm⟩ := commit_moves (raise u t.key i) cx [(t.key.tid, .gone)]
    rw [hv]
    unfold State.putCore
    rw [hm.rest, h4, hu]

end Sys2Proof.Machine
end

