-- ==== Sys2Proof/Tests/Slice0.lean ====
section
/-!
SUPPORT. Tests: one word of every family written out from the spec's encoding, ill-formed terms that WellFormed refuses, the worked
numbers of the spec, and for each obligation a witness of its hypotheses. Each test takes its expected values from the spec; a test
named witness_<Obligation> shows a state and operands that meet the hypotheses of that obligation.
-/

open Sys2Proof Sys2Proof.Machine

namespace Sys2Proof.Tests

/-! Terms: one well-formed base for each format. -/

def gOn : Guard := { neg := false, p := 7 }
def gP1 : Guard := { neg := false, p := 1 }
def tR : FR := { g := gOn, sub := 0, d := 0, a := 1, b := 2, c := 0, swz := 0, ty := .s32, rnd := .rne, sat := false, reuse := false, ext := 0 }
def tR1 : FR := { tR with b := 0 }
def tF : FR := { tR with ty := .f32 }
def tF1 : FR := { tR with ty := .f32, b := 0 }
def tP : FR := { tR with ty := .b64 }
def tP1 : FR := { tR with ty := .b64, b := 0 }
def tB : FR := { tR with ty := .b64, a := 0, b := 0 }
def tI : FI := { g := gOn, sub := 0, d := 0, a := 0, imm := 4 }
def tS : FS := { g := gOn, d := 0, a := 0, code := 0 }
def tM : FM := { g := gOn, f := false, sub := 6, d := 4, a := 2, b := 0, scope := 0, lh := 0, ub := false, sp := false, cnt := 0, off := 8 }
def tM0 : FM := { g := gOn, f := false, sub := 0, d := 0, a := 0, b := 0, scope := 3, lh := 0, ub := false, sp := false, cnt := 0, off := 0 }
def tX : FX := { g := gOn, f := false, sub := 0, d := 0, a := 2, b := 3, c := 4, sla := 0, slb := 0, msel := 0, men := false, byp := false, reuse := false, sp := false }
def tXd : FX := { tX with b := 7, c := 0 }
def tH : FH := { g := gOn, f := false, sub := 0, d := 1, a := 2, b := 0, c := 0, mc := 0, tb := 0, sp := false, kn := 0, rot := 0 }

/-! Well-formedness (R152, R162, R337): the bases are accepted, and each check refuses a term that fails it alone. -/

theorem test_wf_accepts : ([.add tR, .mad tR, .mulhi tR, .dot4 tR, .sad tR, .abs_ tR1, .lea tP, .sel tR, .mov { tR with a := 0 }, .movi tI, .moviHi { tI with sub := 1 },
    .and_ tR, .not_ tR1, .bfe tR, .bfi tR, .cmp tR, .fcmp tF, .fclass tF1, .pand tP, .pnot tP1, .pmovFromVector tP1, .pmovToVector { tP1 with ext := 1 },
    .voteAny tP1, .voteAll { tP1 with sub := 1 }, .voteBallot { tP1 with sub := 2 }, .shfl tR, .fadd tF, .fma tF, .fmin tF, .fabs tF1, .frnd tF1, .frcp tF1,
    .cvt { tF1 with ext := 6 }, .qnt tF1, .dqnt tF1, .pack tP1, .unpack tP1, .bra tI, .call tI, .brx tP, .ret tP1, .exit tS, .yield tS, .rep tI,
    .waitt tS, .movs { tS with code := 1 }, .movt { tS with code := 0x11 }, .ld tM, .st { tM with d := 0, b := 4 }, .ldu { tM with ub := true }, .atom { tM with sub := 0 },
    .atomFadd { tM with sub := 0, cnt := 4 }, .red { tM with sub := 0, d := 0 }, .fence tM0, .fenceX { tM0 with off := 0x21 }, .pref { tM with sub := 0, d := 0 },
    .cpy { tM with sub := 0, off := 0 }, .barArr tB, .barRed tR1, .barScan tR1, .spawn tP, .migr { tM with sub := 0, d := 0 }, .musts { tM with sub := 0 },
    .tld tX, .tst tX, .acl { tX with a := 0, b := 0, c := 0 }, .mma tX, .adrn tXd, .abyp tXd, .ast tXd, .hld tH, .hst { tH with d := 0 }, .hclr { tH with a := 0 },
    .hbind tH, .hperm tH, .hbun { tH with d := 0 }, .hmaj { tH with a := 0 }, .hdist tH, .hpop tH, .hams { tH with d := 0 }, .hnear tH, .hnearK { tH with sub := 1 },
    .hscan tH, .bucketSelection 1535] : List Instr).all Instr.wf = true := by decide

theorem test_wf_refuses_R : ([.add { tR with sat := true, ty := .b64 }, .add { tR with c := 1 }, .add { tR with sub := 1 }, .add { tR with sub := 4 }, .add { tR1 with sub := 4, ty := .f32 },
    .add { tR1 with sub := 4, swz := 1 }, .add { tR with swz := 8 }, .add { tR with ext := 1 }, .add { tR with rnd := .rz }, .add { tR with ty := .f16 },
    .mulhi { tR with ty := .b64 }, .mulhi { tR with sat := true }, .dot4 { tR with sub := 4 }, .dot4 { tR with sub := 2 }, .dot4 { tR with sub := 1, ty := .n32 },
    .sad { tR1 with sub := 4 }, .abs_ { tR1 with ty := .n32 }, .abs_ { tR1 with sub := 4 }, .abs_ tR, .lea { tP with sub := 3 }, .lea tR, .lea { tP with ext := 8 },
    .lea { tP with c := 1 }, .sel { tR with c := 8 }, .mov tR, .movi { tI with sub := 2 }, .movi { tI with a := 1 }, .moviHi { tI with sub := 1, imm := 0x100000000 },
    .not_ { tR1 with sat := true }, .bfe { tR with ty := .s8 }, .bfe { tR1 with sub := 4 }] : List Instr).all (fun i => !i.wf) = true := by decide

theorem test_wf_refuses_predicates : ([.cmp { tR with d := 8 }, .cmp { tR with c := 6 }, .cmp { tR with ty := .b64, c := 2 }, .fcmp { tF with c := 9 }, .fcmp tR,
    .fclass tF, .pand { tP with a := 8 }, .pand tR, .pand { tP with swz := 1 }, .pmovFromVector { tP1 with ext := 2 }, .pmovToVector tP1, .voteAny { tP1 with sub := 3 },
    .voteBallot { tP1 with sub := 2, ext := 8 }, .shfl { tR with c := 1 }, .bperm { tR with sat := true }] : List Instr).all (fun i => !i.wf) = true := by decide

theorem test_wf_refuses_float : ([.fadd tR, .fadd { tF with sub := 1 }, .fma { tF with ext := 1 }, .fmin { tF with rnd := .rz }, .fmin { tF with sat := true },
    .frnd { tF1 with sat := true }, .frcp tF, .cvt { tF1 with ty := .b64 }, .cvt { tF1 with ext := 0 }, .cvt { tF1 with ext := 0x36 },
    .cvt { tR1 with ext := 10, sat := true }, .cvt { tR1 with ext := 4, rnd := .rz }, .cvt { tF1 with ext := 0x86 }, .qnt tR1, .qnt { tF1 with ext := 8 },
    .dqnt { tF1 with c := 1 }, .pack { tP1 with ext := 2 }, .pack { tP1 with ext := 1, a := 61 }, .unpack { tP1 with d := 63 }] : List Instr).all (fun i => !i.wf) = true := by decide

theorem test_wf_refuses_control : ([.bra { tI with a := 1 }, .bra { tI with d := 1 }, .call { tI with a := 1 }, .rep { tI with g := gP1 }, .rep { tI with imm := 0x4000 },
    .brx { tP with d := 1 }, .ret { tP1 with swz := 1 }, .exit { tS with code := 1 }, .exit { tS with d := 1 }, .yield { tS with d := 1 }, .waitt { tS with code := 1 },
    .movs { tS with code := 8 }, .movs { tS with code := 1, a := 1 }, .movt { tS with code := 0x10 }, .eret { tS with a := 1 }] : List Instr).all (fun i => !i.wf) = true := by decide

theorem test_wf_refuses_M : ([.ld { tM with sub := 7 }, .ld { tM with b := 1 }, .ld { tM with scope := 1 }, .ld { tM with lh := 3 }, .ld { tM with lh := 1, sp := true },
    .ld { tM with ub := true, a := 32 }, .ld { tM with sub := 4, cnt := 1 }, .ld { tM with cnt := 4 }, .ld { tM with d := 63, cnt := 1 }, .st { tM with d := 0, sub := 5 }, .st tM,
    .st { tM with d := 0, b := 57, cnt := 3 }, .ldu tM, .ldu { tM with ub := true, d := 31, cnt := 1 }, .atom { tM with sub := 0, cnt := 4 }, .atom { tM with sub := 0, scope := 1 },
    .atom { tM with sub := 7, b := 63 }, .atomFadd { tM with sub := 0 }, .red { tM with sub := 7, d := 0 }, .red { tM with sub := 0 }, .red { tM with sub := 6, d := 0 },
    .fence { tM0 with scope := 5 }, .fence { tM0 with f := true }, .fence { tM0 with off := 1 }, .fenceX { tM0 with off := 0x20 }, .fenceX { tM0 with off := 1 },
    .fenceX { tM0 with off := 0x121 }, .pref { tM with sub := 0, d := 0, sp := true }, .pref { tM with sub := 0, d := 0, cnt := 1 }, .cpy { tM with sub := 4, off := 0 },
    .cpy { tM with sub := 0, off := 0, cnt := 1 }, .cpy { tM with sub := 0 }, .cpy { tM with sub := 1, off := 0, b := 63 }, .migr { tM with sub := 0, d := 0, sp := true },
    .musts { tM with sub := 0, sp := true }, .musts { tM with sub := 0, f := true }] : List Instr).all (fun i => !i.wf) = true := by decide

theorem test_wf_refuses_barriers : ([.barArr { tB with c := 16 }, .barWait { tB with d := 1 }, .barRed { tR1 with ext := 9 }, .barRed { tF1 with ext := 6, rnd := .rs }, .barRed { tR1 with c := 8 },
    .barScan { tF1 with ext := 6, sat := true }, .barScan { tR1 with ext := 16 }, .spawn { tP with b := 61 }, .spawn { tP with c := 1 }] : List Instr).all (fun i => !i.wf) = true := by decide

theorem test_wf_refuses_X : ([.tld { tX with d := 1 }, .tld { tX with sla := 1 }, .tst { tX with men := true }, .tst { tX with byp := true }, .tld { tX with b := 32 },
    .acl { tX with d := 16, a := 0, b := 0, c := 0 }, .acl tX, .mma { tX with d := 16 }, .mma { tX with b := 32 }, .mma { tX with byp := true, a := 0, c := 29 }, .mma { tX with byp := true },
    .mma { tX with a := 49 }, .mma { tX with sub := 1, c := 61 }, .mma { tX with msel := 1 }, .mma { tX with sp := true }, .adrn { tXd with b := 0 }, .adrn { tXd with d := 16 },
    .adrn { tXd with a := 61 }, .abyp { tXd with a := 29 }, .abyp { tXd with b := 3 }, .abyp { tXd with c := 4 }, .ast { tXd with b := 0 }, .ast { tXd with msel := 1 }] : List Instr).all
    (fun i => !i.wf) = true := by decide

theorem test_wf_refuses_H : ([.hld { tH with d := 8 }, .hld { tH with b := 1 }, .hld { tH with mc := 1 }, .hst tH, .hclr { tH with d := 12, a := 0 }, .hbind { tH with a := 8 },
    .hperm { tH with b := 1 }, .hbun { tH with d := 0, tb := 1 }, .hmaj tH, .hdist { tH with c := 1 }, .hpop { tH with b := 1 }, .hams tH, .hnear { tH with kn := 1 },
    .hnearK { tH with sub := 1, d := 60, kn := 4 }, .hscan { tH with kn := 4 }, .hscan { tH with d := 63, kn := 1 }, .bucketSelection 1536, .tinv 512 0, .kick 0 64 { word := 0, core := false }, .huclear 2] :
    List Instr).all (fun i => !i.wf) = true := by decide

/-! Decoding: words the specification writes out, and the fields it gives beside them. -/

theorem test_decode_add : decodeWord 0x1074_0C10_0001_45FB = some (.add { g := gOn, sub := 4, d := 3, a := 1, b := 0, c := 0, swz := 0, ty := .s16, rnd := .rne, sat := true, reuse := false, ext := 0x1FB }) := by decide
theorem test_decode_fma : decodeWord 0x4370_28B3_0D02_8800 = some (.fma { g := gOn, sub := 0, d := 10, a := 11, b := 12, c := 13, swz := 0, ty := .f32, rnd := .rz, sat := false, reuse := false, ext := 0 }) := by decide
theorem test_decode_qnt : decodeWord 0x5270_2000_0002_8002 = some (.qnt { g := gOn, sub := 0, d := 8, a := 0, b := 0, c := 0, swz := 0, ty := .f32, rnd := .rne, sat := false, reuse := false, ext := 2 }) := by decide
theorem test_decode_cmp : decodeWord 0x3074_0410_0400_C00A = some (.cmp { g := gOn, sub := 4, d := 1, a := 1, b := 0, c := 4, swz := 0, ty := .s32, rnd := .rne, sat := false, reuse := false, ext := 10 }) := by decide
theorem test_decode_ballot : decodeWord 0x3822_0810_0000_0000 = some (.voteBallot { g := { neg := false, p := 2 }, sub := 2, d := 2, a := 1, b := 0, c := 0, swz := 0, ty := .b64, rnd := .rne, sat := false, reuse := false, ext := 0 }) := by decide
theorem test_decode_shfl : decodeWord 0x3970_0C11_0001_0000 = some (.shfl { g := gOn, sub := 0, d := 3, a := 1, b := 4, c := 0, swz := 0, ty := .n32, rnd := .rne, sat := false, reuse := false, ext := 0 }) := by decide
theorem test_decode_rep : decodeWord 0x6670_0000_0000_014F = some (.rep { g := gOn, sub := 0, d := 0, a := 0, imm := 0x14F }) := by decide
theorem test_decode_ld : decodeWord 0x7076_2C20_0000_0000 = some (.ld { g := gOn, f := false, sub := 6, d := 11, a := 2, b := 0, scope := 0, lh := 0, ub := false, sp := false, cnt := 0, off := 0 }) := by decide
theorem test_decode_st : decodeWord 0x7176_0021_4000_0008 = some (.st { g := gOn, f := false, sub := 6, d := 0, a := 2, b := 5, scope := 0, lh := 0, ub := false, sp := false, cnt := 0, off := 8 }) := by decide
theorem test_decode_ldu : decodeWord 0x7276_0C10_0100_0010 = some (.ldu { g := gOn, f := false, sub := 6, d := 3, a := 1, b := 0, scope := 0, lh := 0, ub := true, sp := false, cnt := 0, off := 0x10 }) := by decide
theorem test_decode_atom : decodeWord 0x7370_2820_C020_0000 = some (.atom { g := gOn, f := false, sub := 0, d := 10, a := 2, b := 3, scope := 0, lh := 0, ub := false, sp := false, cnt := 2, off := 0 }) := by decide
theorem test_decode_fence : decodeWord 0x7670_0000_1800_0000 = some (.fence { g := gOn, f := false, sub := 0, d := 0, a := 0, b := 0, scope := 3, lh := 0, ub := false, sp := false, cnt := 0, off := 0 }) := by decide
theorem test_decode_fenceX : decodeWord 0x7770_0000_1800_0021 = some (.fenceX { g := gOn, f := false, sub := 0, d := 0, a := 0, b := 0, scope := 3, lh := 0, ub := false, sp := false, cnt := 0, off := 0x21 }) := by decide
theorem test_decode_cpy : decodeWord 0x7970_1842_0080_0000 = some (.cpy { g := gOn, f := false, sub := 0, d := 6, a := 4, b := 8, scope := 0, lh := 0, ub := false, sp := true, cnt := 0, off := 0 }) := by decide
theorem test_decode_barArr : decodeWord 0x8070_0000_0900_0000 = some (.barArr { g := gOn, sub := 0, d := 0, a := 0, b := 0, c := 9, swz := 0, ty := .b64, rnd := .rne, sat := false, reuse := false, ext := 0 }) := by decide
theorem test_decode_barRed : decodeWord 0x8270_1040_0002_8006 = some (.barRed { g := gOn, sub := 0, d := 4, a := 4, b := 0, c := 0, swz := 0, ty := .f32, rnd := .rne, sat := false, reuse := false, ext := 6 }) := by decide
theorem test_decode_spawn : decodeWord 0x8470_00C4_0000_0000 = some (.spawn { g := gOn, sub := 0, d := 0, a := 12, b := 16, c := 0, swz := 0, ty := .b64, rnd := .rne, sat := false, reuse := false, ext := 0 }) := by decide
theorem test_decode_movs : decodeWord 0x6B70_1400_0000_0010 = some (.movs { g := gOn, d := 5, a := 0, code := 0x10 }) := by decide
theorem test_decode_mma : decodeWord 0x9374_0901_4070_6000 = some (.mma { g := gOn, f := false, sub := 4, d := 2, a := 16, b := 5, c := 0, sla := 3, slb := 4, msel := 1, men := true, byp := false, reuse := false, sp := false }) := by decide
theorem test_decode_acl : decodeWord 0x9270_0800_0060_0000 = some (.acl { g := gOn, f := false, sub := 0, d := 2, a := 0, b := 0, c := 0, sla := 3, slb := 0, msel := 0, men := false, byp := false, reuse := false, sp := false }) := by decide
theorem test_decode_adrn : decodeWord 0x9470_0A02_8070_0000 = some (.adrn { g := gOn, f := false, sub := 0, d := 2, a := 32, b := 10, c := 0, sla := 3, slb := 4, msel := 0, men := false, byp := false, reuse := false, sp := false }) := by decide
theorem test_decode_hbun : decodeWord 0xA570_0000_0000_0000 = some (.hbun { g := gOn, f := false, sub := 0, d := 0, a := 0, b := 0, c := 0, mc := 0, tb := 0, sp := false, kn := 0, rot := 0 }) := by decide
theorem test_decode_hmaj : decodeWord 0xA670_0800_0018_0000 = some (.hmaj { g := gOn, f := false, sub := 0, d := 2, a := 0, b := 0, c := 0, mc := 0, tb := 3, sp := false, kn := 0, rot := 0 }) := by decide
theorem test_decode_hnearK : decodeWord 0xAA71_0820_0000_2000 = some (.hnearK { g := gOn, f := false, sub := 1, d := 2, a := 2, b := 0, c := 0, mc := 0, tb := 0, sp := false, kn := 1, rot := 0 }) := by decide

/-- The example words that the specification gives with a guard, and words of the remaining families, built field by field from R140 to
R151: and.s32, trap 7, hld, spawn of a reserved field, the all-zero word, F set on an add. -/
theorem test_decode_more : decodeWord 0x8610_1C30_0000_0000 = some (.musts { g := gP1, f := false, sub := 0, d := 7, a := 3, b := 0, scope := 0, lh := 0, ub := false, sp := false, cnt := 0, off := 0 }) ∧
    decodeWord 0x2070_0010_8000_C000 = some (.and_ { tR with ty := .s32 }) ∧
    decodeWord 0x6870_0000_0000_0007 = some (.trap { tS with code := 7 }) ∧
    decodeWord 0xA070_0420_0000_0000 = some (.hld tH) ∧
    decodeWord 0 = none ∧ decodeWord 0x1078_0010_8000_C000 = none ∧ decodeWord 0x8470_00C4_0100_0000 = none ∧ decodeWord 0x8770_0000_0000_0000 = none := by decide

theorem test_encode_bytes : encode (.movs { g := gOn, d := 5, a := 0, code := 0x10 }) = some [0x10, 0, 0, 0, 0, 0x14, 0x70, 0x6B] := by decide
theorem test_decode_rejects : decode [0, 0, 0] = .error .short ∧ decode [0, 0, 0, 0, 0, 0, 0, 0] = .error .reserved ∧
    decode [0, 0, 0, 0, 0, 0, 0x70, 0x6B] = .error .illegal := by decide

/-! Hypotheses met: for each statement, states and operands that meet them together. `at_ i` is the state in which one thread stands
before instruction i, alone in its group; `ready` says that no rule of issue holds it back and that the member is enabled. -/

def kt : TeamKey := { lid := 0, spawned := false, num := 0 }
def k0 : ThrKey := { team := kt, tid := 0 }
def at_ (i : Instr) : State := { State.reset.withFetchWord 64 ((encodeWord i).getD 0).toNat with cur := 0 }
/-- The same with the launch's words, the thread and memory changed. -/
def atWith (i : Instr) (ws : List (Nat × Word)) (f : Thread → Thread) (m : Mem) : State :=
  let s := at_ i
  { s with launches := s.launches.map (fun l => { l with words := ws.foldl (fun w p => vset w p.1 p.2) l.words }),
           threads := s.threads.map f, ms := { s.ms with mem := m } }

/-- What `Issues`, `Alone`, `Unwritten`, `Unstruck` and `TeamWide` ask, of the one member, and p besides. -/
def ready (s : State) (eff : Ctx → Instr) (g : Guard) (p : Ctx → Thread → Bool) : Bool :=
  match ctx? s with
  | none => false
  | some cx => match cx.ts with
    | [t] => legal (eff cx) && !slotIllegal cx (eff cx) && (!needsAligned (eff cx) || cx.a != 0) && !fenceHolds (eff cx) t && flagRoom (flagOfInstr cx.hdr (eff cx)) t &&
        enabled t g && (List.range 64).all (fun r => !s.pendingWrite t.key r) && !shadowStruck s cx.core t.key.tid && !cx.team.key.spawned && !t.detached &&
        p cx t
    | _ => false

theorem ready_spec (s : State) (eff : Ctx → Instr) (g : Guard) (p : Ctx → Thread → Bool) (h : ready s eff g p = true) :
    ∃ cx t, Alone s cx (eff cx) g t ∧ (∀ rs, (∀ r ∈ rs, r < 64) → Unwritten s cx rs) ∧ Unstruck s cx ∧ TeamWide cx t ∧ p cx t = true := by
  unfold ready at h
  split at h
  · cases h
  · rename_i cx hc
    split at h
    · rename_i t ht
      simp only [Bool.and_eq_true, Bool.or_eq_true, Bool.not_eq_true', bne_iff_ne, ne_eq, List.all_eq_true, List.mem_range] at h
      obtain ⟨⟨⟨⟨⟨⟨⟨⟨⟨⟨h1, h0⟩, h2⟩, h3⟩, h4⟩, h5⟩, h6⟩, h7⟩, h8⟩, h9⟩, h10⟩ := h
      refine ⟨cx, t, ⟨⟨hc, h1, h0, fun hn => ?_, fun u hu => ?_, fun u hu => ?_⟩, ht, h5⟩, fun rs hr u hu r hm => ?_, fun u hu => ?_, ⟨h8, h9⟩, h10⟩
      · rcases h2 with h2 | h2
        · rw [hn] at h2; cases h2
        · exact h2
      all_goals rw [ht, List.mem_singleton] at hu; subst hu
      · exact h3
      · exact h4
      · exact h6 r (hr r hm)
      · exact h7
    · cases h

/-- A list of instructions of one format, each before its own thread. -/
def readyR (l : List ((FR → Instr) × FR)) : Bool := l.all (fun p => ready (at_ (p.1 p.2)) (fun cx => p.1 (cx.fr p.2)) p.2.g (fun _ _ => true))

theorem witness_IntegerArithmetic : readyR [(.add, tR), (.sub, tR), (.mul, tR), (.mad, tR), (.mulhi, tR), (.dot4, tR), (.sad, tR), (.min_, tR), (.max_, tR),
    (.abs_, tR1), (.neg, tR1)] = true := by decide
theorem witness_MovesLogicAndShifts : readyR [(.lea, tP), (.sel, tR), (.mov, { tR with a := 0 }), (.and_, tR), (.or_, tR), (.xor_, tR), (.andn, tR), (.not_, tR1),
    (.shl, tR), (.shr, tR), (.sar, tR), (.rot, tR), (.clz, tR1), (.popc, tR1), (.bitrev, tR1)] = true ∧
    ready (at_ (.movi tI)) (fun cx => .movi (cx.fi tI)) gOn (fun _ _ => true) = true ∧
    ready (at_ (.moviHi { tI with sub := 1 })) (fun cx => .moviHi (cx.fi { tI with sub := 1 })) gOn (fun _ _ => true) = true := by decide
theorem witness_BitFields : readyR [(.bfe, tR), (.bfi, tR)] = true := by decide
theorem witness_ComparisonsAndPredicates : readyR [(.cmp, tR), (.fcmp, tF), (.fclass, tF1), (.pand, tP), (.por, tP), (.pxor, tP), (.pnot, tP1),
    (.pmovFromVector, tP1), (.pmovToVector, { tP1 with ext := 1 })] = true := by decide
theorem witness_CrossLane : readyR [(.voteAny, tP1), (.voteAll, { tP1 with sub := 1 }), (.voteBallot, { tP1 with sub := 2 }), (.shfl, tR), (.bperm, tR)] = true := by decide
theorem witness_FloatingPoint : readyR [(.fadd, tF), (.fsub, tF), (.fmul, tF), (.fma, tF), (.frcp, tF1), (.frsq, tF1), (.fsqrt, tF1), (.fexp2, tF1), (.flog2, tF1),
    (.fsin, tF1), (.fcos, tF1), (.ftanh, tF1), (.frnd, tF1)] = true := by decide
theorem witness_NeverRounding : readyR [(.fmin, tF), (.fmax, tF), (.fabs, tF1), (.fneg, tF1)] = true := by decide
theorem witness_ConversionAndPacking : readyR [(.cvt, { tF1 with ext := 6 }), (.cvt, { tR1 with ext := 10 }), (.pack, tP1), (.pack, { tP1 with ext := 1 }), (.unpack, tP1),
    (.unpack, { tP1 with ext := 1 })] = true ∧ tyOfCode (6 % 16) = some .n16 := by decide

/-- A BS4 slot: FP4 elements with E5M2 scales, as the quantisation example of the specification fills it. -/
def bs4Slot : List (Nat × Word) := [(20, 0x126)]
theorem witness_Quantisation :
    ready (atWith (.qnt { tF1 with ext := 2, d := 8 }) bs4Slot id []) (fun cx => .qnt (cx.fr { tF1 with ext := 2, d := 8 })) gOn
      (fun cx _ => (cx.launch.slot 2).kind == .bs4 && (cx.launch.slot 2).xform == 0 && (cx.fr { tF1 with ext := 2, d := 8 }).c == 0 &&
        decide ((cx.fr { tF1 with ext := 2, d := 8 }).a.toNat + 4 ≤ 64)) = true ∧
    ready (atWith (.dqnt { tF1 with ext := 2, d := 8 }) bs4Slot id []) (fun cx => .dqnt (cx.fr { tF1 with ext := 2, d := 8 })) gOn
      (fun cx _ => (cx.launch.slot 2).kind == .bs4 && decide ((cx.fr { tF1 with ext := 2, d := 8 }).d.toNat + 4 ≤ 64)) = true ∧
    ready (at_ (.qnt tF1)) (fun cx => .qnt (cx.fr tF1)) gOn (fun cx _ => (qntCheck cx (cx.launch.slot 0) (cx.fr tF1) true).isSome) = true ∧
    ready (at_ (.dqnt tF1)) (fun cx => .dqnt (cx.fr tF1)) gOn (fun cx _ => (qntCheck cx (cx.launch.slot 0) (cx.fr tF1) false).isSome) = true := by decide

/-- The hypotheses of a trap that is taken at once, as a Bool. -/
def trapsNow (s : State) (t : Thread) : Bool :=
  t.st != .exited && !deliveryWaits s t && handlerOf s t != 0 && !t.tact && decide (1 ≤ t.budget) && decide (t.budget ≤ 8)

theorem trapsNow_spec (s : State) (t : Thread) (h : trapsNow s t = true) : TrapsNow s t := by
  simp only [trapsNow, Bool.and_eq_true, bne_iff_ne, ne_eq, Bool.not_eq_true', decide_eq_true_eq] at h
  obtain ⟨⟨⟨⟨⟨a, b⟩, c⟩, d⟩, e⟩, f⟩ := h
  exact ⟨a, b, c, d, e, f⟩

/-- A property of the one thread, of the one context; a state with its dies at a cycle count. -/
def the (s : State) (p : Thread → Bool) : Bool := match s.thr? k0 with
  | some t => p t
  | none => false
def ctx (s : State) (p : Ctx → Bool) : Bool := match ctx? s with
  | some cx => p cx
  | none => false
def cycles (s : State) (n : Nat) : State := { s with dies := Vector.replicate 2 { Die.reset with cyc := n } }

/-- A launch with a handler at 0x2000. -/
def hs : List (Nat × Word) := [(1, 0x2000)]
def any_ : Ctx → Thread → Bool := fun _ _ => true
def traps (s : State) : Ctx → Thread → Bool := fun _ t => trapsNow s t

theorem witness_ControlTransfer :
    (let ok := fun (x : Ctx → Thread → Word) (cx : Ctx) (t : Thread) => decide cx.g.members.Nodup && bits (x cx t) 63 48 == 0
     ready (at_ (.bra tI)) (fun cx => .bra (cx.fi tI)) gOn (ok fun cx _ => cx.g.h + 8 * tI.imm.signExtend 64) = true ∧
     ready (at_ (.brx tP)) (fun cx => .brx (cx.fr tP)) gOn
       (ok fun cx t => (at_ (.brx tP)).readV t.key tP.a.toNat + swizzled (at_ (.brx tP)) t cx.a tP.swz.toNat tP.b.toNat) = true ∧
     ready (at_ (.ret tP1)) (fun cx => .ret (cx.fr tP1)) gOn (ok fun _ t => (at_ (.ret tP1)).readV t.key tP1.a.toNat) = true ∧
     ready (at_ (.call { tI with d := 5 })) (fun cx => .call (cx.fi { tI with d := 5 })) gOn (ok fun cx _ => cx.g.h + 8 * tI.imm.signExtend 64) = true) ∧
    (let s := atWith (.ret tP1) hs (fun t => { t with v := vset t.v 1 (BitVec.ofNat 64 (2 ^ 50)) }) []
     ready s (fun cx => .ret (cx.fr tP1)) gOn (fun _ t => trapsNow s t && bits (s.readV t.key tP1.a.toNat) 63 48 != 0) = true) ∧
    (let f := { tI with imm := 0x800000000 }
     let s := atWith (.bra f) hs id []
     ready s (fun cx => .bra (cx.fi f)) gOn (fun cx t => trapsNow s t && bits (cx.g.h + 8 * f.imm.signExtend 64) 63 48 != 0) = true) ∧
    ready (at_ (.exit tS)) (fun cx => .exit (cx.fs tS)) gOn any_ = true ∧
    ((at_ (.exit tS)).thr? k0).isSome = true ∧ ((at_ (.exit tS)).team? k0.team).isSome = true := by decide

theorem witness_RepeatsAndPositions :
    (placedThread.repActive = false ∧ { placedThread with repa := true, repn := 1 }.repActive = true ∧
      { placedThread with repa := true, repn := 1, repc := 1 }.repc = { placedThread with repa := true, repn := 1 }.repn) ∧
    ready (at_ (.rep tI)) (fun cx => .rep (cx.fi tI)) gOn (fun _ t => !t.tact) = true ∧
    ready (atWith (.rep tI) [] (fun t => { t with tact := true }) []) (fun cx => .rep (cx.fi tI)) gOn (fun _ t => t.tact) = true := by decide

theorem witness_Waiting :
    ready (at_ (.yield tS)) (fun cx => .yield (cx.fs tS)) gOn any_ = true ∧
    ready (at_ (.waitt tS)) (fun cx => .waitt (cx.fs tS)) gOn any_ = true ∧
    (let s := { cycles (atWith (.waitt tS) [] (fun t => { t with st := .barrierWait, releaseAt := some 0, yieldUntil := some 0, yieldHint := true, waitUntil := some (0, 1) }) []) 256 with cores := [] }
     the s (fun t => t.releaseAt = some 0 ∧ t.st = .barrierWait ∧ 0 ≤ cycOf s t ∧ t.yieldUntil = some 0 ∧ t.yieldHint = true ∧ t.waitUntil = some (0, 1) ∧
       0 ≤ (s.now + (s.vd t.vd).gtoff) % 2 ^ 64)) = true ∧
    (let s := { cycles (atWith (.waitt tS) [] (fun t => { t with since := some 0 }) []) 256 with cores := [] }
     the s (fun t => t.since = some 0 ∧ t.aged = none ∧ t.st ≠ .alignedWait ∧ 0 + 256 ≤ cycOf s t ∧ Machine.ready s t = true)) = true := by decide

theorem witness_TrapsAndReturns :
    (let s := atWith (.eret tS) hs id []
     the s (trapsNow s)) = true ∧
    (let s := at_ (.eret tS)
     the s (fun t => t.st ≠ .exited ∧ deliveryWaits s t = false ∧ handlerOf s t = 0)) = true ∧
    (let s := atWith (.trap tS) hs id []
     ready s (fun cx => .trap (cx.fs tS)) gOn (traps s) = true) ∧
    (let s := atWith (.brk tS) hs id []
     ready s (fun cx => .brk (cx.fs tS)) gOn (fun cx t => trapsNow s t && !(vget (s.vd cx.vd).dbg 1 0).getLsbD 0) = true) ∧
    (let s0 := at_ (.brk tS)
     let s := { s0 with vds := s0.vds.map (fun p => (p.1, { p.2 with dbg := vset p.2.dbg 1 1 })) }
     ready s (fun cx => .brk (cx.fs tS)) gOn (fun cx _ => (vget (s.vd cx.vd).dbg 1 0).getLsbD 0) = true) ∧
    ready (atWith (.eret tS) [] (fun t => { t with tact := true }) []) (fun cx => .eret (cx.fs tS)) gOn (fun _ t => t.tact) = true ∧
    (let s := atWith (.eret tS) hs id []
     ready s (fun cx => .eret (cx.fs tS)) gOn (traps s) = true) := by decide

theorem witness_SpecialRegisters :
    ([1, 2, 3, 4, 5, 6, 7, 0x10, 0x11, 0x12, 0x20].all (fun c => let f := { tS with d := 5, code := c }
      ready (at_ (.movs f)) (fun cx => .movs (cx.fs f)) gOn any_)) = true ∧
    ([0x11, 0x12].all (fun c => let f := { tS with a := 5, code := c }
      ready (at_ (.movt f)) (fun cx => .movt (cx.fs f)) gOn (fun cx _ => decide (cx.die < 2)))) = true := by decide

/-- The hypotheses of `Reaches` for an access of the scratchpad. -/
def reachesScr (s : State) (cx : Ctx) (i : Instr) (e : FM) (t : Thread) (ea len : Nat) (need : Need) (kind : AccessKind) : Bool :=
  (kindCheck cx e t).isNone && !t.retrying && match locate (wayTo s cx e t ea len) cx e t.vd ea len need with
    | .ok x => (apertureRefusal (wayTo s cx e t ea len) t.vd i x kind).isNone && x.space == .scratch
    | .error _ => false

theorem reachesScr_spec (s : State) (cx : Ctx) (i : Instr) (e : FM) (t : Thread) (ea len : Nat) (need : Need) (kind : AccessKind)
    (h : reachesScr s cx i e t ea len need kind = true) : ∃ x, Reaches s cx i e t ea len need kind x := by
  unfold reachesScr at h
  cases hl : locate (wayTo s cx e t ea len) cx e t.vd ea len need with
  | error _ => simp [hl] at h
  | ok x =>
    simp only [hl, Bool.and_eq_true, Option.isNone_iff_eq_none, Bool.not_eq_true', beq_iff_eq] at h
    exact ⟨x, h.1.1, hl, h.2.1, h.1.2, .inl h.2.2⟩

def mL : FM := { tM with a := 0, off := 8, sp := true }
def mS : FM := { tM with a := 0, d := 0, b := 4, off := 8, sp := true }
def mU : FM := { tM with a := 0, off := 8, sp := true, ub := true }
def mA : FM := { tM with sub := 0, a := 0, b := 3, off := 8, sp := true }

theorem witness_AccessesStart :
    (let s := at_ (.ld mL)
     ready s (fun cx => .ld (cx.fm mL)) gOn (fun cx t => let e := cx.fm mL
       reachesScr s cx (.ld e) e t (effAddr s cx.team.key e t (repExtra cx cx.t0.repsd (elemBytes e))) (accessBytes e) .read .load) = true) ∧
    (let s := at_ (.st mS)
     ready s (fun cx => .st (cx.fm mS)) gOn (fun cx t => let e := cx.fm mS
       let x := repExtra cx cx.t0.repsb (elemBytes e)
       !storeStalls s cx mS e (accessBytes e) x && reachesScr s cx (.st e) e t (effAddr s cx.team.key e t x) (accessBytes e) .write .store) = true) ∧
    (let s := at_ (.ldu mU)
     ready s (fun cx => .ldu (cx.fm mU)) gOn (fun cx t => let e := cx.fm mU
       !t.detached && reachesScr s cx (.ldu e) e t (effAddr s cx.team.key e t (repExtra cx cx.t0.repsd (elemBytes e))) (accessBytes e) .read .load) = true) ∧
    ([(Instr.atom, mA), (.atomFadd, { mA with cnt := 4 }), (.red, { mA with d := 0 })].all (fun p => let s := at_ (p.1 p.2)
     ready s (fun cx => p.1 (cx.fm p.2)) gOn (fun cx t => let e := cx.fm p.2
       e.sp && reachesScr s cx (p.1 e) e t (effAddr s cx.team.key e t 0) (atomBytes e) .write .atomic))) = true := by decide

theorem witness_AccessChecks :
    ([(tM, 2 ^ 48), (mL, 12), (mL, 1024)].all (fun p => let s := atWith (.ld p.1) hs (fun t => { t with v := vset (vset t.v 2 (BitVec.ofNat 64 (p.2 - 8))) 0 (BitVec.ofNat 64 (p.2 - 8)) }) []
      ready s (fun cx => .ld (cx.fm p.1)) gOn (fun cx t => let e := cx.fm p.1
        trapsNow s t && (kindCheck cx e t).isNone &&
          (match locate s cx e t.vd (effAddr s cx.team.key e t (repExtra cx cx.t0.repsd (elemBytes e))) (accessBytes e) .read with
            | .error (.trap _) => true
            | _ => false)))) = true ∧
    ctx (atWith (.ld mL) [(5, 0)] id []) (fun cx => scratchBytes cx.team.key cx.launch = 0) = true := by decide

theorem witness_FullFlagStalls : ([Instr.ld mL, .acl { tX with a := 0, b := 0, c := 0 }, .hclr { tH with a := 0 }].all (fun i =>
    let s := atWith i [] (fun t => { t with flags := vset t.flags 0 15 }) []
    ctx s (fun cx => legal i && !slotIllegal cx i && (!needsAligned i || cx.a != 0) && cx.ts.all (fun t => !fenceHolds i t) && flagOfInstr cx.hdr i == some 0 && cx.ts.all (fun t => t.flag 0 == 15)))) = true := by decide

theorem witness_FencesAndForwarding :
    (let s := at_ (.fence { tM0 with scope := 3 })
     ready s (fun cx => .fence (cx.fm { tM0 with scope := 3 })) gOn any_ = true) ∧
    ready (at_ (.fenceX { tM0 with off := 0x21 })) (fun cx => .fenceX (cx.fm { tM0 with off := 0x21 })) gOn any_ = true ∧
    ready (at_ (.pref { tM with sub := 0, d := 0 })) (fun cx => .pref (cx.fm { tM with sub := 0, d := 0 })) gOn
      (fun cx t => (kindCheck cx (cx.fm { tM with sub := 0, d := 0 }) t).isNone) = true ∧
    fenceDone { State.reset with now := 4 } { placedThread with pfen := true, pfsc := 2 } = true := by decide

/-- One load of eight bytes at 0x100 on its way, and states that hold it. -/
def rq (i : Instr) (ph : ReqPhase) : Req :=
  { id := 0, thr := k0, owners := [], vd := 0, cluster := 0, core := 0, i := i, flag := some 0, space := .hbm, gva := 0x100, gpa := 0x100, dpa := 0x100, len := 8, lcls := 1, repl := false,
    data := List.replicate 8 7, opB := 0, opB2 := 0, phase := ph, tw := 0, poisoned := false, failed := false, retried := false, watch := false, pc := 0x10000, cpos := 0, repa := false, repc := 0, order := 0 }
def withReq (i : Instr) (ph : ReqPhase) : State := let s := at_ i
  { s with now := 10, ms := { s.ms with reqs := [rq i ph] } }

theorem witness_Loads :
    (let ok := fun (s : State) (renews : Bool) => let q := rq (.ld tM) .issued
       s.req? 0 = some q ∧ isLoadReq q = true ∧ mayPerform s q = true ∧ l1Hit s q = false ∧ l2Hit s q = false ∧ homeHolds s q.dpa = false ∧ s.ms.badSymbols = [] ∧
         anyPoison s q.dpa q.len = false ∧ copyHeld s 0 2 (dieOfCluster q.cluster) (q.dpa / 256) = renews
     let s := withReq (.ld tM) .issued
     ok s false ∧ ok { s with ms := { s.ms with copies := [{ vd := 0, gen := 0, level := 2, place := 0, line := 1, expiry := 0, tw := 0 }] } } true) ∧
    (let s := withReq (.ld tM) .performed
     s.req? 0 = some (rq (.ld tM) .performed) ∧ (s.thr? k0).any (fun t => t.st != .exited) = true ∧ tM.d.toNat + 2 ^ (tM.cnt.toNat % 4) ≤ 64) := by decide

def msg (st : StoreStage) : StoreMsg := { id := 0, die := 0, vd := 0, line := 1, cells := [(0x100, 5)], reqs := [], repl := false, stage := st, poisoned := false }
def withMsg (st : StoreStage) : State := { State.reset with ms := { MemSys.reset with stores := [msg st] } }

theorem witness_Stores :
    ((withMsg .toHome).store? 0 = some (msg .toHome) ∧ writeHolds (withMsg .toHome) 0 ((msg .toHome).line * 256) false = false ∧
      ∀ x ∈ (withMsg .toHome).ms.stores, x.line = 1 → x.die = 0 → x.stage = .toHome → 0 ≤ x.id) ∧
    ((withMsg (.replica 9)).store? 0 = some (msg (.replica 9)) ∧ homeHolds (withMsg (.replica 9)) ((msg (.replica 9)).line * 256 + 0x3000000000) = false) ∧
    ((withMsg (.combining 0)).store? 0 = some (msg (.combining 0)) ∧ 0 + 64 ≤ ((cycles (withMsg (.combining 0)) 64).die 0).cyc) ∧
    ([Instr.st { tM with d := 0, b := 4 }, .atom { tM with sub := 0 }].all (fun i => let s := withReq i .acked
      s.req? 0 == some (rq i .acked) && the s (fun t => t.st != .exited))) = true := by decide

theorem witness_Atomics : ([Instr.atom { tM with sub := 0 }, .atomFadd { tM with sub := 0, cnt := 4 }, .red { tM with sub := 0, d := 0 }].all (fun i =>
    let s := withReq i .issued
    let q := rq i .issued
    s.req? 0 == some q && (isAtomReq q || isRedReq q) && mayPerform s q && !writeHolds s q.vd q.dpa false && s.ms.badSymbols.isEmpty && !anyPoison s q.dpa q.len && !q.retried)) = true := by decide

theorem witness_HomeUpkeep :
    (let e : WinEntry := { vd := 0, gen := 0, cluster := 0, sector := 4, cells := [(0x100, 5)], owns := [(0x100, 0, 6)], unacked := 0, tw := 6 }
     [e].find? (fun e => e.cluster = 0 && e.sector = 4) = some e ∧ e.tw + 4 ≤ (withReq (.ld tM) .issued).now) ∧
    (let s := { State.reset with now := 4096, ms := { MemSys.reset with homes := [(1, { lmax := 9, tlast := 8, heat := 1, lastStore := 0 })] } }
     (s.home 1).heat ≠ 0 ∧ (s.home 1).lastStore + 4096 ≤ s.now) ∧
    (hbmDpa (64 * 4) = true ∧ look 4 State.reset.ms.badSymbols = none) ∧
    (let s := { State.reset with ms := { MemSys.reset with badSymbols := [(4, [(2, 1), (3, 1)])] } }
     look 4 s.ms.badSymbols = some [(2, 1), (3, 1)] ∧ (s.md (mdOfDpa (64 * 4))).failed = []) ∧
    (let bad : List (Nat × Byte) := [(0, 1), (1, 1), (2, 1), (40, 1), (41, 1)]
     let s := { State.reset with ms := { MemSys.reset with badSymbols := [(4, bad)] } }
     look 4 s.ms.badSymbols = some bad ∧ (∀ b ∈ bad, b.2 ≠ 0) ∧ 4 < bad.length ∧ bad.length ≤ 12 ∧ (s.md (mdOfDpa (64 * 4))).failed = [] ∧ 4 ∉ s.ms.poison) ∧
    (let s := { atWith (.ld tM) [] (fun t => { t with pfen := true, pfsc := 2 }) [] with now := 4 }
     the s (fun t => t.pfen && fenceDone s t) = true) := by decide

theorem witness_MemoryContents : Memory.wf [(1, 1), (5, 2)] = true ∧
    (let v : Version := { tw := 3, cells := [(1, 0), (2, 7)], clusters := [], writer := none, clears := [] }
     let w : Version := { tw := 2, cells := [(2, 9), (4, 1)], clusters := [], writer := none, clears := [] }
     let s := { State.reset with now := 3, ms := { MemSys.reset with versions := [v, w] } }
     (s.ms.versions.map (·.tw)).Nodup ∧ (∀ v ∈ s.ms.versions, (v.cells.map (·.1)).Nodup) ∧ v.tw ≤ s.now ∧ w.tw ≤ v.tw ∧ (2, 7) ∈ v.cells ∧ (2, 9) ∈ w.cells ∧
       s.ms.badSymbols = []) ∧ (∀ v ∈ State.reset.ms.versions, State.reset.now < v.tw) := by decide

/-- The same with a second thread in the team, outside the group; and with a barrier changed. -/
def two (i : Instr) : State := let s := atWith i hs id []
  { s with threads := s.threads ++ [{ placedThread with key := { team := kt, tid := 1 } }] }
def bar0 (s : State) (b : Barrier) : State := { s with teams := s.teams.map (fun t => { t with bars := vset t.bars 0 b }) }
def migrates : List (Nat × Word) := [(1, 0x2000), (5, BitVec.ofNat 64 (2 ^ 48))]

theorem witness_Barriers :
    (let s := two (.barArr tB)
     ready s (fun cx => .barArr (cx.fr tB)) gOn (fun cx t => let bar := barOf s cx.team.key 0
       (barrierCheck cx 0 false t).isNone && bar.tag == 0 && !arrivedNow 0 bar t && bar.count + 1 != arriverCount s cx.team.key 0 && !cx.team.met.getLsbD 0) = true) ∧
    (let s := two (.barWait tB)
     ready s (fun cx => .barWait (cx.fr tB)) gOn (fun cx t => (barrierCheck cx 0 false t).isNone) = true ∧
     ready (two (.barWait { tB with c := 12 })) (fun cx => .barWait (cx.fr { tB with c := 12 })) gOn (fun cx t => (barrierCheck cx 12 true t).isNone) = true) ∧
    ([(Instr.barRed, false), (.barScan, true)].all (fun p => let s := two (p.1 tR1)
      ready s (fun cx => p.1 (cx.fr tR1)) gOn (fun cx t => let bar := barOf s cx.team.key 0
        ownsBarriers cx.team.key cx.launch && bar.tag == 0 && bar.count == 0 && !arrivedNow 0 bar t && bar.count + 1 != arriverCount s cx.team.key 0 && !cx.team.met.getLsbD 0 &&
          (payloadTag (cx.fr tR1) p.2 != 0)))) = true ∧
    (ctx (atWith (.barArr tB) migrates id []) (fun cx => !ownsBarriers cx.team.key cx.launch) = true ∧
     ctx (two (.barArr tB)) (fun cx => ownsBarriers cx.team.key cx.launch) = true) ∧
    (let s := bar0 (two (.barArr tB)) { count := 1, phase := false, tag := 5 }
     ready s (fun cx => .barArr (cx.fr tB)) gOn (fun cx t => trapsNow s t && (barrierCheck cx 0 false t).isNone && (barOf s cx.team.key 0).tag != 0) = true) ∧
    (let s0 := bar0 (two (.barArr tB)) { count := 2, phase := false, tag := 0 }
     let s := { s0 with teams := s0.teams.map (fun t => { t with met := 1 }) }
     phaseReady s kt 0 = true ∧ (barOf s kt 0).tag = 0 ∧ ∀ t ∈ s.members kt, isSecond t = false) := by decide

/-- Cluster 0 with all of its seed bins another launch's. -/
def foreign : Bin := { vd := 0, lid := 9, entry := 0x40000, seeds := [], dueCyc := 9, held := false }
def fullBins (s : State) : State := s.modCluster 0 (fun c => { c with bins := (List.range 16).map (fun n => (n, foreign)) })
def seed : Seed := { entry := 0x40000, args := Vector.replicate 4 0 }

theorem witness_Spawning :
    (let s := at_ (.spawn tP)
     ready s (fun cx => .spawn (cx.fr tP)) gOn (fun cx t => markIneligible s cx.team.key == s &&
       (placeSeed s cx.cluster cx.vd cx.launch.lid cx.launch.stimer (seedOf s (cx.fr tP) t)).any
         (fun u => decide ((s.cluster cx.cluster).bins.length ≤ (u.cluster cx.cluster).bins.length))) = true) ∧
    (let s := fullBins (at_ (.spawn tP))
     ready s (fun cx => .spawn (cx.fr tP)) gOn (fun cx t => markIneligible s cx.team.key == s &&
       (placeSeed s cx.cluster cx.vd cx.launch.lid cx.launch.stimer (seedOf s (cx.fr tP) t)).isNone) = true) ∧
    (let fits := fun (lid : Nat) (p : Nat × Bin) => p.2.vd = 0 ∧ p.2.lid = lid ∧ p.2.entry = seed.entry ∧ p.2.seeds.length < 32 ∧ p.2.held = false ∧ (State.reset.die 0).cyc < p.2.dueCyc
     let bins := ((fullBins State.reset).cluster 0).bins
     bins.find? (fun p => decide (fits 9 p)) = some (0, foreign) ∧ foreign.seeds.length < 31 ∧
       (∀ p ∈ bins, ¬fits 0 p) ∧ (∀ m, m < 16 → (look m bins).isSome = true) ∧ look 0 (State.reset.cluster 0).bins = none ∧ (State.reset.cluster 0).bins = []) := by decide

/-- Page tables of both stages, at device address 0 and 0x1000, that map the first 1 GiB, and the 1 GiB page at 192 GiB, onto themselves. -/
def tables : Mem := [(0, 1), (1, 0x10), (0x1000, 0x72), (0x1600, 0x72), (0x1604, 0x30)]
def mG : FM := { tM with sub := 0, d := 0, off := 0x8 }

theorem witness_Migrating :
    ([0, 0x3000000000].all (fun v2 => let s := atWith (.migr mG) migrates (fun t => { t with v := vset t.v 2 v2 }) tables
      ready s (fun cx => .migr (cx.fm mG)) gOn (fun cx t => mayMigrate cx && (kindCheck cx (cx.fm mG) t).isNone && markIneligible s cx.team.key == s &&
        decide (effAddr s cx.team.key (cx.fm mG) t 0 < 2 ^ 48) && (match Machine.translate (s.walked (.core cx.core) t.vd (effAddr s cx.team.key (cx.fm mG) t 0)) (.core cx.core) t.vd (effAddr s cx.team.key (cx.fm mG) t 0) .any with
          | .ok x => x.dpa == v2.toNat + 8
          | .error _ => false)))) = true ∧
    (let s := atWith (.migr mG) hs id []
     ready s (fun cx => .migr (cx.fm mG)) gOn (fun cx t => !mayMigrate cx && trapsNow s t) = true) ∧
    (let s0 := atWith (.migr mG) migrates (fun t => { t with st := .migrating, migTo := some 1, lines := Vector.replicate 9 .absent }) []
     let s := { s0 with clusters := [(0, { Cluster.idle with holder := some 0 }), (192, { Cluster.idle with holder := some 0 })] }
     s.power = .on ∧ (migrants s 1).length = 1 ∧ the s (fun t => migrants s 1 == [t] && writtenBack s t) = true ∧ landingPlace s 0 1 = some (192, 0)) := by decide

def desc : Desc16 := { w0 := 0x4000, w1 := 0x40 }
/-- A device with page tables, a must-save quota of n units and the bank energy e. -/
def saver (n e : Nat) : State := let s := at_ (.musts mG)
  { s with vds := s.vds.map (fun p => (p.1, p.2.setField 7 12 0 n)), ms := { s.ms with mem := tables ++ [(0x4000, 1)] }, mg := { s.mg with ecap := e } }

theorem witness_MustSaveSets :
    (let s := at_ (.musts mG)
     ready s (fun cx => .musts (cx.fm mG)) gOn (fun cx t => !s.ms.reqs.any (isMusts cx) && (kindCheck cx (cx.fm mG) t).isNone &&
       decide (effAddr s cx.team.key (cx.fm mG) t 0 < 2 ^ 48) && markIneligible s cx.team.key == s) = true) ∧
    (match readList 0 65 (saver 1 0) 0x4000 with
      | .malformed _ => true
      | _ => false) = true ∧
    (let items := fun (s : State) => [itemOf s 0 0 desc]
     let gone := fun (s : State) => (items s).any (fun i => i.pages.any (·.isNone))
     gone (at_ (.musts mG)) = true ∧ gone (saver 0 0) = false ∧ gone (saver 1 0) = false ∧ gone (saver 1 600) = false ∧
       bits (((saver 0 0).vd 0).word 7) 12 0 < usedBy (saver 0 0) 0 + chargeOf (items (saver 0 0)) ∧
       usedBy (saver 1 0) 0 + chargeOf (items (saver 1 0)) ≤ bits (((saver 1 0).vd 0).word 7) 12 0 ∧
       maxSave (saver 1 0) < usedAll (saver 1 0) + chargeOf (items (saver 1 0)) ∧
       usedBy (saver 1 600) 0 + chargeOf (items (saver 1 600)) ≤ bits (((saver 1 600).vd 0).word 7) 12 0 ∧
       saveBarred (saver 1 600) = false ∧ usedAll (saver 1 600) + chargeOf (items (saver 1 600)) ≤ maxSave (saver 1 600)) ∧
    (let s0 := withReq (.musts mG) .issued
     let s := { s0 with ms := { s0.ms with reqs := [{ rq (.musts mG) .issued with gva := 1 }] } }
     s.power = .on ∧ (match admitAt s 0 0 1 with
      | .status n u => n == 3 && the u (fun t => t.st != .exited)
      | _ => false) = true ∧ mG.d.toNat < 64) := by
  decide

/-- What a step leaves, where it goes on. -/
def ran (o : Host.Outcome State Fault Refusal) : State := match o with
  | .next s => s
  | _ => State.reset
/-- The member and its team use the team's bulk state; a run of 1,024 bytes from an address register lies in reach. -/
def wide (cx : Ctx) (t : Thread) : Bool := !cx.team.key.spawned && !t.detached
def placeOk (s : State) (t : Thread) (a : Nat) : Bool := regN s t a % 64 == 0 && decide (regN s t a + 1024 ≤ 2 ^ 48)

def hClr : FH := { tH with a := 0 }
def hBin : FH := { tH with b := 3 }

theorem witness_Hypervectors :
    ([(Instr.hld, tH), (.hst, { tH with d := 0 }), (.hclr, hClr), (.hbind, hBin), (.hperm, tH), (.hbun, { tH with d := 0 }), (.hmaj, hClr), (.hdist, hBin), (.hpop, tH),
      (.hams, { tH with d := 0 }), (.hnear, tH), (.hnearK, { tH with sub := 1, d := 8 })].all (fun p => let s := at_ (p.1 p.2)
      ready s (fun cx => p.1 (cx.fh p.2)) gOn (fun cx t => let e := cx.fh p.2
        p.1 e == p.1 p.2 && wide cx t && placeOk s t e.a.toNat && !e.sp && cx.launch.mstr && decide (regN s t e.b.toNat ≤ 255)))) = true ∧
    ([Instr.hclr hClr, .hclr { hClr with d := 8 }, .hdist hBin, .hpop tH, .hnear tH].all (fun i => let s := cycles (ran (exec i (at_ i))) 1
      match nextServed s 0 .hyper with
      | some o => o.i == i && (match s.team? o.team with
          | some tm => Memory.wf tm.hv && Memory.wf tm.mc && Memory.wf tm.ms
          | none => false) && decide (o.vals.getD 0 0 ≤ 256) && s.threads.any (fun t => t.key.team == o.team && o.lanes.contains t.key.tid && t.st != .exited)
      | none => false)) = true := by decide

theorem witness_CombiningHypervectors : ([Instr.hbind hBin, .hperm tH, .hmaj hClr, .hbun { tH with d := 0 }].all (fun i => let s := cycles (ran (exec i (at_ i))) 1
      match nextServed s 0 .hyper with
      | some o => o.i == i && (match s.team? o.team with
          | some tm => Memory.wf tm.hv && Memory.wf tm.mc
          | none => false)
      | none => false)) = true := by decide

/-- Format slot 0 INT8; every accumulator's kind INT40. -/
def int8Slots : List (Nat × Word) := [(16, 7)]
def integers (s : State) : State := { s with teams := s.teams.map (fun t => { t with acck := 0xFFFF }) }
def xMma : FX := { tX with sub := 5, d := 0, c := 0 }

theorem witness_TilesAndMatrices :
    (let s := atWith (.tld tX) int8Slots id []
     ready s (fun cx => .tld (cx.fx tX)) gOn (fun cx t => let e := cx.fx tX
       let x := cx.launch.slot 0
       wide cx t && e.sp == false && x.kind != .fp32 && decide (placesUsed s cx.team.key < 32) &&
         (tileCheck cx x true e.sp e.b.toNat (regN s t e.a.toNat) 0 (regN s t e.c.toNat)).isNone && x.kind.block == 0) = true) ∧
    (let s := atWith (.tst tX) int8Slots id []
     ready s (fun cx => .tst (cx.fx tX)) gOn (fun cx t => let e := cx.fx tX
       let x := cx.launch.slot 0
       wide cx t && e.sp == false && x.kind != .fp32 && decide (placesUsed s cx.team.key < 32) &&
         (tileCheck cx x false e.sp e.b.toNat (regN s t e.a.toNat) 0 (regN s t e.c.toNat)).isNone && x.kind.block == 0) = true) ∧
    (let f := { tX with a := 0, b := 0, c := 0 }
     let s := atWith (.acl f) int8Slots id []
     ready s (fun cx => .acl (cx.fx f)) gOn (fun cx t => wide cx t && decide (entriesUsed s cx.cluster < 16) && (cx.launch.slot 0).kind == .int8 && decide (f.d.toNat < 16)) = true) ∧
    (let s := integers (atWith (.mma xMma) int8Slots id [])
     ready s (fun cx => .mma (cx.fx xMma)) gOn (fun cx t => let e := cx.fx xMma
       wide cx t && decide (entriesUsed s cx.cluster < 16) && !mmaMismatch cx e && (maskTrap s cx e).isNone) = true) ∧
    (let s := integers (atWith (.adrn tXd) int8Slots id [])
     ready s (fun cx => .adrn (cx.fx tXd)) gOn (fun cx t => wide cx t && decide (entriesUsed s cx.cluster < 16) && !drainMismatch cx (cx.fx tXd)) = true ∧
     ready (integers (atWith (.abyp tXd) int8Slots id [])) (fun cx => .abyp (cx.fx tXd)) gOn (fun cx t => wide cx t && !drainMismatch cx (cx.fx tXd) &&
       decide ((cx.fx tXd).a.toNat + t.key.tid / 8 % 4 < 32)) = true) ∧
    (let s := integers (atWith (.ast tXd) int8Slots id [])
     ready s (fun cx => .ast (cx.fx tXd)) gOn (fun cx t => wide cx t && decide (entriesUsed s cx.cluster < 16) && !drainMismatch cx (cx.fx tXd) && (cx.fx tXd).sp == false &&
       (astTrap s cx (cx.fx tXd) t).isNone) = true) ∧
    ([Instr.acl { tX with a := 0, b := 0, c := 0 }, .mma xMma].all (fun i => let s0 := integers (ran (exec i (integers (atWith i int8Slots id []))))
      let s := (cycles s0 100).modCluster 0 (fun c => { c with lastPass := 90 })
      match chooseEntry s 0 with
      | some o => o.i == i && s.ops == [o] && o.lanes == [0] && decide (o.quarter < 4) && !isStart s 0 && (opSlot s o 0).kind == .int8 && (opSlot s o 0).xform != 2 &&
          (match s.team? o.team with
            | some tm => Memory.wf tm.acc && Memory.wf tm.tiles
            | none => false)
      | none => false)) = true := by decide

/-- An mma whose launch may be rolled back, its pass struck in the first row. -/
def struckPass : State :=
  let s0 := integers (ran (exec (.mma xMma) (integers (atWith (.mma xMma) int8Slots id []))))
  let s := (cycles s0 100).modCluster 0 (fun c => { c with lastPass := 90 })
  { s with upsets := [.pass 0 0 3 1 0 false], launches := s.launches.map (fun l => { l with words := vset l.words 5 (l.word 5 ||| 0x2000000000000) }),
           teams := s.teams.map (fun t => { t with snap := some { nlog := 0, inel := false, rbn := 0, icnt := 0, logged := [], unformed := [] } }) }

set_option maxRecDepth 20000 in
theorem witness_PassMismatch :
    (let s := struckPass
     match chooseEntry s 0 with
      | some o => o.i == .mma xMma && s.ops == [o] && !o.owners.isEmpty && !isStart s 0 && s.upsets.any (·.strikes 0) && quarterMismatch s o && mayRollBack s o.team &&
          !quarterMismatch { s with upsets := [] } o
      | none => false) = true := by decide

def mC : FM := { tM with sub := 0, off := 0, d := 6, a := 4, b := 5, sp := true, lh := 0 }

theorem witness_CopiesAndScans :
    ([0, 64].all (fun n => let f := { tM with sub := 0, off := 0, d := 6, a := 4, b := 5 }
      let s := atWith (.cpy f) [] (fun t => { t with v := vset (vset t.v 5 (BitVec.ofNat 64 n)) 6 256 }) []
      ready s (fun cx => .cpy (cx.fm f)) gOn (fun cx t => !cpyDstScr (cx.fm f) && !cpySrcScr (cx.fm f) && (cpyCheck cx (cx.fm f) 256 0 n 0).isNone &&
        decide (regN s t 6 = 256) && decide (regN s t 5 = n) && decide (placesUsed s cx.team.key < 32) && decide (cpyCount (cx.fm f) n = n)))) = true ∧
    ([0, 2].all (fun n => let f := { tH with c := 3, a := 2, b := 1, d := 8 }
      let s := atWith (.hscan f) [] (fun t => { t with v := vset t.v 3 (BitVec.ofNat 64 n) }) []
      ready s (fun cx => .hscan (cx.fh f)) gOn (fun cx t => let e := cx.fh f
        wide cx t && decide (regN s t e.c.toNat = n) && regN s t e.a.toNat % 64 == 0 && decide (regN s t e.a.toNat + 1024 * n ≤ 2 ^ 48) && !e.sp &&
          decide (placesUsed s cx.team.key < 32) && decide (e.d.toNat + e.kn.toNat < 64) && t.st != .exited))) = true ∧
    (let f := { tM with sub := 0, off := 0, d := 6, a := 4, b := 5, sp := true, cnt := 4 }
     let s := cycles (ran (exec (.cpy f) (atWith (.cpy f) [] (fun t => { t with v := vset (vset t.v 5 64) 6 256 }) []))) 1
     match nextServed s 0 .copy with
      | some o => o.i == .cpy f && cpyDstScr f && cpySrcScr f && o.prog == 0 && o.vals == [256, 0, 64, 0] && (s.team? o.team).any (fun tm => Memory.wf tm.scr)
      | none => false) = true := by decide

def opAt (ph : OpPhase) : State := let s := ran (exec (.hclr hClr) (at_ (.hclr hClr)))
  { s with now := 5, ops := s.ops.map (fun o => { o with phase := ph }) }

theorem witness_EngineCompletion :
    ([OpPhase.done 5, .done 6, .failed 1 0x40 true].all (fun ph => let s := opAt ph
      s.ops.all (fun o => s.op? o.id == some o && o.owners == [o.tid] && o.phase == ph && (s.thr? (opThread o)).any (fun t => t.st != .exited)) && s.ops.length == 1)) = true ∧
    refusedEngines State.reset 0 = [] ∧
    (let s0 := integers (ran (exec (.mma xMma) (integers (atWith (.mma xMma) int8Slots id []))))
     let s := { s0 with dies := Vector.replicate 2 { Die.reset with cyc := 1, neng := 2, winStarts := 2 } }
     (chooseEntry s 0).any (fun o => o.i == .mma xMma) = true ∧ isStart s 0 = true ∧ (s.die (dieOfCluster 0)).winStart = s.now / 64 * 64 ∧
       (s.die (dieOfCluster 0)).neng ≤ (s.die (dieOfCluster 0)).winStarts) := by decide

/-- The clause of one ALU instruction, in memory below page tables that map it; the thread stands before it, in no issue slot. -/
def addClause : List Word := [0xC000000000000000, (encodeWord (.add tR)).getD 0]
def code : Mem := memWriteN tables 0x10000 (addClause.flatMap (fun w => leBytes 8 w.toNat))
def standing (f : Thread → Thread) : State := { atWith (.add tR) hs f code with cores := [] }

theorem witness_GroupSelection :
    ((at_ (.add tR)).core 0).slot.isSome = true ∧
    (let s := standing id
     the s (fun t => s.threads == [t] && (s.core (coreOf t)).slot.isNone && Machine.ready s t && s.ms.badSymbols.isEmpty &&
       (match fetchClause s (coreOf t) t.vd t.pc with
         | .ok ws => ws == addClause && !clauseBad (slotsOf s t) ws
         | _ => false) &&
       hAlign (addClause.getD 0 0) == 0 && decide (t.cpos < hCount (addClause.getD 0 0)) &&
       (lineMask (slotsOf s t) addClause).all (fun n => decide (n ≤ t.budget) && lineHeld t n)) = true) ∧
    (let s0 := atWith (.add tR) hs id code
     let t0 := { placedThread with repa := true, repn := 9, repc := 1 }
     let u0 := { placedThread with key := { team := kt, tid := 1 }, aged := some 1 }
     let s := { s0 with threads := [t0, u0], cores := s0.cores.map (fun p => (p.1, { p.2 with slot := p.2.slot.map (fun g => { g with cycles := 64 }) })) }
     ((s.core 0).slot.any (fun g => decide (64 ≤ g.cycles) && g.members.contains 0 && g.team == kt)) = true ∧ s.thr? k0 = some t0 ∧ t0.repActive = true ∧ t0.repc ≠ 0 ∧
       u0 ∈ s.threads ∧ coreOf u0 = 0 ∧ u0.aged.isSome = true ∧ Machine.ready s u0 = true) := by decide

def wb (tw : Nat) : WriteBack := { id := 3, vd := 0, cluster := 0, thr := k0, line := 1, bytes := List.replicate 64 1, gva := 0x4000, tw := tw }

theorem witness_RegisterCache :
    ([false, true].all (fun made => let s0 := atWith (.add tR) hs (fun t => { t with created := made, lines := Vector.replicate 9 .absent }) tables
      let s := { s0 with cores := [] }
      the s (fun t => s.threads == [t] && wantsActivation s (coreOf t) t && (s.launch? t.key.team.lid).isSome && !zerosBusy s t && t.created == made))) = true ∧
    (let s := atWith (.add tR) hs (fun t => { t with lines := vset t.lines 2 .fetching }) tables
     the s (fun t => (s.launch? t.key.team.lid).any (fun l => vget t.lines 2 .absent == .fetching && s.ms.wbs.isEmpty && s.ms.badSymbols.isEmpty &&
       match Machine.translate s (.core (coreOf t)) t.vd (slotAddr l t.key + 64 * 2) .read with
       | .ok x => hbmDpa x.dpa && !homeHolds s x.dpa && !s.poisoned x.dpa
       | .error _ => false)) = true) ∧
    (let s0 := atWith (.add tR) hs (fun t => { t with lines := vset t.lines 1 .fetching }) tables
     let s := { s0 with ms := { s0.ms with wbs := [wb 0] } }
     the s (fun t => vget t.lines 1 .absent == .fetching && (s.launch? t.key.team.lid).isSome && s.ms.wbs.filter (fun w => w.thr = k0 ∧ w.line = 1) == [wb 0]) = true) ∧
    (let s := { atWith (.add tR) hs id tables with now := 9 }
     [wb 0].find? (fun w => w.id = 3) = some (wb 0) ∧ (wb 0).tw = 0 ∧ s.ms.held = [] ∧ writesAfter s (wb 0) = false ∧ s.ms.badSymbols = [] ∧
       (match Machine.translate s (.cluster (wb 0).cluster) 0 (wb 0).gva .write with
        | .ok x => hbmDpa x.dpa && !writeHolds s 0 x.dpa x.repl
        | .error _ => false) = true ∧
       [wb 9].find? (fun w => w.id = 3) = some (wb 9) ∧ (wb 9).tw ≠ 0 ∧ (wb 9).tw ≤ s.now) := by decide

def info (c : Nat) : TrapInfo := { cause := c, detail := 0, addr := 0x40, wr := false, src := 0, rp := 0x10000, rc := 0, repa := false, repc := 0 }
/-- A device with words of its debug block set. -/
def debug (s : State) (ws : List (Nat × Word)) : State := { s with vds := s.vds.map (fun p => (p.1, { p.2 with dbg := ws.foldl (fun d w => vset d w.1 w.2) p.2.dbg })) }

theorem witness_DeferredTrapsAndHalts :
    (let s := standing (fun t => { t with due := [info 0x17] })
     the s (fun t => trapsNow s t && t.due == [info 0x17] && !inSlot s k0 && !t.haltReq) = true) ∧
    (let s := standing (fun t => { t with st := .barrierWait, barrier := some { bar := 0, payload := false, d := 0, a := 0, guardBits := 0, second := false, count := 1 } })
     stalled s kt = true ∧ ((s.members kt).map (·.key)).Nodup ∧ (s.members kt).all (fun t => trapsNow s t && s.thr? t.key == some t) = true) ∧
    stalled (standing id) kt = false ∧
    debugBusy (standing id) 0 = false ∧
    (let s := standing (fun t => { t with st := .halted })
     the s (fun t => targeted s 0 t.key.team && t.st == .halted && !t.haltReq && !t.detached) = true) ∧
    debugBusy (debug (standing id) [(6, 1)]) 0 = true ∧
    (let s := debug (standing (fun t => { t with haltReq := true })) [(0, 0x1000)]
     s.power = .on ∧ the s (fun t => mayHalt s t && t.brkCode.isNone && (s.launch? t.key.team.lid).isSome && bits (vget (s.vd t.vd).dbg 0 0) 63 12 != 0 &&
       bits (vget (s.vd t.vd).dbg 2 0) 31 0 == bits (vget (s.vd t.vd).dbg 3 0) 31 0) = true) := by decide

/-- A management ring that holds one command; what `InTurn` asks, as a Bool. -/
def inRing : Mgmt := { Mgmt.reset with ready := true, mcqtail := 1 }
def inTurn (s : State) (v : Nat) : Bool := s.power == .on && s.mg.mcqhead != s.mg.mcqtail && (s.vd v).stopTo.isNone && s.mg.s2invs.all (·.1 != v) &&
  s.mg.cmds.all (fun i => commandVd i != some v)

def heldRec (c : Nat) (ix : Option Nat) : Held := { id := 7, vd := 0, what := .member k0, info := info c, tid := 0, team := 0, index := ix }
/-- The thread Parked under a held fault; the device has published one record, at 0. -/
def parked (c : Nat) (ix : Option Nat) : State := let s := standing (fun t => { t with st := .parked })
  { s with ms := { s.ms with held := [heldRec c ix] }, vds := s.vds.map (fun p => (p.1, { p.2 with fqhead := 1, fqtail := 0 })) }

theorem witness_FaultsAndInvalidations :
    (let s := parked 0x33 none
     s.ms.held = [heldRec 0x33 none] ∧ peleloReleases s (heldRec 0x33 none) = true ∧ the s (fun t => t.st == .parked && trapsNow s t) = true) ∧
    (((parked 0x30 (some 0)).vd 0).fqhead - ((parked 0x30 (some 0)).vd 0).fqtail).toNat < (BitVec.ofNat 32 (bits (2 : Word) 31 0) - ((parked 0x30 (some 0)).vd 0).fqtail).toNat ∧
    (let s := parked 0x30 (some 0)
     let d := s.vd 0
     let new := BitVec.ofNat 32 (bits (1 : Word) 31 0)
     d.state ≠ 0 ∧ (new - d.fqtail).toNat ≤ (d.fqhead - d.fqtail).toNat ∧ d.fqWait = [] ∧ (BitVec.ofNat 32 0 - d.fqtail).toNat < (new - d.fqtail).toNat ∧ abtAt s 0 0 = false ∧ abtHeld s 0 0 = false ∧ s.ms.badSymbols = [] ∧
       the s (fun t => t.st == .parked) = true) ∧
    (let s := standing id
     (s.vd 0).state = 2 ∧ (s.vd 0).tinvBusy = false ∧ s.ms.reqs = [] ∧ s.ms.outs = [] ∧ s.ms.badSymbols = [] ∧
       [(0x12000 : Word), 0x40].all (fun x => bits x 63 48 == 0 && bits x 11 8 == 0 && bits x 5 0 == 0 && decide (bits x 7 6 < 2)) = true) ∧
    (let s := { standing id with mg := inRing, vds := [(0, { VDev.empty.setField 0 2 0 2 with tinvBusy := true })] }
     s.mg.ready = true ∧ inTurn s 0 = true ∧ s.ms.reqs = [] ∧ s.ms.outs = [] ∧ (s.vd 0).state = 2 ∧ (s.vd 0).tinvBusy = true ∧ againHeld s 0 (fun page _ => coversPage (s.vd 0).tinvPage page) = false ∧
       againHeld s 0 (fun _ gpage => inRange 4096 0 4096 gpage) = false) := by decide

/-- A booted package with a management command in its ring and one device in a state, changed by f; nothing placed. -/
def dev (st : Nat) (f : VDev → VDev) : State :=
  { State.reset with mg := inRing, vds := [(0, f ((VDev.empty.setField 0 2 0 st).setField 17 5 0 31))] }
def withMem (s : State) (m : Mem) : State := { s with ms := { s.ms with mem := m } }
/-- The tables of both stages with level-3 tables for the second gigabyte, whose first leaf, at 0x3000, is l. -/
def tables3 (l : Nat) : Mem := [(0, 1), (1, 0x10), (0x1000, 0x72), (0x1008, 1), (0x1009, 0x20), (0x1600, 0x72), (0x1604, 0x30), (0x2000, 1), (0x2001, 0x30)] ++
  (cellsAt 0x3000 (leBytes 8 l)).filter (fun c => c.2 != 0)
/-- A plot of that leaf in a state, in frame 16; and a state with plots. -/
def plot (st : Nat) : Plot :=
  { w := #v[BitVec.ofNat 64 (st * 2 ^ 61 + 16), 0x100, 0, 0], mappers := [(0, 0x3000)], notBefore := 0, requesters := [], waiters := [], alloc := decide (st = 4), pulled := false, attempts := 0, askedAt := 0, gpas := [(0, 0x40000000)], withdrawn := false, arrived := none }
def withPlot (s : State) (p : Plot) : State := { s with mg := { s.mg with plots := [(5, p)], freeFrames := [32], pool := [(0, 2 ^ 20)] } }
def tiers (st : Nat) : State := withPlot (withMem (dev 2 (fun d => d.setField 5 63 0 (2 ^ 33 + 2))) (tables3 0x100473)) (plot st)
/-- Pinned by an admitted must-save set. -/
def pinning (s : State) : State := { s with musts := [{ lid := 0, vd := 0, admitted := 0, items := [{ base := 0, bytes := 64, order := 0, didx := 0, pages := [some 0x100000], gpages := [0x100] }] }] }

/-- A container of a plot of zeros, at 0x100 of the tier: its version, its length of 576 bytes, the CRC-32C of 512 zeros. -/
def zeroContainer : Mem := [(0x100, 1), (0x108, 0x40), (0x109, 0x02), (0x110, 0xc0), (0x111, 0xed), (0x112, 0xfc), (0x113, 0x30)]

theorem decodeSectors_zero (z : List Byte) (hz : decodeSectorBytes 0 [] = some z) (n : Nat) :
    decodeSectors (List.replicate n 0) [] = some (List.replicate n z).flatten := by
  induction n with
  | zero => rfl
  | succ n ih => simp [List.replicate_succ, decodeSectors, hz, ih]

set_option maxRecDepth 100000 in
theorem readContainer_zero (s : State) (ht : s.mg.tier = zeroContainer) : ∃ bytes, readContainer s 0x100 = some bytes ∧ bytes.length = 65536 := by
  obtain ⟨z, hz, hl⟩ : ∃ z, decodeSectorBytes 0 [] = some z ∧ z.length = 256 := ⟨List.replicate 256 0, rfl, List.length_replicate⟩
  have hlen : ∀ n, (List.replicate n z).flatten.length = n * 256 := fun n => by simp [hl]
  refine ⟨(List.replicate 256 z).flatten, ?_, hlen 256⟩
  have h : readContainer s 0x100 = decodeContainer (memRange zeroContainer 0x100 576) := by
    unfold readContainer
    rw [ht]
    rw [if_neg (by decide +kernel)]
    congr 2
  rw [h, decodeContainer, if_neg (by decide +kernel)]
  have e : (List.range 256).map (fun i => leNat (((((memRange zeroContainer 0x100 576).take (leNat (((memRange zeroContainer 0x100 576).drop 8).take 8) % 2 ^ 17)).drop 64).drop (2 * i)).take 2)) =
    List.replicate 256 0 := by decide +kernel
  have d : (((memRange zeroContainer 0x100 576).take (leNat (((memRange zeroContainer 0x100 576).drop 8).take 8) % 2 ^ 17)).drop 64).drop 512 = [] := by decide +kernel
  rw [e, d]
  exact decodeSectors_zero z hz 256

/-- The plot whose promotion waits, its container readable. -/
def promotes : State := { tiers 4 with mg := { (tiers 4).mg with tier := zeroContainer } }
theorem witness_Tiering_container : ∃ bytes, readContainer promotes (plot 4).taddr = some bytes ∧ bytes.length = 65536 := readContainer_zero promotes rfl

theorem witness_Tiering :
    ((tiers 0).vd 0).state ≠ 0 ∧ bits (0x40000001 : Word) 1 0 = 1 ∧ bits (0x40000002 : Word) 1 0 = 2 ∧ (plotAt (tiers 0) 0 0x40000000).any (fun p => p == (5, plot 0)) = true ∧
    (plotAt (dev 2 id) 0 0x40000000).isNone = true ∧
    (look 5 (tiers 0).mg.plots = some (plot 0) ∧ pinned (tiers 0) (plot 0) = false ∧ pinned (pinning (tiers 0)) (plot 0) = true ∧
      bits (((tiers 0).vd 0).word 6) 63 32 + leaving (tiers 0) 0 + 1 ≤ bits (((tiers 0).vd 0).word 5) 63 32 ∧ bits (((tiers 0).vd 0).word 6) 31 0 + Machine.promoting (tiers 3) 0 + 1 ≤ bits (((tiers 0).vd 0).word 5) 31 0) ∧
    ((plotAt (tiers 3) 0 0x40000000).any (fun p => p == (5, plot 3)) = true ∧ (plot 3).state = 3 ∧ (plot 3).remote = false ∧ frameWaiters (tiers 3) (halfOfFrame (plot 3).frame) = [] ∧
      freeFrame (tiers 3) (halfOfFrame (plot 3).frame) = some 32 ∧ 32 < 2 ^ 36 ∧ (∀ m ∈ (plot 3).mappers, ((tiers 3).vd m.1).dben = false) ∧ Memory.wf (tiers 3).ms.mem = true ∧
      freeFrame { tiers 3 with mg := { (tiers 3).mg with freeFrames := [] } } (halfOfFrame (plot 3).frame) = none) ∧
    (let s := { tiers 1 with mg := { (tiers 1).mg with evictions := [5] } }
     s.power = .on ∧ (∀ q ∈ s.mg.plots, q.2.state ≠ 2) ∧ (plot 1).state ≤ 1 ∧ (plot 1).notBefore ≤ s.now ∧ (plot 1).requesters = [] ∧ (plot 1).waiters = [] ∧ frameHeld s (plot 1).frame = false ∧ s.ms.badSymbols = [] ∧ poisonIn s (plot 1).base 65536 = false ∧ pinned s (plot 1) = false ∧ leavesHeld s (plot 1) = false ∧
       Memory.wf s.ms.mem = true) ∧
    (look 5 (tiers 2).mg.plots = some (plot 2) ∧ (plot 2).state = 2 ∧ frameBusy (tiers 2) (plot 2).frame = false ∧ frameHeld (tiers 2) (plot 2).frame = false ∧ (tiers 2).ms.badSymbols = [] ∧
      poisonIn (tiers 2) (plot 2).base 65536 = false ∧ leavesHeld (tiers 2) (plot 2) = false ∧ (plot 2).withdrawn = false ∧ containerPlace (tiers 2) 5 = some 0) ∧
    ((plot 4).state = 4 ∧ (plot 4).remote = false ∧ (plot 4).alloc = true ∧ (plot 4).evq = false ∧ frameHeld (tiers 4) (plot 4).frame = false ∧
      bits (tiers 4).mg.dupmap 51 12 = 0 ∧ (plot 4).requesters = [] ∧ (tiers 4).mg.bar2 = [] ∧ (tiers 4).power = .on ∧ look 5 (tiers 4).mg.plots = some (plot 4) ∧
      Memory.wf (tiers 4).ms.mem = true ∧ (∀ m ∈ (plot 4).mappers, m.2 + 128 ≤ (plot 4).frame * 65536) ∧ (tiers 4).ms.badSymbols = [] ∧ leavesHeld (tiers 4) (plot 4) = false ∧
      readContainer (tiers 4) (plot 4).taddr = none ∧ (readDuplicate (tiers 4) 5).2 = none) := by decide

/-- A running device with two queues and the first gigabyte mapped; queue 0's pending records and kicks. -/
def queued (q : Queue) : State := withMem (dev 2 (fun d => { d.setField 0 19 13 2 with queues := [(0, q)] })) tables
/-- A launch that passes every check but those of its dependences: its entry, one thread, one team, one used pair. -/
def goodWords : Vector Word 32 := vset (vset (vset (vset (Vector.replicate 32 0) 0 0x10000) 5 0x10000000000000) 8 0x5000) 9 0
def good (ph : LaunchPhase) : Launch := { newLaunch 0 0 0 0 0x2000 goodWords with phase := ph }
def record : Mem := memWriteN (memWriteN tables 0x2000 ((List.range 32).flatMap (fun i => leBytes 8 (vget goodWords i 0).toNat))) 0x5000 []
def withLaunch (s : State) (l : Launch) : State := { s with launches := [l] }

theorem witness_Launching :
    (let s := queued Queue.empty
     s.power = .on ∧ s.ms.badSymbols = [] ∧ queueExists (s.vd 0) 0 = true ∧ ((s.vd 0).queue 0).kicks = []) ∧
    ([(0x2000, none), (0x4000, some 7)].all (fun p => let k : Kick := { addr := BitVec.ofNat 64 p.1, core := false, cycle := 0 }
      let s := withMem (queued { Queue.empty with kicks := [k] }) record
      queueExists (s.vd 0) 0 && ((s.vd 0).queue 0).kicks == [k] && decide (((s.vd 0).queue 0).pend.length < 64) && !isHeld s (.kickRead 0 0) && !hostWritesPending s 0 && !kicksRefused (s.vd 0) &&
        bits (BitVec.ofNat 64 p.1) 7 0 == 0 && (match devRead s .iod 0 p.1 256 with
          | .ok t m => s == t && recordCause (newLaunch s.nextId 0 0 0 (BitVec.ofNat 64 p.1) ((Vector.range 32).map (fun i => memWord m (8 * i)))) == p.2
          | _ => false))) = true ∧
    (let s := withLaunch (withMem (queued { Queue.empty with pend := [0] }) record) (good .pending)
     (headLaunch s 0 0).any (fun l => l == good .pending) = true ∧ s.launch? 0 = some (good .pending) ∧ depDue (good .pending) 0 = true ∧ isHeld s (.dependence 0 0 0) = false ∧ s.mg.plots = [] ∧
       (match devRead s .iod 0 ((good .pending).depAddr 0) 8 with
         | .ok t _ => s == t
         | _ => false) = true ∧ startable s (good .pending) = false ∧
       (let l := { good .pending with deps := Vector.replicate 4 true }
        let s := withLaunch s l
        (headLaunch s 0 0).any (fun x => x == l) = true ∧ s.launch? 0 = some l ∧ (s.vd 0).runs = true ∧ startable s l = true ∧ isHeld s (.mustOfLaunch 0) = false ∧ l.must = 0)) := by decide +kernel

/-- Tables that map the second gigabyte into a PCI Express window. -/
def farTables : Mem := [(0, 1), (1, 0x10), (0x1000, 0x72), (0x1008, 0x72), (0x100E, 0x08)]

def granted (s : State) (c : Cluster) : State := { s with clusters := [(0, { c with holder := some 0 })] }
def bin (held : Bool) : Bin := { vd := 0, lid := 0, entry := 0x40000, seeds := [seed], dueCyc := 0, held := held }

theorem witness_TeamsLive :
    (let s := granted (withLaunch (queued { Queue.empty with pend := [0] }) (good .started)) Cluster.idle
     s.power = .on ∧ (s.vd 0).runs = true ∧ (restoreBin s 0).isNone = true ∧ (match firstBy Cand.rank (candidates s 0) with
       | some (.fresh l) => l == good .started
       | _ => false) = true ∧ s.launch? 0 = some (good .started) ∧ (good .started).rbk = false ∧ chooseCluster s 0 kt = some 0) ∧
    ([false, true].all (fun h => [false, true].all (fun free => let s0 := granted (withLaunch (queued Queue.empty) (good .started)) { Cluster.idle with bins := [(2, bin h)] }
      let s := if free then s0 else { s0 with teams := [newTeam { kt with spawned := true, num := 1 } 0 0 1 0 [] 0] }
      (s.launch? 0).any (fun l => spawnFrameFree s l == free && look 2 (s.cluster 0).bins == some (bin h) && (s.cluster 0).preempting != some 0 && (s.cluster 0).spawners.isEmpty &&
        decide ((bin h).dueCyc ≤ (s.die 0).cyc) && (s.team? { kt with spawned := true }).isNone)))) = true ∧
    (let s := { granted (withLaunch (queued Queue.empty) (good .started)) Cluster.idle with teams := [{ newTeam kt 0 0 1 0 [] 0 with cluster := some 0 }] }
     (s.team? kt).any (fun t => t.cluster.isSome && !t.integrity) = true ∧ s.members kt = [] ∧ teamBusy s kt = false) ∧
    ([0, 0x5000].all (fun a => let l := { good .started with nextTeam := 1, doneTeams := 1 }
      let s := { withLaunch (withMem (queued { Queue.empty with qdonea := BitVec.ofNat 64 a }) tables) l with now := 9 }
      s.launch? 0 == some l && allDone s l && decide (l.maxTw + 4 ≤ s.now) && !aperturePending s 0 && !isHeld s (.completion 0) && s.ms.badSymbols.isEmpty && l.qdone.isNone &&
        bits ((s.vd 0).queue 0).qdonea 47 3 * 8 == a && (match Machine.translate s .iod 0 a .write with
          | .ok x => hbmDpa x.dpa && !x.repl && !endpointHeld s 0 x.dpa && !writeHolds s 0 x.dpa false && !s.poisoned x.dpa
          | .error _ => false))) = true ∧
    (let l := { good .started with nextTeam := 1, doneTeams := 1, qdone := some 0x40000000 }
     let s := { withLaunch (withMem (queued Queue.empty) farTables) l with now := 9 }
     s.launch? 0 = some l ∧ allDone s l = true ∧ (match Machine.translate s .iod 0 0x40000000 .write with
        | .ok x => !hbmDpa x.dpa && !endpointHeld s 0 x.dpa && (pcieDpa x.dpa || furrowDpa x.dpa) && apertureOk s 0 x.dpa .atomic
        | .error _ => false) = true) ∧
    ((withLaunch State.reset (good .counting)).launch? 0 = some (good .counting) ∧ (good .counting).maxTw ≤ State.reset.now ∧ State.reset.power = .on ∧
      State.reset.ms.badSymbols = [] ∧ State.reset.ms.outs = []) := by decide

/-- An entry image whose fields are in range: BSZ 31. -/
def img : List Word := List.replicate 17 0 ++ [31] ++ List.replicate 14 0
/-- The same with a guaranteed 49 clusters. -/
def badImg : List Word := List.replicate 32 0

theorem witness_DeviceLifecycle :
    (∀ st, st < 7 → inTurn (dev st id) 0 = true ∧ ((dev st id).vd 0).state = st ∧ (dev st id).mg.ready = true) ∧
    (let s := { State.reset with mg := { Mgmt.reset with mcqtail := 1 } }
     inTurn s 0 = true ∧ s.mg.ready = false) ∧
    img.length = 32 ∧ fieldsBad (dev 0 id) 0 (takeImage createMask img (freshDevice ((dev 0 id).vd 0))) = false ∧
    fieldsBad (dev 0 id) 0 (takeImage createMask badImg (freshDevice ((dev 0 id).vd 0))) = true ∧
    overGuaranteed (dev 1 id) 0 ((dev 1 id).vd 0) = false ∧
    (let d := ((dev 1 id).vd 0).setField 3 63 0 (2 ^ 48 + 49 + 49 * 2 ^ 8)
     overGuaranteed (dev 1 (fun _ => d)) 0 d = true) ∧
    stoppedAll (dev 2 id) 0 = true ∧ pullFailed (dev 2 id) 0 = false ∧
    (let e := takeImage (fun i => if bit (0x20 : Word) i then rwMask i else 0) img ((dev 1 id).vd 0)
     fieldsBad (dev 1 id) 0 e = false ∧ ((dev 1 id).vd 0).queues = [] ∧ bits (e.word 17) 5 0 = bits (((dev 1 id).vd 0).word 17) 5 0) ∧
    drainsStill (dev 4 id) 0 = false ∧
    (let s := { (dev 4 (fun d => { d with drainOn := [3] })).modMd 3 (fun m => { m with timeFaultSince := some 0 }) with now := 100000 }
     (s.vd 0).state = 4 ∧ (s.vd 0).drainFrom + 100000 ≤ s.now ∧ 3 ∈ (s.vd 0).drainOn ∧ (s.md 3).timeFaultSince.isSome = true) := by decide

theorem witness_Sharing :
    (let s := { granted (at_ (.add tR)) { Cluster.idle with preempting := some 0 } with cores := [] }
     s.power = .on ∧ (s.cluster 0).preempting = some 0 ∧ (s.cluster 0).saving = false ∧ quiet (stopSlots s 0 0) 0 0 = true ∧ (threadsOn s 0 0).length = 1 ∧
       (threadsOn s 0 0).all (fun t => s.thr? t.key == some t && (s.launch? t.key.team.lid).isSome) = true) ∧
    (let s := granted (at_ (.add tR)) { Cluster.idle with preempting := some 0, saving := true }
     s.power = .on ∧ (s.cluster 0).preempting = some 0 ∧ (s.cluster 0).saving = true ∧ s.ms.wbs = [] ∧ (s.vd 0).stopTo = none) ∧
    State.reset.now < State.reset.mg.boundary ∧
    (let d := { (at_ (.add tR)).vd 0 with w := vset (vset ((at_ (.add tR)).vd 0).w 3 (BitVec.ofNat 64 (2 ^ 56 + 255 * 2 ^ 48 + 20 * 2 ^ 8 + 4))) 17 31 }
     let s := { at_ (.add tR) with now := 250000, vds := [(0, d)], clusters := [], cores := [] }
     s.power = .on ∧ s.mg.boundary ≤ s.now ∧ 0 < s.mg.sliceNext ∧ contends s s.mg.boundary 0 = true ∧ d.minc = 4 ∧ d.maxc = 20 ∧ d.weight ≠ 0 ∧
       ∀ k, k < 8 → vget s.parts k { st := 0, rcnt := 0, failm := 0 } = { st := 0, rcnt := 0, failm := 0 } ∧ d.minc ≤ vget s.mg.widthsNext k 48 ∧ vget s.mg.widthsNext k 48 ≤ 48) := by decide

def rec_ (p : List Byte) (crc : Nat) : MigRecord := { kind := 1, gpa := 0x40000000, poison := false, payload := p, crc := crc }
/-- A destination of a migration: its entry says so; plots as given. -/
def dest (p : Plot) : State := withPlot (withMem (dev 6 (fun d => d.setField 0 12 11 3)) (tables3 0x100473)) p
/-- A plot still at the migration source, its pull asked for at time 0, with some attempts made. -/
def remotePlot (n : Nat) : Plot := { (plot 4).set 0 59 59 1 with attempts := n }

theorem witness_Migration :
    (∀ m, m < 4 → let s := dev 6 (fun d => d.setField 0 12 11 m)
      inTurn s 0 = true ∧ s.mg.ready = true ∧ s.ms.badSymbols = [] ∧ anyHolds s = false ∧ s.ms.poison = [] ∧ s.mg.inbox = [] ∧ (s.vd 0).state = 6 ∧ (s.vd 0).mph = m ∧ stoppedAll s 0 = true ∧ finalReady s 0 = true ∧ (s.vd 0).imported = []) ∧
    ((dev 2 id).vd 0).state = 2 ∧ bits (0 : Word) 63 62 < 2 ∧ 2 ≤ bits (0x8000000000000000 : Word) 63 62 ∧ Memory.wf (dev 2 id).ms.mem = true ∧
    (let e := takeImage createMask img (freshDevice ((dev 0 id).vd 0))
     fieldsBad (dev 0 id) 0 e = false ∧ overGuaranteed (dev 0 id) 0 e = false) ∧
    (((dest (plot 0)).vd 0).state = 6 ∧ ((dest (plot 0)).vd 0).mph = 3 ∧ (plotAt (dest (plot 0)) 0 0x40000000).any (fun p => p == (5, plot 0)) = true ∧
      look 5 (dest (plot 0)).mg.plots = some (plot 0) ∧ Memory.wf (dest (plot 0)).ms.mem = true ∧ ((dest (plot 0)).vd 0).retries = [] ∧ (dest (plot 0)).ms.badSymbols = [] ∧ (dest (plot 0)).mg.inbox = [] ∧
      recordHeld (dest (plot 0)) 0 (rec_ [] 0) = false) ∧
    ((remotePlot 0).state = 4 ∧ (remotePlot 0).remote = true ∧ (remotePlot 0).evq = false ∧ (remotePlot 0).requesters = [] ∧ (dest (remotePlot 0)).mg.bar2 = [] ∧
      (dest (remotePlot 0)).teams = [] ∧ (remotePlot 0).alloc = true ∧ frameHeld (dest (remotePlot 0)) (remotePlot 0).frame = false ∧ (dest (remotePlot 0)).ms.badSymbols = [] ∧ leavesHeld (dest (remotePlot 0)) (remotePlot 0) = false ∧
      vgensHeld (dest (remotePlot 0)) (pullerOf (remotePlot 0)) = false ∧
      (∀ m ∈ (remotePlot 0).mappers, m.2 + 128 ≤ (remotePlot 0).frame * 65536)) ∧
    (let s := { withPlot (withMem (dev 2 id) (tables3 0x100473)) (remotePlot 2) with now := 2000000 }
     s.mg.portsDown = [] ∧ s.mg.plots = [(5, remotePlot 2)] ∧ (remotePlot 2).mappers.any (fun m => m.1 = 0) = true ∧ (remotePlot 2).askedAt + 2000000 ≤ s.now ∧ (remotePlot 2).attempts = 2 ∧ (remotePlot 2).arrived = none ∧
       (remotePlot 1).attempts < 2 ∧ (s.vd 0).state = 2 ∧ (s.vd 0).stopTo = none ∧ stoppedAll s 0 = true ∧ (remotePlot 2).requesters = [] ∧ s.mg.bar2 = []) := by decide
/-- The records' checksums: one that is the payload's, and one that is not. -/
theorem records (p : List Byte) : (rec_ p (crc32c p)).crc = crc32c (rec_ p (crc32c p)).payload ∧ (rec_ p (crc32c p + 1)).crc ≠ crc32c (rec_ p (crc32c p + 1)).payload :=
  ⟨rfl, Nat.succ_ne_self _⟩
theorem witness_Migration_records : ∃ p : List Byte, p.length = 65536 ∧ (rec_ p (crc32c p)).crc = crc32c (rec_ p (crc32c p)).payload ∧
    (rec_ p (crc32c p + 1)).crc ≠ crc32c (rec_ p (crc32c p + 1)).payload := ⟨List.replicate 65536 0, List.length_replicate, records _⟩

theorem witness_SettingsAndClocks :
    (∀ k, k < 8 → guaranteed State.reset k ≤ vget State.reset.mg.widthsNext k 48) ∧
    (let s := dev 2 (fun d => d.setField 3 63 0 (2 ^ 48 + 40 + 40 * 2 ^ 8))
     (if 1 ≤ bits (1 : Word) 5 0 ∧ bits (1 : Word) 5 0 ≤ 48 then bits (1 : Word) 5 0 else 48) < guaranteed s 0) ∧
    10 < bits (11 : Word) 3 0 ∧ bits (3 : Word) 3 0 ≤ 10 ∧ (State.reset.die 0).hot = false ∧ (State.reset.die 0).busy = false ∧ bits (3 : Word) 3 0 ≠ (State.reset.die 0).fcur ∧ (State.reset.die 0).fcur ≠ 0 ∧
    [(false, none), (true, none), (true, some 4)].all (fun p => let s := { State.reset with dies := Vector.replicate 2 { Die.reset with busy := true, stopped := p.1, target := 3, heldStep := p.2 } }
      (s.die 0).busy && (s.die 0).stopped == p.1 && (s.die 0).heldStep == p.2 && (s.die 0).target == 3) = true := by decide

theorem witness_HostRegisters :
    homesOpen State.reset = true ∧ (State.reset.vd 0).state = 0 ∧ (let s := queued Queue.empty
      homesOpen s = true ∧ (s.vd 0).state ≠ 0 ∧ (s.vd 0).qcnt = 2) ∧ (∀ k, k < 8 → vget State.reset.mg.widthsNext k 48 < 64) ∧
    (let s := dev 2 (fun d => { d.setField 13 1 1 1 with cntsel := 16 })
     ((s.vd 0).word 13).getLsbD ((s.vd 0).cntsel.toNat / 16) = true ∧ (s.vd 0).cntsel.toNat / 16 < 63) ∧
    ((dev 2 id).vd 0).word 13 = 0 := by decide

/-- An endpoint table at 0x8000 whose entry 0 lets package 5's device 3 load, store and make atomics. -/
def endpoints : Mem := memWriteN tables 0x8000 (leBytes 8 (15 * 2 ^ 60 + 5 * 2 ^ 32 + 3 * 2 ^ 23))
def farReq (op : RemoteOp) : RemoteReq := { srcPkg := 5, srcVd := 3, vd := 0, gpa := 0x4000, op := op }
def out (r : Option Nat) (dpa : Nat) (posted : Bool) : OutReq :=
  { id := 4, req := r, op := none, fenceOf := none, launch := none, owners := [], thr := k0, vd := 0, gva := 0x4000, gpa := 0x4000, dpa := dpa, data := [], posted := posted, sentAt := 0, abandoned := false }

theorem witness_OutsideAccesses :
    (homesOpen State.reset = true ∧ (State.reset.vd 0).state = 0) ∧
    (let s := withMem (dev 2 id) tables
     homesOpen s = true ∧ (s.vd 0).state ≠ 0 ∧ s.mg.bar2 = [] ∧ (s.vd 0).dben = false ∧ s.ms.badSymbols = [] ∧ 0x4000 + 8 ≤ 2 ^ bits ((s.vd 0).word 17) 5 0 ∧ hostWritesPending s 0 = false ∧
       [Need.read, .write].all (fun n => match stage2 s 0 0x4000 n with
         | .ok l => hbmDpa l.addr && !l.repl && !homeHolds s l.addr && !anyPoison s l.addr 8 && l.addr == 0x4000
         | .error _ => false) = true) ∧
    (let s := withPlot (withMem (dev 2 id) (tables3 0x5003)) (plot 4)
     (match stage2 s 0 0x40000000 .read with
       | .error (.tier _ h) => h == 5
       | _ => false) = true ∧ look 5 s.mg.plots = some (plot 4) ∧ 0x40000000 + 8 ≤ 2 ^ bits ((s.vd 0).word 17) 5 0 ∧
     (let w : Bar2Wait := { id := 2, vd := 0, off := 0x40000000, len := 8, what := .read, since := 0, plot := some 5 }
      waitPlot { s with mg := { s.mg with bar2 := [w] } } w = some 5)) ∧
    (let s := withMem (dev 2 (fun d => d.setField 15 51 12 8)) endpoints
     [RemoteOp.load 8, .store [1, 2], .atomic 0 2 1 0 true].all (fun op => entryAdmits s (farReq op) (remoteKind op) 0 && decide (0x4000 % 64 + remoteLen op ≤ 64)) = true ∧
       (s.vd 0).dben = false ∧ (s.vd 0).state ∉ [0, 4, 5] ∧ s.ms.badSymbols = [] ∧ (∀ i, i < 32 → homeHolds s ((s.vd 0).fepbase + 256 * i) = false) ∧
       [Need.read, .write].all (fun n => match stage2 s 0 0x4000 n with
         | .ok l => hbmDpa l.addr && !l.repl && !homeHolds s l.addr && !anyPoison s l.addr 8
         | .error _ => false) = true) ∧
    (∀ e, e < 256 → entryAdmits (withMem (dev 2 (fun d => d.setField 15 51 12 8)) tables) (farReq (.load 8)) .load e = false) ∧
    ([out none 0x4000000000 true].find? (fun x => x.id = 4) = some (out none 0x4000000000 true) ∧ (at_ (.ld tM)).now = 0 ∧ (withReq (.ld tM) .performed).req? 0 = some (rq (.ld tM) .performed) ∧
      (rq (.ld tM) .performed).data.length = (rq (.ld tM) .performed).len ∧ (out (some 0) 0x4000000000 false).posted = false ∧ (out none 0x4000000000 true).launch = none ∧ the (at_ (.ld tM)) (fun t => t.st != .exited) = true) := by decide +kernel

/-- A device whose remapping entry 1 names vector 2 of virtual function 1, with SR-IOV and the function's MSI-X as given. -/
def remapped (on : Bool) (ctl : Nat) : State := let s := withMem (dev 2 (fun d => { d with w := vset d.w 14 0x9000 })) (memWriteN [] 0x9010 (leBytes 8 0x8000000000010002))
  { s with mg := { s.mg with vfEnable := on, numVfs := 1, msixCtl := [(1, ctl)] } }
theorem witness_Interrupts :
    (let s := remapped true 1; let e := s.dpaWord ((s.vd 0).irtbase + 16 * 1)
     bit e 63 = true ∧ bits e 26 16 = 1 ∧ bits e 10 0 = 2 ∧ ((s.vd 0).state ≠ 0 ∧ s.mg.vfEnable = true ∧ ¬ s.mg.numVfs < 1) ∧ s.mg.vectorOpen 1 2 = true) ∧
    (remapped true 1).ms.badSymbols = [] ∧ (remapped true 1).ms.poison = [] ∧ (remapped false 1).mg.vfEnable = false ∧ (remapped true 3).mg.vectorOpen 1 2 = false ∧ bit (State.reset.dpaWord 0x9010) 63 = false ∧
    ((remapped true 0).signal 0 1).mg.msixPend = [(1, 2)] ∧ homesOpen (remapped true 0) = true := by decide
theorem test_interrupt_posted : ((remapped true 1).signal 0 1).mg.msix = [(1, 2)] ∧ ((remapped false 1).signal 0 1).mg.msix = [] := by decide
theorem test_pending_posted : (match exec (.registerWrite (.msixCap 1) 0 0x80000000) ((remapped true 0).signal 0 1) with
    | .next s => s.mg.msix == [(1, 2)] && s.mg.msixPend == []
    | _ => false) = true := by decide

def bootImage : BootImage := { bytes := [], signature := [], key := [], version := 0, stages := [], failedClusters := [], cxlPorts := [], hostRanges := [], ecap := 500, badBanks := [] }

theorem witness_BootAndAttestation :
    State.reset.power = .on ∧ State.reset.mg.ready = false ∧ State.reset.mg.booterr = false ∧
    inTurn (dev 2 id) 0 = true ∧ (dev 2 id).mg.ready = true ∧ ([] : List Byte).length < 32 ∧ 32 ≤ (List.replicate 32 (0 : Byte)).length ∧
    (∀ m, m < 8 → (vget (dev 2 id).mg.measures m []).length = 32) := by decide

/-- The one team of a logging launch, its integrity lost: on a cluster, and off it with its snapshot. -/
def broken (c : Option Nat) : State := let s := { at_ (.add tR) with cores := [] }
  { s with teams := s.teams.map (fun t => { t with integrity := true, cluster := c, snap := some { nlog := 0, inel := false, rbn := 0, icnt := 0, logged := [], unformed := [] } }) }

theorem witness_ErrorsAndRollback :
    (withMsg .toHome).store? 0 = some (msg .toHome) ∧
    ((at_ (.add tR)).team? kt).any (fun t => !t.integrity) = true ∧
    (((broken (some 0)).team? kt).any (fun t => t.integrity && t.cluster == some 0) = true ∧ ((broken (some 0)).launch? 0).isSome = true ∧ (broken (some 0)).cores = [] ∧
      teamBusy (broken (some 0)) kt = false ∧ ∀ t ∈ (broken (some 0)).members kt, (broken (some 0)).thr? t.key = some t) ∧
    (((broken none).team? kt).any (fun t => t.integrity && t.cluster.isNone && t.snap.any (fun x => x.nlog == 0)) = true ∧ (broken none).ms.wbs = [] ∧ (broken none).ms.held = [] ∧ ((broken none).vd 0).dben = false ∧
      anyHolds (broken none) = false ∧ (broken none).power = .on ∧ (broken (some 0)).power = .on ∧ homesOpen (broken none) = true) := by decide

theorem witness_PartitionsAndLinks :
    homesOpen (dev 2 id) = true ∧ ((dev 2 id).part 3).st = 0 ∧ (∀ h ∈ (dev 2 id).ms.held, h.info.cause ≠ 0) ∧
    (let s := { State.reset with parts := vset State.reset.parts 3 { st := 1, rcnt := 0, failm := 0 } }
     homesOpen s = true ∧ (s.part 3).st = 1) ∧ (∀ p ∈ (dev 2 id).vds, holdsIn (dev 2 id) 3 p.1 = false) ∧
    (let s := { State.reset with parts := vset State.reset.parts 3 { st := 2, rcnt := 0, failm := 0 } }
     (s.part 3).st = 2) ∧
    (State.reset.md 3).timeFaultSince = none ∧ (State.reset.modMd 3 (fun m => { m with timeFaultSince := some 5 })).md 3 = { MemDie.reset with timeFaultSince := some 5 } ∧
    (0 < modulesOf 25 ∧ (25, 0) ∉ State.reset.mg.modulesOff) ∧ 7 ∉ State.reset.mg.portsDown ∧
    (let s := withMem (dev 2 (fun d => d.setField 15 51 12 8)) (memWriteN endpoints 0x8008 (leBytes 8 (3 * 2 ^ 40)))
     (s.vd 0).state ≠ 0 ∧ bit (endpointWords s 0 0).1 63 = true ∧ bits (endpointWords s 0 0).2 47 40 ≠ 0 ∧ s.now < 9) := by decide

/-- An item that was never started. -/
def empty0 : BankItem := { done := false, strt := false, vd := 0, order := 0, bytes := 0, base := 0, lrec := 0, doff := 0, crc := 0, didx := 0 }
/-- A package whose bank 0 has one item. -/
def banked (st : Nat) : State := { dev st id with banks := vset State.reset.banks 0 { Bank.empty with ver := 1, nitem := 1, items := [empty0] } }
theorem witness_HoldUp :
    (let s := { State.reset with power := .stopping 0, now := 20000 }
     s.power = .stopping 0 ∧ 0 + 20000 ≤ s.now ∧ onTheWay s = false ∧ s.armed = false ∧ s.ms.versions = [] ∧ s.ms.badSymbols = [] ∧ { s with now := 19999 }.now < 0 + 20000 ∧
       onTheWay { withMsg .toHome with power := .stopping 0, now := 20000 } = true) ∧
    (let s := { State.reset with power := .saving 0 20000 }
     s.power = .saving 0 20000 ∧ saveBank s = some 0 ∧ { s with power := .off }.power = .off ∧ s.power ≠ .on ∧ s.power ≠ .off) ∧
    (inTurn (dev 1 id) 0 = true ∧ (dev 1 id).mg.ready = true ∧ ((dev 2 id).vd 0).state ≠ 1 ∧ ((dev 2 id).vd 0).state ≠ 3 ∧ ((dev 1 id).bank 0).nitem ≤ 0) ∧
    (anyHolds (banked 1) = false ∧ ((banked 1).vd 0).state = 1 ∧ 0 < ((banked 1).bank 0).nitem ∧ ((banked 1).bank 0).bad = false ∧ ((banked 1).bank 0).items[0]? = some empty0 ∧
      ((banked 1).bank 0).itemState empty0 = (2, 0)) := by decide

/-- A bank sealed with a sequence number. -/
def sealed_ (n : Nat) : Bank := let b := { Bank.empty with ver := 1, seq := n, sealseq := n }
  { b with sealcrc := crc32c b.sealed }
theorem sealed_of (b : Bank) (c : Nat) : ({ b with sealcrc := c } : Bank).sealed = b.sealed := rfl
theorem isSealed_of (b : Bank) (h : b.ver = 1) (n : b.nitem = 0) (q : b.sealseq = b.seq) : ({ b with sealcrc := crc32c b.sealed } : Bank).isSealed = true := by
  have e := sealed_of b (crc32c b.sealed)
  unfold Bank.isSealed
  rw [e]
  simp [h, n, q]
theorem sealed_isSealed (n : Nat) : (sealed_ n).isSealed = true := isSealed_of _ rfl rfl rfl
theorem witness_ImageBanks_seals : (sealed_ 4).isSealed = true ∧ (sealed_ 5).isSealed = true ∧ (sealed_ 4).seq < (sealed_ 5).seq ∧ (sealed_ 4).bad = false ∧ Bank.empty.isSealed = false :=
  ⟨sealed_isSealed 4, sealed_isSealed 5, by decide, rfl, by decide⟩
theorem witness_ImageBanks : (let s := { State.reset with power := .stopping 0, now := 20000, armed := true, musts := [{ lid := 0, vd := 0, admitted := 0, items := [] }] }
    (s.bank 0).bad = false ∧ (s.bank 1).bad = false ∧ (s.bank 0).isSealed = false ∧ (s.bank 1).isSealed = false ∧ onTheWay s = false ∧ s.armed = true ∧ saveBank s = some 0) := by decide

theorem witness_ZeroSigns : (1 * 3 = 3 * 1) ∧ rnd fp32 .rne false 0 (.fin false 1 (2 ^ 200)) % fp32.signBit = 0 := by decide
theorem witness_RoundingAndSpecials : (fp32.value 0x3F800000).isFin = true ∧ fp32.value 0x7FC00000 = .nan ∧ fp32.value 0xFF800000 = .inf true ∧ fp32.value 0x7F800000 = .inf false ∧
    (∃ d, fp32.value 0x80000000 = .fin true 0 d) ∧ (∃ n d, n ≠ 0 ∧ fp32.value 0xBF800000 = .fin true n d) ∧ fp32.sp = .ieee :=
  ⟨by decide, by decide, by decide, by decide, ⟨_, rfl⟩, ⟨_, _, by decide, rfl⟩, rfl⟩

theorem witness_DecodeEncode : (encode (.add tR)).isSome = true ∧ (match decode ((encode (.add tR)).getD [] ++ [1]) with
    | .ok (i, rest) => i == .add tR && rest == [1]
    | _ => false) = true := by decide

/-- The group in core 0's issue slot, the core next: at an instruction, and at a word that is none. -/
def turn (w : Nat) : State := State.reset.withFetchWord 64 w
theorem witness_StepRunsDecoded :
    (let s := turn ((encodeWord (.add tR)).getD 0).toNat
     s.power = .on ∧ s.now < s.mg.boundary ∧ s.agenda = [.core 0] ∧ (s.die (dieOfCluster (clusterOfCore 0))).stopped = false ∧
       (s.core 0).slot.any (fun g => !mustStop { s with agenda := [], cur := 0 } 0 g && decodeWord (g.words.getD (g.pos + 1) 0) == some (.add tR)) = true) ∧
    (let s := turn 0
     (s.core 0).slot.any (fun g => !mustStop { s with agenda := [], cur := 0 } 0 g && (decodeWord (g.words.getD (g.pos + 1) 0)).isNone) = true ∧ (ctx? { s with agenda := [], cur := 0 }).isSome = true) ∧
    State.reset.power = .on ∧ boundaryDue State.reset = false ∧ State.reset.agenda = [] ∧
    boundaryDue { State.reset with agenda := [.wait 1] } = false ∧ boundaryDue { State.reset with now := 250000 } = true := by decide

/-- A version still to come, a watch record still to be posted, memory in its form; and a package without power, time passing. -/
def pending : State := { State.reset with agenda := [.wait 3], ms := { MemSys.reset with mem := [(7, 1)], versions := [{ tw := 9, cells := [(1, 1)], clusters := [], writer := none, clears := [] }] },
                                          mg := { Mgmt.reset with ringDue := [(9, 0, { w0 := 0, w1 := 0, w2 := 0, w3 := 0 })] } }
theorem witness_StepKeepsInv : (∀ v ∈ pending.ms.versions, pending.now < v.tw) ∧ (∀ r ∈ pending.mg.ringDue, pending.now ≤ r.1) ∧ (∃ t, step pending = .next t) :=
  ⟨by decide, by decide, ⟨_, rfl⟩⟩
theorem witness_MemoryStaysCanonical : Memory.wf pending.ms.mem = true ∧ (∃ t, step pending = .next t) := ⟨by decide, ⟨_, rfl⟩⟩
theorem witness_TimeNeverStepsBack : ∃ t, step pending = .next t := ⟨_, rfl⟩
theorem witness_NeverStops : pending.power ≠ .off ∧ (let s := { pending with power := .off }
    s.power = .off ∧ ∀ e, (nextSched s).1 ≠ .event (.supplyReturn e)) := ⟨by decide, rfl, fun _ h => by cases h⟩

/-- A state whose matrix engine is about to serve instruction i. -/
def served (i : Instr) (ws : List (Nat × Word)) (ints : Bool) : State :=
  let kinds := fun (s : State) => if ints then integers s else s
  (cycles (kinds (ran (exec i (kinds (atWith i ws id []))))) 100).modCluster 0 (fun c => { c with lastPass := 90 })
/-- The hypotheses that the statements about a pass and a drain share. -/
def onePass (s : State) (i : Instr) (p : EngOp → Bool) : Bool := match chooseEntry s 0 with
  | some o => o.i == i && s.ops == [o] && o.lanes == [0] && decide (o.quarter < 4) && !isStart s 0 && !s.upsets.any (·.strikes 0) && p o &&
      (match s.team? o.team with
        | some tm => Memory.wf tm.acc && Memory.wf tm.tiles
        | none => false)
  | none => false
def xF16 : FX := { tX with sub := 4, d := 0, c := 0 }
def xBs4 : FX := { tX with sub := 1, d := 0, c := 20 }
def xF64 : FX := { tX with sub := 7, d := 0, c := 0 }
def xTern : FX := { tX with sub := 6, d := 0, c := 0, slb := 1 }

theorem witness_PassValues : ([(xF16, [(16, (2 : Word))], false), (xBs4, [(16, 0x126)], false), (xF64, [], false), (xMma, int8Slots, true), (xTern, [(16, 7), (18, 8)], true)].all (fun p =>
    let f := p.1
    let s := served (.mma f) p.2.1 p.2.2
    onePass s (.mma f) (fun o => pairOf (opSlot s o f.sla.toNat) (opSlot s o f.slb.toNat) == some f.sub.toNat &&
      (accsOf f.sub.toNat f.d.toNat).all (fun a => decide (a < 16))))) = true := by decide

theorem witness_DrainValues : ([(Instr.adrn tXd, tXd), (.abyp tXd, tXd), (.ast { tXd with sp := true }, { tXd with sp := true })].all (fun p =>
    let f := p.2
    let s := served p.1 [(16, 7)] true
    onePass s p.1 (fun o => pairOf (opSlot s o f.sla.toNat) (opSlot s o f.slb.toNat) == some 5 && tyOfCode f.b.toNat == some .s8 &&
      decide (f.a.toNat + 8 / 2 ≤ 64) && decide (f.a.toNat + o.quarter < 32) && decide (2 * 8 * (f.c.toNat + 1) ≤ 64) &&
      (s.thr? { team := o.team, tid := 0 }).any (fun t => t.st != .exited)))) = true := by decide
/-- Writes to the scratchpad meet what the statements ask of a run of writes, and reads what they ask of a run of reads. -/
theorem scratch_writes (s : State) (o : EngOp) (a : Nat → Nat) (b : Nat → List Byte) : ∃ st : Nat → State, st 0 = s ∧
    ∀ i, engWrite (st i) o true (a i) (b i) = (st (i + 1), none) :=
  ⟨fun n => Nat.rec s (fun i t => (engWrite t o true (a i) (b i)).1) n, rfl, fun _ => rfl⟩
theorem scratch_reads (s : State) (o : EngOp) (a n : Nat → Nat) : ∃ (st : Nat → State) (bs : Nat → List Byte), st 0 = s ∧
    ∀ i, engRead (st i) o true (a i) (n i) = (st (i + 1), .ok (bs i)) := ⟨fun _ => s, _, rfl, fun _ => rfl⟩

theorem witness_TileMoves : ([Instr.tld { tX with sp := true }, .tst { tX with sp := true }].all (fun i =>
    let s := cycles (ran (exec i (atWith i int8Slots id []))) 1
    match nextServed s 0 .tile with
      | some o => o.i == i && (opSlot s o 0).kind == .int8 && (s.team? o.team).any (fun tm => Memory.wf tm.tiles)
      | none => false)) = true := by decide

def cpyOf (sub : BitVec 3) : FM := { tM with sub := sub, off := 0, d := 6, a := 4, b := 8, sp := true, cnt := 4 }
theorem witness_CopyChunks : ([(0, (64 : Word), (0 : Word)), (1, 0x200000040, 0x4000000040), (2, 0x200000008, 0x100), (3, 0x200000008, 0x100)].all (fun p =>
    let f := cpyOf p.1
    let s := cycles (ran (exec (.cpy f) (atWith (.cpy f) [] (fun t => { t with v := vset (vset (vset t.v 8 p.2.1) 9 p.2.2) 6 256 }) tables))) 1
    match nextServed s 0 .copy with
      | some o => o.i == .cpy f && o.vals == [256, 0, p.2.1.toNat, if p.1 = 0 then 0 else p.2.2.toNat] && o.prog == 0 && (s.launch? o.team.lid).isSome
      | none => false)) = true := by decide
theorem witness_CopyChunks_moves (s : State) (o : EngOp) : ∃ t, MovesRun s o true true 0 0x1000 64 s t := by
  refine ⟨(engWrite s o true 0x1000 (scrRead s o.team 0 64)).1, ⟨by omega, by omega, by omega, fun n => if n = 0 then s else (engWrite s o true 0x1000 (scrRead s o.team 0 64)).1,
    fun _ => s, fun _ => scrRead s o.team 0 64, rfl, rfl, fun i hi => ?_⟩⟩
  obtain rfl : i = 0 := by omega
  exact ⟨⟨rfl, rfl, rfl⟩, rfl⟩

theorem witness_ScanResults :
    (let f : FH := { tH with c := 3, a := 2, b := 1, d := 8, sp := true }
     let s := cycles (ran (exec (.hscan f) (atWith (.hscan f) [] (fun t => { t with v := vset t.v 3 1 }) []))) 1
     match nextServed s 0 .copy with
      | some o => o.i == .hscan f && o.prog == 0 && o.best == [] && (s.team? o.team).any (fun tm => Memory.wf tm.hv)
      | none => false) = true := by decide
theorem witness_NearestK : NearestK (fun _ => 0) 0 3 [] := ⟨rfl, by simp, .nil, by simp⟩

/-- A piece of a run in memory below page tables: mapped to HBM, sound and written. -/
theorem witness_EnginePaths :
    (let f := cpyOf 0
     let s := cycles (ran (exec (.cpy f) (atWith (.cpy f) [] (fun t => { t with v := vset (vset t.v 8 64) 6 256 }) tables))) 1
     match nextServed s 0 .copy with
      | some o => [false, true].all (fun wr => match engLocate (engWay s o 0x4000 wr) o 0x4000 wr with
          | .ok x => !apertureDpa x.dpa && !x.repl && !anyPoison s (servedDpa (dieOfCluster o.cluster) x.dpa x.repl) 64
          | .error _ => false) && s.ms.badSymbols.isEmpty && s.ms.poison.isEmpty && (s.team? o.team).any (fun tm => Memory.wf tm.scr)
      | none => false) = true := by decide

theorem witness_HypervectorMoves :
    ([Instr.hld { tH with sp := true }, .hst { tH with d := 0, sp := true }, .hams { tH with d := 0 }, .hnearK { tH with sub := 1, d := 8 }].all (fun i =>
      let s := cycles (ran (exec i (at_ i))) 1
      match nextServed s 0 .hyper with
      | some o => o.i == i && decide (o.vals.getD 0 0 < 256) && decide o.lanes.Nodup && (s.team? o.team).any (fun tm => Memory.wf tm.hv && Memory.wf tm.ms) &&
          s.threads.any (fun t => t.key.team == o.team && o.lanes.contains t.key.tid && t.st != .exited)
      | none => false)) = true := by decide
/-- Two members who wait at a payload, of a reduction that adds and of a scan. -/
def delivering (scan : Bool) : State :=
  let s := at_ (.barRed tR1)
  let w : BarWait := { bar := 0, payload := true, d := 8, a := 1, guardBits := 255, second := false, count := 1 }
  let t := fun (n : Nat) => { placedThread with key := { team := kt, tid := n }, st := .barrierWait, barrier := some w, arrv := 1 }
  { s with cores := [], threads := [t 0, t 1], teams := s.teams.map (fun tm => { tm with bars := vset tm.bars 0 { count := 2, phase := false, tag := BitVec.ofNat 16 (payloadTag tR1 scan) }, met := 1 }) }
theorem witness_PayloadDelivered : ([false, true].all (fun scan => let s := delivering scan
    let p := readTag (barOf s kt 0).tag
    phaseReady s kt 0 && (barOf s kt 0).tag != 0 && p.op == 0 && p.scan == scan && !isFloat p.ty && (s.members kt).length == 2 &&
      (s.members kt).all (fun t => !isSecond t && (memberUpsets s (coreOf t) t.key.tid).isEmpty && s.thr? t.key == some t) &&
      (s.members kt).map (·.key.tid) == [0, 1])) = true := by decide

/-- Threads 0 and 1, ready since two moments, at the one clause of `standing`, free or aligned. -/
def alignedClause : List Word := [0xC000000040000000, (encodeWord (.add tR)).getD 0]
def pair_ (clause : List Word) (f : Thread → Thread) : State :=
  let s := standing (fun t => { t with since := some 7 })
  let u := { placedThread with key := { team := kt, tid := 1 }, since := some 5 }
  { s with threads := s.threads ++ [f u], ms := { s.ms with mem := memWriteN tables 0x10000 (clause.flatMap (fun w => leBytes 8 w.toNat)) } }
theorem witness_GroupsOfMany :
    ([(addClause, false), (alignedClause, true)].all (fun p => let s := pair_ p.1 id
      let h := p.1.getD 0 0
      (s.core 0).slot.isNone && s.threads.length == 2 && s.ms.badSymbols.isEmpty && (hAlign h != 0) == p.2 && hCount h == 1 &&
        s.threads.all (fun t => t.key.team == kt && t.vd == 0 && coreOf t == 0 && t.pc == 0x10000 && t.cpos == 0 && !t.repActive && !t.detached && t.st == .runnable &&
          Machine.ready s t && t.since.isSome && t.aged.isNone && !clauseBad (slotsOf s t) p.1 && (lineMask (slotsOf s t) p.1).all (fun n => decide (n ≤ t.budget) && lineHeld t n)) &&
        (match fetchClause s 0 0 0x10000 with
          | .ok ws => ws == p.1
          | _ => false))) = true ∧
    (let s := pair_ alignedClause (fun u => { u with st := .halted })
     (match s.threads with
      | [t, u] => t.key != u.key && (s.core (coreOf t)).slot.isNone && Machine.ready s t && !t.detached && !u.detached && u.st != .exited && !candidate s u && t.aged.isNone &&
          t.key.tid / setSize (hAlign (alignedClause.getD 0 0)) == u.key.tid / setSize (hAlign (alignedClause.getD 0 0))
      | _ => false) = true) := by decide

/-- A register tail whose released record's sector is held by a home in time fault; a movt after a later core's. -/
theorem witness_Held : (let s0 := parked 0x30 (some 0)
     let s := { (s0.modMd 0 (fun m => { m with timeFaultSince := some 0 })) with ms := { s0.ms with mem := tables } }
     let d := s.vd 0
     let new := BitVec.ofNat 32 (bits (1 : Word) 31 0)
     d.state ≠ 0 ∧ (new - d.fqtail).toNat ≤ (d.fqhead - d.fqtail).toNat ∧ (releasedBy s 0 new).any (fun p => abtHeld s 0 p.2) = true) ∧
    (let f := { tS with a := 5, code := 0x11 }
     let s0 := at_ (.movt f)
     let s := { s0 with vds := s0.vds.map (fun p => (p.1, { p.2 with lastMovt := [(9, (0, 3))] })) }
     ready s (fun cx => .movt (cx.fs f)) gOn (fun cx _ => laterMovt s cx (offsetWord cx 0x11)) = true) := by decide

/-- Number rules: codes of the kinds their cases name. -/
theorem witness_ComparisonLaws : fp16.value 0x7E00 = .nan ∧ fp16.value 0xFC00 = .inf true ∧ isFloat .f16 = true ∧ (∃ d, fp16.value 0x8000 = .fin true 0 d) ∧
    (∃ n d, n ≠ 0 ∧ fp16.value 0x3C00 = .fin false n d) := ⟨by decide, by decide, by decide, ⟨_, rfl⟩, ⟨_, _, by decide, rfl⟩⟩
theorem witness_FunctionLaws : fp16.value 0x3C00 = .fin false 1024 1024 ∧ fp16.value 0x7C00 = .inf false ∧ 0x3C00 < 2 ^ tyW .f16 := by decide
theorem witness_ConversionLaws : isFloat .f16 = true ∧ isFloat .s8 = false ∧ intVal .s8 0x80 = -128 ∧ fp16.value 0x7E00 = .nan ∧ fp16.value 0xFC00 = .inf true := by decide
theorem witness_QuantisationLaws :
    (let ys : List (XVal × Nat) := [(.fin true 3 1, 0), (.fin false 0 1, 5)]
     (∀ y ∈ ys, y.2 < 2 ^ 16) ∧ (∀ y ∈ ys, y.1.isFin = true) ∧ ([(XVal.nan, 0)] : List (XVal × Nat)).any (fun y => !y.1.isFin) = true) ∧
    (let x : Slot := { w0 := 0x126, w1 := 0 }
     x.kind = .bs4 ∧ x.ts = .fin false 1 1 ∧ x.xform = 0) ∧
    ({ w0 := 7, w1 := 0 } : Slot).kind = .int8 ∧ ({ w0 := 7 + 2 * 2 ^ 26, w1 := 1 } : Slot).xform = 2 ∧ ({ w0 := 4 + 2 ^ 26, w1 := 0 } : Slot).xform = 1 ∧
    e8m0 255 = .nan ∧ e5m2.value 0x7C = .inf false ∧ (∃ d, e5m2.value 0 = .fin false 0 d) :=
  ⟨by decide, by decide, by decide, by decide, by decide, by decide, by decide, ⟨_, rfl⟩⟩
/-- A lane that sends to an index, and an index no lane sends to (bperm). -/
theorem witness_Bperm : (let s := at_ (.bperm tR)
    ready s (fun cx => .bperm (cx.fr tR)) gOn (fun cx t => let e := cx.fr tR
      (lanePeer s t 8 0).any (fun p => enabledAt p gOn (tyK e.ty) 0 && Machine.sub (tyW e.ty) (operandB s 8 e false p) 0 == 0 && Machine.sub (tyW e.ty) (operandB s 8 e false p) 0 != 9))) = true := by decide

end Sys2Proof.Tests
end

section
/-!
PROOFS. A full completion flag holds its instruction back (R80).
-/

namespace Sys2Proof.Machine

/-- A member has room on the flag an instruction counts just when its count is at most 14 (R80). -/
theorem flagRoom_iff {h : Word} {i : Instr} {n : Nat} {t : Thread} (hn : flagOfInstr h i = some n) :
    flagRoom (flagOfInstr h i) t = true ↔ t.flag n ≤ 14 := by
  rw [hn]
  exact decide_eq_true_iff.trans Nat.lt_succ_iff

/-- With no room on the flag in one member, an instruction that passes every earlier rule of issue leaves the state as it was (R80). -/
theorem issue_full {s : State} {cx : Ctx} {eff : Ctx → Instr} {body : Ctx → State} {t : Thread} (hg : ctx? s = some cx)
    (hl : legal (eff cx) = true) (hs : slotIllegal cx (eff cx) = false) (ha : needsAligned (eff cx) = true → cx.a ≠ 0)
    (hu : ∀ t ∈ cx.ts, fenceHolds (eff cx) t = false) (ht : t ∈ cx.ts) (hr : flagRoom (flagOfInstr cx.hdr (eff cx)) t ≠ true) :
    issue s eff body = .next s := by
  have aligned : ¬ (needsAligned (eff cx) && decide (cx.a = 0)) = true := by simpa using ha
  have unfenced : ¬ cx.ts.any (fenceHolds (eff cx)) = true := by simpa using hu
  have full : ¬ cx.ts.all (flagRoom (flagOfInstr cx.hdr (eff cx))) = true := fun h => hr (List.all_eq_true.1 h t ht)
  simp only [issue, hg, hl, hs, aligned, unfenced, full, Bool.not_true, Bool.or_self,
    Bool.false_eq_true, Bool.not_false, ↓reduceIte]

/-- The memory and copy instructions go through `issue`, each as this repeat names it. -/
theorem exec_memory_issue : ∀ mk ∈ [Instr.ld, .st, .ldu, .atom, .atomFadd, .red, .cpy], ∀ f s,
    ∃ body, exec (mk f) s = issue s (fun cx => mk (cx.fm f)) body := by
  simp only [List.forall_mem_cons, List.not_mem_nil, false_imp_iff, implies_true, and_true]
  and_intros <;> exact fun _ _ => ⟨_, rfl⟩

/-- The tile and matrix instructions go through `issue`, each as this repeat names it. -/
theorem exec_tile_issue : ∀ mk ∈ [Instr.tld, .tst, .acl, .mma, .adrn, .abyp, .ast], ∀ f s,
    ∃ body, exec (mk f) s = issue s (fun cx => mk (cx.fx f)) body := by
  simp only [List.forall_mem_cons, List.not_mem_nil, false_imp_iff, implies_true, and_true]
  and_intros <;> exact fun _ _ => ⟨_, rfl⟩

/-- The hypervector instructions go through `issue`, each as this repeat names it. -/
theorem exec_hypervector_issue : ∀ mk ∈ [Instr.hld, .hst, .hclr, .hbind, .hperm, .hbun, .hmaj, .hdist, .hpop, .hams, .hnear, .hnearK,
    .hscan], ∀ f s, ∃ body, exec (mk f) s = issue s (fun cx => mk (cx.fh f)) body := by
  simp only [List.forall_mem_cons, List.not_mem_nil, false_imp_iff, implies_true, and_true]
  and_intros <;> exact fun _ _ => ⟨_, rfl⟩

/-- An instruction that goes through `issue` and would pass a count of 15 in a member stalls in place (R80). -/
theorem exec_stalls_of_full {i : Instr} {s : State} {cx : Ctx} {eff : Ctx → Instr} (hi : ∃ body, exec i s = issue s eff body)
    (hg : ctx? s = some cx) (hl : legal (eff cx) = true) (hs : slotIllegal cx (eff cx) = false)
    (ha : needsAligned (eff cx) = true → cx.a ≠ 0) (hu : ∀ t ∈ cx.ts, fenceHolds (eff cx) t = false) (n : Nat)
    (hn : flagOfInstr cx.hdr (eff cx) = some n) (t : Thread) (ht : t ∈ cx.ts) (hc : 15 < t.flag n + 1) : exec i s = .next s := by
  obtain ⟨body, hb⟩ := hi
  have full : flagRoom (flagOfInstr cx.hdr (eff cx)) t ≠ true := fun h => by
    have := (flagRoom_iff hn).1 h
    omega
  exact hb.trans (issue_full hg hl hs ha hu ht full)

/-- Settles O27: each of these instructions goes through `issue`, whose last rule before the effect is that of a full flag. -/
theorem fullFlagStalls : Obligations.FullFlagStalls :=
  ⟨fun mk hmk _ _ f => exec_stalls_of_full (exec_memory_issue mk hmk f _),
    fun mk hmk _ _ f => exec_stalls_of_full (exec_tile_issue mk hmk f _),
    fun mk hmk _ _ f => exec_stalls_of_full (exec_hypervector_issue mk hmk f _),
    fun _ _ _ _ hn => flagRoom_iff hn⟩

end Sys2Proof.Machine
end

section
/-!
PROOFS. The signs of zero results (R91).
-/

namespace Sys2Proof.Machine

/-- Below the sign bit, a code's magnitude is what stood under the sign. -/
theorem withSign_mod_signBit {f : Fmt} {mag : Nat} (neg : Bool) (h : mag < f.signBit) : f.withSign neg mag % f.signBit = mag := by
  cases neg <;> simp [Fmt.withSign, Nat.mod_eq_of_lt h]

/-- RND of a zero is the zero of its sign, in every format and mode. -/
@[simp] theorem rnd_fin_zero (f : Fmt) (mode : Rnd) (sat : Bool) (r : Nat) (neg : Bool) (den : Nat) :
    rnd f mode sat r (.fin neg 0 den) = f.withSign neg 0 := rfl

/-- RND of a finite number that is not zero is a finite magnitude under the number's sign, or what OVF gives (R93). -/
theorem rnd_fin_cases (f : Fmt) (mode : Rnd) (sat : Bool) (r : Nat) (neg : Bool) {num : Nat} (den : Nat) (hn : num ≠ 0) :
    rnd f mode sat r (.fin neg num den) = f.ovf neg mode sat ∨
      ∃ mag ≤ f.maxCode, rnd f mode sat r (.fin neg num den) = f.withSign neg mag := by
  simp only [rnd, if_neg hn]
  exact (Nat.lt_or_ge f.maxCode _).imp (if_pos ·) fun fits => ⟨_, fits, if_neg fits.not_gt⟩

/-- OVF gives the largest finite magnitude or infinity under the value's sign, or the NaN of E4M3 (R93). -/
theorem ovf_cases (f : Fmt) (neg : Bool) (mode : Rnd) (sat : Bool) :
    f.ovf neg mode sat = f.withSign neg f.maxCode ∨
      (f.sp = .ieee ∧ f.ovf neg mode sat = f.withSign neg (f.eOnes * 2 ^ f.p)) ∨
      (f.sp = .e4m3 ∧ f.ovf neg mode sat = f.nanCode) := by
  cases hsp : f.sp <;> cases sat <;> cases mode <;> cases neg <;> simp [Fmt.ovf, hsp]

/-- In the formats of R83 the largest finite magnitude, infinity and the NaN of E4M3 are not 0, and stand below the sign bit. -/
theorem overflow_codes : ∀ f ∈ [fp64, fp32, fp16, bf16, e4m3, e5m2, e2m1, fa40],
    (0 < f.maxCode ∧ f.maxCode < f.signBit) ∧
      (f.sp = .ieee → 0 < f.eOnes * 2 ^ f.p ∧ f.eOnes * 2 ^ f.p < f.signBit) ∧
      (f.sp = .e4m3 → 0 < f.nanCode ∧ f.nanCode < f.signBit) := by decide

/-- No overflow looks like a zero: OVF's magnitude is not 0 in any format of R83. -/
theorem ovf_mod_signBit_ne_zero {f : Fmt} (hf : f ∈ [fp64, fp32, fp16, bf16, e4m3, e5m2, e2m1, fa40]) (neg : Bool) (mode : Rnd)
    (sat : Bool) : f.ovf neg mode sat % f.signBit ≠ 0 := by
  obtain ⟨⟨max_pos, max_lt⟩, inf_bounds, nan_bounds⟩ := overflow_codes f hf
  obtain ho | ⟨hsp, ho⟩ | ⟨hsp, ho⟩ := ovf_cases f neg mode sat
  · rw [ho, withSign_mod_signBit neg max_lt]
    exact max_pos.ne'
  · obtain ⟨inf_pos, inf_lt⟩ := inf_bounds hsp
    rw [ho, withSign_mod_signBit neg inf_lt]
    exact inf_pos.ne'
  · obtain ⟨nan_pos, nan_lt⟩ := nan_bounds hsp
    rw [ho, Nat.mod_eq_of_lt nan_lt]
    exact nan_pos.ne'

/-- A finite number whose RND has magnitude 0 gives the zero of its own sign (R91). -/
theorem rnd_fin_of_mod_eq_zero {f : Fmt} (hf : f ∈ [fp64, fp32, fp16, bf16, e4m3, e5m2, e2m1, fa40]) {mode : Rnd} {sat : Bool}
    {r : Nat} {neg : Bool} {num den : Nat} (hz : rnd f mode sat r (.fin neg num den) % f.signBit = 0) :
    rnd f mode sat r (.fin neg num den) = f.withSign neg 0 := by
  by_cases hn : num = 0
  · rw [hn, rnd_fin_zero]
  obtain overflows | ⟨mag, hmag, finite⟩ := rnd_fin_cases f mode sat r neg den hn
  · exact absurd (overflows ▸ hz) (ovf_mod_signBit_ne_zero hf neg mode sat)
  · have ⟨⟨_, max_lt⟩, _⟩ := overflow_codes f hf
    have mag_zero : mag = 0 := by rwa [finite, withSign_mod_signBit neg (hmag.trans_lt max_lt)] at hz
    rw [finite, mag_zero]

/-- Numbers of one magnitude and opposite sign cancel to the zero whose sign the mode chooses (R91). -/
theorem xadd_cancel (rd neg : Bool) {a b m n : Nat} (h : a * n = m * b) :
    xadd rd (.fin neg a b) (.fin (!neg) m n) = .fin rd 0 1 := by
  simp [xadd, h]

/-- Two zeros of one sign sum to a zero of it (R91). -/
theorem xadd_zero_zero (rd neg : Bool) (b n : Nat) : xadd rd (.fin neg 0 b) (.fin neg 0 n) = .fin neg 0 (b * n) := by
  simp [xadd]

/-- Settles O16: the exact sum chooses the sign of a zero, RND keeps it, and neither an overflow nor a magnitude that is not 0 is a zero. -/
theorem zeroSigns : Obligations.ZeroSigns := by
  refine ⟨fun f mode sat r neg a b m n h => ?cancel, fun rd neg b n => ⟨b * n, xadd_zero_zero rd neg b n⟩,
    fun f hf mode sat r neg num den _ => rnd_fin_of_mod_eq_zero hf⟩
  case cancel => rw [xadd_cancel _ neg h, rnd_fin_zero]

end Sys2Proof.Machine
end

section
/-!
PROOFS. Bit fields (R168).
-/

namespace Sys2Proof.Machine

/-! Bit patterns. -/

theorem testBit_of_le {n x j : Nat} (hx : x < 2 ^ n) (hj : n ≤ j) : x.testBit j = false :=
  Nat.testBit_lt_two_pow (hx.trans_le (Nat.pow_le_pow_right two_pos hj))

theorem bitsOf_lt (n : Nat) (f : Nat → Bool) : bitsOf n f < 2 ^ n := by
  simpa [bitsOf] using joinW_lt 1 ((List.range n).map (fun j => if f j then 1 else 0))

/-- A pattern below 2^n is the number of its bits. -/
theorem eq_bitsOf {n x : Nat} {f : Nat → Bool} (hx : x < 2 ^ n) (h : ∀ j < n, x.testBit j = f j) : x = bitsOf n f := by
  refine Nat.eq_of_testBit_eq fun j => ?_
  obtain hj | hj := Nat.lt_or_ge j n
  · rw [testBit_bitsOf n f j hj, h j hj]
  · rw [testBit_of_le hx hj, testBit_of_le (bitsOf_lt n f) hj]

/-- The signed reading of a pattern is that of the bit vector it stands for. -/
theorem sgn_eq_toInt (w x : Nat) : sgn w x = (BitVec.ofNat w x).toInt := by
  have top : x % 2 ^ w < 2 ^ (w - 1) ↔ 2 * (x % 2 ^ w) < 2 ^ w := by
    cases w with
    | zero => simp [Nat.mod_one]
    | succ n =>
      rw [Nat.add_sub_cancel, Nat.pow_succ]
      omega
  simp [sgn, BitVec.toInt_eq_toNat_cond, top]

/-- WRAP is the bit vector of an integer. -/
theorem wrapW_eq_toNat (w : Nat) (x : Int) : wrapW w x = (BitVec.ofInt w x).toNat := by
  simp [wrapW, BitVec.toNat_ofInt]

theorem rawA_lt (s : State) (e : FR) (t : Thread) (i : Nat) : rawA s e t i < 2 ^ tyW e.ty := Nat.mod_lt _ (by positivity)

/-! bfe, bit by bit. -/

/-- The position and the width of the field that B names. -/
def fieldPos (b : Nat) : Nat := b % 256
def fieldWidth (t : Ty) (b : Nat) : Nat := min (b / 256 % 256) (tyW t)

/-- Bit n of A extended above bit w − 1, with its sign bit or with zeros. -/
def extBit (t : Ty) (a n : Nat) : Bool := if n < tyW t then a.testBit n else isSint t && a.testBit (tyW t - 1)

/-- Bit j of bfe: of the field, and above it of the field's extension. -/
def fieldBit (t : Ty) (a b j : Nat) : Bool :=
  if j < fieldWidth t b then extBit t a (fieldPos b + j)
  else decide (0 < fieldWidth t b) && isSint t && extBit t a (fieldPos b + fieldWidth t b - 1)

theorem extractField_empty {t : Ty} {b : Nat} (a : Nat) (hw : fieldWidth t b = 0) : extractField t a b = 0 := if_pos hw

/-- bfe of an unsigned type: the bits of A from the position on, cut to the width. -/
theorem extractField_unsigned {t : Ty} (a b : Nat) (ht : isSint t = false) :
    extractField t a b = a / 2 ^ fieldPos b % 2 ^ fieldWidth t b := by
  by_cases hw : fieldWidth t b = 0
  · rw [extractField_empty a hw, hw, Nat.pow_zero, Nat.mod_one]
  · refine (if_neg hw).trans ?_
    simp only [ht]
    exact Int.toNat_natCast _

/-- bfe of a signed type: A shifted down with sign fill, cut to the width and extended from it. -/
theorem extractField_signed {t : Ty} (a : Nat) {b : Nat} (ht : isSint t = true) (hw : fieldWidth t b ≠ 0) :
    extractField t a b =
      ((((BitVec.ofNat (tyW t) a).sshiftRight (fieldPos b)).signExtend (fieldWidth t b)).signExtend (tyW t)).toNat := by
  have field : (sgn (tyW t) a / 2 ^ fieldPos b % 2 ^ fieldWidth t b).toNat =
      (((BitVec.ofNat (tyW t) a).sshiftRight (fieldPos b)).signExtend (fieldWidth t b)).toNat := by
    rw [BitVec.signExtend, BitVec.toInt_sshiftRight, Int.shiftRight_eq_div_pow, ← sgn_eq_toInt, BitVec.toNat_ofInt]
    push_cast
    rfl
  refine (if_neg hw).trans ?_
  simp only [ht, if_true]
  refine (congrArg (fun x => wrapW (tyW t) (sgn (fieldWidth t b) x)) field).trans ?_
  rw [sgn_eq_toInt, wrapW_eq_toNat, BitVec.ofNat_toNat, BitVec.setWidth_eq]
  rfl

/-- Below its width, a signed field's bits are those of A extended. -/
theorem getLsbD_signedField {t : Ty} (a p : Nat) {v j : Nat} (ht : isSint t = true) (hv : v ≤ tyW t) (hj : j < v) :
    (((BitVec.ofNat (tyW t) a).sshiftRight p).signExtend v).getLsbD j = extBit t a (p + j) := by
  have pos : 0 < tyW t := by omega
  have inside : j < tyW t := by omega
  simp only [BitVec.getLsbD_signExtend, BitVec.getLsbD_sshiftRight, BitVec.msb_eq_getLsbD_last, BitVec.getLsbD_ofNat, extBit, ht]
  by_cases hp : p + j < tyW t
  · simp [hj, inside, hp]
  · simp [hj, inside, hp, pos]

theorem testBit_extractField_unsigned {t : Ty} {a : Nat} (b j : Nat) (ha : a < 2 ^ tyW t) (ht : isSint t = false) :
    (extractField t a b).testBit j = fieldBit t a b j := by
  rw [extractField_unsigned a b ht, Nat.testBit_mod_two_pow, Nat.testBit_div_two_pow, Nat.add_comm j]
  by_cases hp : fieldPos b + j < tyW t
  · simp [fieldBit, extBit, ht, hp]
  · simp [fieldBit, extBit, ht, hp, testBit_of_le ha (not_lt.1 hp)]

theorem testBit_extractField_signed {t : Ty} (a : Nat) {b j : Nat} (ht : isSint t = true) (hj : j < tyW t) :
    (extractField t a b).testBit j = fieldBit t a b j := by
  by_cases hw : fieldWidth t b = 0
  · simp [extractField_empty a hw, fieldBit, hw]
  have le : fieldWidth t b ≤ tyW t := Nat.min_le_right ..
  rw [extractField_signed a ht hw, BitVec.testBit_toNat, BitVec.getLsbD_signExtend, BitVec.msb_eq_getLsbD_last,
    getLsbD_signedField a _ ht le (j := fieldWidth t b - 1) (by omega)]
  by_cases inside : j < fieldWidth t b
  · rw [if_pos inside, getLsbD_signedField a _ ht le inside]
    simp [fieldBit, inside, hj]
  · simp [fieldBit, inside, hj, ht, Nat.pos_of_ne_zero hw, Nat.add_sub_assoc (Nat.pos_of_ne_zero hw)]

theorem extractField_lt {t : Ty} {a : Nat} (b : Nat) (ha : a < 2 ^ tyW t) : extractField t a b < 2 ^ tyW t := by
  cases ht : isSint t with
  | false =>
    rw [extractField_unsigned a b ht]
    exact (Nat.mod_le ..).trans_lt ((Nat.div_le_self ..).trans_lt ha)
  | true =>
    by_cases hw : fieldWidth t b = 0
    · rw [extractField_empty a hw]
      positivity
    · rw [extractField_signed a ht hw]
      exact BitVec.isLt _

/-- bfe is the number of its bits (R168). -/
theorem extractField_eq {t : Ty} {a : Nat} (b : Nat) (ha : a < 2 ^ tyW t) : extractField t a b = bitsOf (tyW t) (fieldBit t a b) := by
  refine eq_bitsOf (extractField_lt b ha) fun j hj => ?_
  cases ht : isSint t with
  | false => exact testBit_extractField_unsigned b j ha ht
  | true => exact testBit_extractField_signed a ht hj

/-! bfi. -/

/-- bfi is the number of its bits (R168): of A inside the field, of C outside. -/
theorem insertField_eq (w a b c : Nat) : insertField w a b c =
    bitsOf w (fun j => if b % 256 ≤ j ∧ j < b % 256 + min (b / 256 % 256) w then a.testBit (j - b % 256) else c.testBit j) := by
  simp only [insertField, Bool.and_eq_true, decide_eq_true_eq]

theorem exec_bfe (f : FR) (s : State) :
    exec (.bfe f) s = packedR s .bfe f (fun cx e t i => extractField e.ty (rawA s e t i) (rawB s cx e t i)) := rfl

theorem exec_bfi (f : FR) (s : State) :
    exec (.bfi f) s = packedR s .bfi f (fun cx e t i => insertField (tyW e.ty) (rawA s e t i) (rawB s cx e t i) (rawC s e t i)) := rfl

/-- Settles O11: each bit of bfe is a bit of A extended or of the field's extension, and bfi chooses between A and C bit by bit. -/
theorem bitFields : Obligations.BitFields := by
  refine ⟨packed_of _ exec_bfe fun s cx f t i _ => ?bfe, packed_of _ exec_bfi fun s cx f t i _ => ?bfi⟩
  case bfe => exact congrArg (· % 2 ^ tyW f.ty) (extractField_eq _ (rawA_lt ..))
  case bfi => exact congrArg (· % 2 ^ tyW f.ty) (insertField_eq ..)

end Sys2Proof.Machine
end

section
/-!
PROOFS. The floating-point instructions that never round (R174).
-/

namespace Sys2Proof.Machine

/-! The order of fmin and fmax. -/

theorem XVal.isNan_iff {x : XVal} : x.isNan = true ↔ x = .nan := by cases x <;> simp [XVal.isNan]

theorem XVal.isNan_of_ne {x : XVal} (h : x ≠ .nan) : x.isNan = false := Bool.eq_false_iff.2 (h ∘ XVal.isNan_iff.1)

/-- Whether fmin and fmax order x below y: as a number, or as −0 below +0. -/
def XVal.under (x y : XVal) : Bool := xlt x y || (x.isZero && y.isZero && x.isNeg && !y.isNeg)

theorem negZero_posZero_iff {x y : XVal} : (x.isZero && y.isZero && x.isNeg && !y.isNeg) = true ↔
    (∃ d, x = .fin true 0 d) ∧ ∃ d, y = .fin false 0 d := by
  rcases x with _ | _ | ⟨_, _ | _, _⟩ <;> rcases y with _ | _ | ⟨_, _ | _, _⟩ <;> simp [XVal.isZero, XVal.isNeg]

theorem XVal.under_iff {x y : XVal} :
    x.under y = true ↔ xlt x y = true ∨ ((∃ d, x = .fin true 0 d) ∧ ∃ d, y = .fin false 0 d) := by
  rw [XVal.under, Bool.or_eq_true, negZero_posZero_iff]

theorem xlt_asymm : ∀ {x y : XVal}, xlt x y = true → xlt y x = false
  | .fin .., .fin .., h => decide_eq_false (lt_asymm (of_decide_eq_true h))
  | .inf a, .inf b, h => by
    have ⟨ha, hb⟩ : a = true ∧ b = false := by simpa [xlt] using h
    simp [xlt, ha, hb]
  | .inf _, .fin .., h => by simpa [xlt] using h
  | .fin .., .inf _, h => by simpa [xlt] using h
  | .nan, _, h => by simp [xlt] at h
  | .inf _, .nan, h => by simp [xlt] at h
  | .fin .., .nan, h => by simp [xlt] at h

/-- Of two values at most one is ordered below the other. -/
theorem XVal.under_asymm {x y : XVal} (h : x.under y = true) : y.under x = false := by
  rw [Bool.eq_false_iff, Ne, XVal.under_iff]
  rintro (hlt | ⟨⟨d, rfl⟩, e, rfl⟩) <;> obtain hlt' | ⟨⟨d', h⟩, e', h'⟩ := XVal.under_iff.1 h
  · simp [xlt_asymm hlt] at hlt'
  · simp [h, h', xlt] at hlt
  · simp [xlt] at hlt'
  · cases h

/-! fmin and fmax. -/

section
variable {t : Ty} {a b : Nat}

theorem fminmax_nan_nan (mx : Bool) (ha : (tyFmt t).value a = .nan) (hb : (tyFmt t).value b = .nan) :
    fminmax t mx a b = (tyFmt t).nanCode := by
  simp only [fminmax, XVal.isNan_iff.2 ha, XVal.isNan_iff.2 hb]

theorem fminmax_nan_left (mx : Bool) (ha : (tyFmt t).value a = .nan) (hb : (tyFmt t).value b ≠ .nan) : fminmax t mx a b = b := by
  simp only [fminmax, XVal.isNan_iff.2 ha, XVal.isNan_of_ne hb]

theorem fminmax_nan_right (mx : Bool) (ha : (tyFmt t).value a ≠ .nan) (hb : (tyFmt t).value b = .nan) : fminmax t mx a b = a := by
  simp only [fminmax, XVal.isNan_of_ne ha, XVal.isNan_iff.2 hb]

/-- The choice between operands that are not NaN. -/
theorem fminmax_number (mx : Bool) (ha : (tyFmt t).value a ≠ .nan) (hb : (tyFmt t).value b ≠ .nan) :
    fminmax t mx a b =
      if ((tyFmt t).value a).under ((tyFmt t).value b) != mx then a
      else if ((tyFmt t).value b).under ((tyFmt t).value a) || ((tyFmt t).value a).under ((tyFmt t).value b) then b else a := by
  simp only [fminmax, XVal.isNan_of_ne ha, XVal.isNan_of_ne hb, XVal.under, Bool.and_comm ((tyFmt t).value b).isZero]

theorem fminmax_eq_or (mx : Bool) (ha : (tyFmt t).value a ≠ .nan) (hb : (tyFmt t).value b ≠ .nan) :
    fminmax t mx a b = a ∨ fminmax t mx a b = b := by
  rw [fminmax_number mx ha hb]
  split_ifs <;> simp

/-- With A below B the minimum is A and the maximum B. -/
theorem fminmax_under (mx : Bool) (ha : (tyFmt t).value a ≠ .nan) (hb : (tyFmt t).value b ≠ .nan)
    (h : ((tyFmt t).value a).under ((tyFmt t).value b) = true) : fminmax t mx a b = if mx then b else a := by
  rw [fminmax_number mx ha hb, h]
  cases mx <;> simp

/-- With B below A the minimum is B and the maximum A. -/
theorem fminmax_over (mx : Bool) (ha : (tyFmt t).value a ≠ .nan) (hb : (tyFmt t).value b ≠ .nan)
    (h : ((tyFmt t).value b).under ((tyFmt t).value a) = true) : fminmax t mx a b = if mx then a else b := by
  rw [fminmax_number mx ha hb, h, XVal.under_asymm h]
  cases mx <;> simp

end

theorem exec_fmin (f : FR) (s : State) :
    exec (.fmin f) s = packedR s .fmin f (fun cx e t i => fminmax e.ty false (rawA s e t i) (rawB s cx e t i)) := rfl

theorem exec_fmax (f : FR) (s : State) :
    exec (.fmax f) s = packedR s .fmax f (fun cx e t i => fminmax e.ty true (rawA s e t i) (rawB s cx e t i)) := rfl

/-! fabs and fneg. -/

theorem exec_fabs (f : FR) (s : State) :
    exec (.fabs f) s = packedR s .fabs f (fun _ e t i => signOp e.ty (rawA s e t i) (fun _ => false)) := rfl

theorem exec_fneg (f : FR) (s : State) :
    exec (.fneg f) s = packedR s .fneg f (fun _ e t i => signOp e.ty (rawA s e t i) (fun n => !n)) := rfl

/-- The formats of the types FL are as wide as the type, with the sign bit at the top. -/
theorem signBit_tyFmt : ∀ {t : Ty}, isFl t = true → (tyFmt t).signBit = 2 ^ (tyW t - 1)
  | .f64, _ | .f32, _ | .f16, _ | .bf16, _ => rfl

theorem two_mul_signBit {t : Ty} (h : isFl t = true) : 2 * (tyFmt t).signBit = 2 ^ tyW t := by
  have wide : 1 ≤ tyW t := by cases t <;> decide
  rw [signBit_tyFmt h, ← Nat.pow_succ', Nat.succ_eq_add_one, Nat.sub_add_cancel wide]

theorem legal_fabs {f : FR} (h : legal (.fabs f) = true) : isFl f.ty = true := by
  simp only [legal, legalFp, Bool.and_eq_true] at h
  tauto

theorem legal_fneg {f : FR} (h : legal (.fneg f) = true) : isFl f.ty = true := legal_fabs h

/-- A power of two that a number does not reach is added where it is inverted. -/
theorem xor_two_pow_of_lt {m n : Nat} (h : m < 2 ^ n) : m ^^^ 2 ^ n = 2 ^ n + m := by
  have high : (m ^^^ 2 ^ n) / 2 ^ n = 1 := by simp [Nat.xor_div_two_pow, Nat.div_eq_of_lt h]
  have low : (m ^^^ 2 ^ n) % 2 ^ n = m := by simp [Nat.xor_mod_two_pow, Nat.mod_eq_of_lt h]
  rw [← Nat.div_add_mod (m ^^^ 2 ^ n) (2 ^ n), high, low, Nat.mul_one]

/-- A code with its sign inverted is the code with its sign bit inverted. -/
theorem withSign_not {f : Fmt} {c : Nat} (h : c < 2 * f.signBit) :
    f.withSign (!decide (f.signBit ≤ c)) (c % f.signBit) = c ^^^ f.signBit := by
  by_cases neg : f.signBit ≤ c
  · obtain ⟨m, rfl⟩ := Nat.exists_eq_add_of_le neg
    have hm : m < f.signBit := by omega
    have inverted : m ^^^ f.signBit = f.signBit + m := xor_two_pow_of_lt hm
    calc f.withSign (!decide (f.signBit ≤ f.signBit + m)) ((f.signBit + m) % f.signBit)
      _ = m := by rw [decide_eq_true neg, Nat.add_mod_left, Nat.mod_eq_of_lt hm]; rfl
      _ = (f.signBit + m) ^^^ f.signBit := by rw [← inverted, Nat.xor_xor_cancel_right]
  · have hc : c < f.signBit := not_le.1 neg
    calc f.withSign (!decide (f.signBit ≤ c)) (c % f.signBit)
      _ = f.signBit + c := by rw [decide_eq_false neg, Nat.mod_eq_of_lt hc]; rfl
      _ = c ^^^ f.signBit := (xor_two_pow_of_lt hc).symm

/-- fabs clears the sign bit (R174). -/
theorem signOp_clear {t : Ty} (c : Nat) (ht : isFl t = true) : signOp t c (fun _ => false) =
    if (tyFmt t).value c = .nan then (tyFmt t).nanCode else c % 2 ^ (tyW t - 1) := by
  simp [signOp, XVal.isNan_iff, Fmt.withSign, signBit_tyFmt ht]

/-- fneg inverts the sign bit (R174). -/
theorem signOp_invert {t : Ty} {c : Nat} (hc : c < 2 ^ tyW t) (ht : isFl t = true) : signOp t c (fun n => !n) =
    if (tyFmt t).value c = .nan then (tyFmt t).nanCode else c ^^^ 2 ^ (tyW t - 1) := by
  rw [← signBit_tyFmt ht, ← withSign_not (hc.trans_eq (two_mul_signBit ht).symm)]
  simp only [signOp, XVal.isNan_iff]

/-- `packed_of` where the result is told of legal encodings alone. -/
theorem packed_of_legal {mk : FR → Instr} {x : State → Ctx → FR → Thread → Nat → Nat} (y : State → FR → Ctx → FR → Thread → Nat → Nat)
    (he : ∀ f s, exec (mk f) s = packedR s mk f (y s f))
    (hx : ∀ s cx f t i, legal (mk (cx.fr f)) = true → y s f cx (cx.fr f) t i = x s cx (cx.fr f) t i) : Packed mk x := by
  intro s cx f h hu
  obtain ⟨s', hs, hr⟩ := packed_result mk (fun s => y s f) h hu
  exact ⟨s', (he f s).trans hs, hr.mono fun t _ hw => hw.congr fun i _ => congrArg (· % 2 ^ tyW f.ty) (hx s cx f t i h.legal)⟩

/-- Settles O15: fmin and fmax choose by an order in which −0 is below +0, and fabs and fneg touch the sign bit alone. -/
theorem neverRounding : Obligations.NeverRounding := by
  have runs : ∀ mk mx, (mk, mx) ∈ [(Instr.fmin, false), (Instr.fmax, true)] →
      Packed mk (fun s cx e t i => fminmax e.ty mx (rawA s e t i) (rawB s cx e t i)) := by
    simp only [List.mem_cons, List.not_mem_nil, or_false, Prod.mk.injEq]
    rintro mk mx (⟨rfl, rfl⟩ | ⟨rfl, rfl⟩)
    · exact packed_of _ exec_fmin fun _ _ _ _ _ _ => rfl
    · exact packed_of _ exec_fmax fun _ _ _ _ _ _ => rfl
  refine ⟨fun mk mx hmk => ⟨fun e => fminmax e.ty mx, fun e a b _ _ _ => ?pick, runs mk mx hmk⟩, ?fabs, ?fneg⟩
  case pick =>
    exact ⟨fminmax_nan_nan mx, fminmax_nan_left mx, fminmax_nan_right mx, fun ha hb => ⟨fminmax_eq_or mx ha hb,
      fun h => fminmax_under mx ha hb (XVal.under_iff.2 h), fun h => fminmax_over mx ha hb (XVal.under_iff.2 h)⟩⟩
  case fabs => exact packed_of_legal _ exec_fabs fun _ _ _ _ _ hl => signOp_clear _ (legal_fabs hl)
  case fneg => exact packed_of_legal _ exec_fneg fun _ _ _ _ _ hl => signOp_invert (rawA_lt ..) (legal_fneg hl)

end Sys2Proof.Machine
end

section
/-!
PROOFS. Runs of bytes in a sparse area: what a read gives, and what stands after a splice.
-/

namespace Sys2Proof.Machine

theorem getD_map_range {α : Type} (g : Nat → α) {n j : Nat} (h : j < n) (d : α) : ((List.range n).map g).getD j d = g j := by simp [h]

/-- Of two memories one above the other, an address reads in the one on its side. -/
theorem memRead_append {m n : Mem} {mid : Nat} (hm : ∀ c ∈ m, c.1 < mid) (hn : Memory.wfFrom mid n = true) (x : Nat) :
    memRead (m ++ n) x = if x < mid then memRead m x else memRead n x := by
  induction m with
  | nil =>
    by_cases hx : x < mid
    · simp [memRead, hx, memRead_below hn hx]
    · simp [hx]
  | cons c rest ih =>
    obtain ⟨k, b⟩ := c
    have hk : k < mid := hm (k, b) List.mem_cons_self
    rw [List.cons_append, memRead, memRead, ih fun c hc => hm c (List.mem_cons_of_mem _ hc)]
    by_cases hx : x < mid
    · simp only [if_pos hx]
    · rw [if_neg hx, if_neg hx, if_neg (by omega), if_neg (by omega)]

/-- Where cells are kept by address, a kept address reads as before and any other as zero. -/
theorem memRead_filter {lo : Nat} {m : Mem} (h : Memory.wfFrom lo m = true) (p : Nat → Bool) (x : Nat) :
    memRead (m.filter fun c => p c.1) x = if p x then memRead m x else 0 := by
  induction m generalizing lo with
  | nil => simp [memRead]
  | cons c rest ih =>
    obtain ⟨k, b⟩ := c
    obtain ⟨-, -, hrest⟩ := (Memory.wfFrom_cons lo k b rest).1 h
    by_cases hk : p k = true
    · rw [List.filter_cons, if_pos hk, memRead, memRead, ih hrest]
      by_cases hkx : k = x
      · simp [← hkx, hk]
      · split_ifs <;> rfl
    · rw [List.filter_cons, if_neg hk, memRead, ih hrest]
      by_cases hkx : k = x
      · simp [← hkx, hk]
      · by_cases hx : x < k
        · simp [hkx, hx, memRead_below hrest (hx.trans (Nat.lt_succ_self k))]
        · simp [hkx, hx]

/-- Of the cells of a run, those of its first byte and of the rest, a zero byte unlisted. -/
theorem listed_cellsAt_cons (a : Nat) (b : Byte) (bs : List Byte) : (cellsAt a (b :: bs)).filter (fun c => c.2 != 0) =
    if b = 0 then (cellsAt (a + 1) bs).filter (fun c => c.2 != 0) else (a, b) :: (cellsAt (a + 1) bs).filter (fun c => c.2 != 0) := by
  simp only [cellsAt, List.filter_cons, bne_iff_ne, ite_not]

theorem memRead_cellsAt (a : Nat) (bs : List Byte) {x : Nat} (h : a ≤ x) :
    memRead ((cellsAt a bs).filter fun c => c.2 != 0) x = bs.getD (x - a) 0 := by
  induction bs generalizing a with
  | nil => rfl
  | cons b rest ih =>
    rw [listed_cellsAt_cons]
    obtain rfl | hx := h.eq_or_lt
    · have unlisted := memRead_below (Memory.wfFrom_cellsAt (a + 1) rest) (Nat.lt_succ_self a)
      rw [Nat.sub_self, List.getD_cons_zero]
      by_cases hb : b = 0
      · rw [if_pos hb, unlisted, hb]
      · rw [if_neg hb, memRead, if_pos rfl]
    · have offset : x - a = (x - (a + 1)) + 1 := by omega
      rw [offset, List.getD_cons_succ, ← ih (a + 1) hx]
      by_cases hb : b = 0
      · rw [if_pos hb]
      · rw [if_neg hb, memRead, if_neg hx.ne, if_neg hx.not_gt]

/-- After a splice its run reads as the new bytes, and every other address as before. -/
theorem memRead_memSplice {m : Mem} (h : Memory.wf m = true) (a : Nat) (bs : List Byte) (x : Nat) :
    memRead (memSplice m a bs) x = if a ≤ x ∧ x < a + bs.length then bs.getD (x - a) 0 else memRead m x := by
  have low : ∀ c ∈ m.filter (fun c => c.1 < a), c.1 < a := fun c hc => by simpa using (List.mem_filter.1 hc).2
  have run : ∀ c ∈ (cellsAt a bs).filter (fun c => c.2 != 0), c.1 < a + bs.length := fun c hc =>
    (cellsAt_bounds a bs c (List.mem_filter.1 hc).1).2
  have high : Memory.wfFrom (a + bs.length) (m.filter fun c => a + bs.length ≤ c.1) = true :=
    Memory.wfFrom_atLeast (Memory.wfFrom_filter _ h) fun c hc => by simpa using (List.mem_filter.1 hc).2
  have upper := Memory.wfFrom_append (Memory.wfFrom_cellsAt a bs) run (Nat.le_add_right ..) high
  rw [memSplice, List.append_assoc, memRead_append low upper, memRead_append run high,
    memRead_filter h (fun k => decide (k < a)), memRead_filter h (fun k => decide (a + bs.length ≤ k))]
  by_cases hlow : x < a
  · simp [hlow]
  · by_cases hrun : x < a + bs.length
    · rw [if_neg hlow, if_pos hrun, if_pos ⟨not_lt.1 hlow, hrun⟩, memRead_cellsAt a bs (not_lt.1 hlow)]
    · simp [hlow, hrun, not_lt.1 hrun]

theorem wfFrom_memFrom {lo : Nat} {m : Mem} (h : Memory.wfFrom lo m = true) (a : Nat) : Memory.wfFrom a (memFrom m a) = true := by
  induction m generalizing lo with
  | nil => rfl
  | cons c rest ih =>
    obtain ⟨k, b⟩ := c
    obtain ⟨-, hb, hrest⟩ := (Memory.wfFrom_cons lo k b rest).1 h
    by_cases hk : k < a
    · simpa [memFrom, hk] using ih hrest
    · simpa [memFrom, hk] using (Memory.wfFrom_cons a k b rest).2 ⟨not_lt.1 hk, hb, hrest⟩

theorem memRead_memFrom (m : Mem) {a x : Nat} (h : a ≤ x) : memRead (memFrom m a) x = memRead m x := by
  induction m with
  | nil => rfl
  | cons c rest ih =>
    obtain ⟨k, b⟩ := c
    by_cases hk : k < a
    · rw [memRead, if_neg (by omega), if_neg (by omega), ← ih]
      simp [memFrom, hk]
    · simp [memFrom, hk]

theorem takeBytes_eq (n : Nat) {m : Mem} {a : Nat} (h : Memory.wfFrom a m = true) :
    takeBytes n m a = (List.range n).map fun j => memRead m (a + j) := by
  induction n generalizing m a with
  | zero => rfl
  | succ n ih =>
    have next : (fun j => memRead m (a + j)) ∘ Nat.succ = fun j => memRead m (a + 1 + j) :=
      funext fun j => congrArg (memRead m) (by omega)
    have split : (List.range (n + 1)).map (fun j => memRead m (a + j)) = memRead m a :: (List.range n).map fun j => memRead m (a + 1 + j) := by
      rw [List.range_succ_eq_map, List.map_cons, List.map_map, next]
      rfl
    rw [split]
    cases m with
    | nil => rw [takeBytes, ih rfl]; rfl
    | cons c rest =>
      obtain ⟨k, b⟩ := c
      obtain ⟨hk, hb, hrest⟩ := (Memory.wfFrom_cons a k b rest).1 h
      by_cases hka : k = a
      · subst hka
        have past (j : Nat) : memRead ((k, b) :: rest) (k + 1 + j) = memRead rest (k + 1 + j) := by
          rw [memRead, if_neg (by omega), if_neg (by omega)]
        simp only [past]
        rw [takeBytes, if_pos rfl, ih hrest, memRead, if_pos rfl]
      · have above : Memory.wfFrom (a + 1) ((k, b) :: rest) = true := (Memory.wfFrom_cons ..).2 ⟨by omega, hb, hrest⟩
        rw [takeBytes, if_neg hka, ih above, memRead_below above (Nat.lt_succ_self a)]

/-- A run read in one walk is the bytes read one by one. -/
theorem memRange_eq {m : Mem} (h : Memory.wf m = true) (a n : Nat) :
    memRange m a n = (List.range n).map fun j => memRead m (a + j) := by
  rw [memRange, takeBytes_eq n (wfFrom_memFrom h a)]
  exact List.map_congr_left fun j _ => memRead_memFrom m (Nat.le_add_right a j)

end Sys2Proof.Machine
end

section
/-!
PROOFS. The bits of a run of bytes, lowest first.
-/

namespace Sys2Proof.Machine

/-- Bit j of a run of bytes. -/
def bitAt (bs : List Byte) (j : Nat) : Bool := (bs.getD (j / 8) 0).getLsbD (j % 8)

theorem bitAt_cons_low (b : Byte) (bs : List Byte) {j : Nat} (h : j < 8) : bitAt (b :: bs) j = b.getLsbD j := by
  simp [bitAt, Nat.div_eq_of_lt h, Nat.mod_eq_of_lt h]

theorem bitAt_cons_high (b : Byte) (bs : List Byte) (j : Nat) : bitAt (b :: bs) (8 + j) = bitAt bs j := by
  have byte : (8 + j) / 8 = j / 8 + 1 := by omega
  have bit : (8 + j) % 8 = j % 8 := by omega
  simp [bitAt, byte, bit]

/-- A bit of a byte, or one of the bytes after it. -/
theorem low_or_high (j : Nat) : j < 8 ∨ ∃ i, j = 8 + i := (Nat.lt_or_ge j 8).imp_right Nat.exists_eq_add_of_le

theorem bitAt_memRange {m : Mem} (h : Memory.wf m = true) (a : Nat) {n j : Nat} (hj : j < 8 * n) :
    bitAt (memRange m a n) j = (memRead m (a + j / 8)).getLsbD (j % 8) := by
  have inside : j / 8 < n := by omega
  rw [bitAt, memRange_eq h, getD_map_range _ inside]

theorem bitAt_zipWith_xor {xs ys : List Byte} (h : xs.length = ys.length) (j : Nat) :
    bitAt (List.zipWith (· ^^^ ·) xs ys) j = (bitAt xs j != bitAt ys j) := by
  by_cases hj : j / 8 < ys.length
  · simp [bitAt, h, hj]
  · simp [bitAt, h, hj]

theorem testBit_leNat (bs : List Byte) (j : Nat) : (leNat bs).testBit j = bitAt bs j := by
  induction bs generalizing j with
  | nil => simp [leNat, bitAt]
  | cons b rest ih =>
    rw [leNat, Nat.add_comm, show (256 : Nat) = 2 ^ 8 from rfl, Nat.testBit_two_pow_mul_add _ b.isLt]
    obtain hj | ⟨i, rfl⟩ := low_or_high j
    · rw [if_pos hj, bitAt_cons_low b rest hj, BitVec.testBit_toNat]
    · rw [if_neg (by omega), Nat.add_sub_cancel_left, bitAt_cons_high, ih]

theorem leNat_lt (bs : List Byte) : leNat bs < 2 ^ (8 * bs.length) := by
  refine Nat.lt_pow_two_of_testBit _ fun j hj => ?_
  rw [testBit_leNat, bitAt, List.getD_eq_default _ _ (by omega)]
  exact BitVec.getLsbD_zero

theorem bitAt_leBytes {n j : Nat} (x : Nat) (h : j < 8 * n) : bitAt (leBytes n x) j = x.testBit j := by
  induction n generalizing x j with
  | zero => omega
  | succ n ih =>
    rw [leBytes]
    obtain hj | ⟨i, rfl⟩ := low_or_high j
    · rw [bitAt_cons_low _ _ hj, BitVec.getLsbD_ofNat, decide_eq_true hj, Bool.true_and]
    · rw [bitAt_cons_high, ih _ (by omega), show (256 : Nat) = 2 ^ 8 from rfl, Nat.testBit_div_two_pow, Nat.add_comm]

@[simp] theorem length_leBytes (n x : Nat) : (leBytes n x).length = n := by
  induction n generalizing x with
  | zero => rfl
  | succ n ih => rw [leBytes, List.length_cons, ih]

theorem testBit_byteOfBits (l : List Bool) (j : Nat) : (byteOfBits l).testBit j = l.getD j false := by
  induction l generalizing j with
  | nil => simp [byteOfBits]
  | cons b rest ih =>
    cases j with
    | zero => cases b <;> simp [byteOfBits, Nat.testBit_zero]
    | succ j =>
      have half : ((if b then 1 else 0) + 2 * byteOfBits rest) / 2 = byteOfBits rest := by split <;> omega
      rw [byteOfBits, Nat.testBit_succ, half, ih, List.getD_cons_succ]

theorem bitAt_bytesOfBits {n j : Nat} (l : List Bool) (h : j < 8 * n) : bitAt (bytesOfBits n l) j = l.getD j false := by
  induction n generalizing l j with
  | zero => omega
  | succ n ih =>
    rw [bytesOfBits]
    obtain hj | ⟨i, rfl⟩ := low_or_high j
    · rw [bitAt_cons_low _ _ hj, BitVec.getLsbD_ofNat, testBit_byteOfBits, decide_eq_true hj, Bool.true_and]
      simp [hj]
    · rw [bitAt_cons_high, ih _ (by omega)]
      simp

@[simp] theorem length_bytesOfBits (n : Nat) (l : List Bool) : (bytesOfBits n l).length = n := by
  induction n generalizing l with
  | zero => rfl
  | succ n ih => rw [bytesOfBits, List.length_cons, ih]

theorem bitsOfBytes_eq (bs : List Byte) : bitsOfBytes bs = (List.range (8 * bs.length)).map (bitAt bs) := by
  induction bs with
  | nil => rfl
  | cons b rest ih =>
    have low : (List.range 8).map (bitAt (b :: rest)) = (List.range 8).map b.getLsbD :=
      List.map_congr_left fun j hj => bitAt_cons_low b rest (List.mem_range.1 hj)
    have high : ((List.range (8 * rest.length)).map (8 + ·)).map (bitAt (b :: rest)) = bitsOfBytes rest := by
      rw [ih, List.map_map]
      exact List.map_congr_left fun j _ => bitAt_cons_high b rest j
    rw [List.length_cons, Nat.mul_succ, Nat.add_comm, List.range_add, List.map_append, low, high]
    rfl

/-- Rotated toward higher bits by r, a pattern of n bits has its bit j at (j + r) mod n. -/
theorem testBit_rotate {n r x j : Nat} (hr : r < n) (hx : x < 2 ^ n) (hj : j < n) :
    (x * 2 ^ r % 2 ^ n + x / 2 ^ (n - r)).testBit ((j + r) % n) = x.testBit j := by
  have split : 2 ^ n = 2 ^ (n - r) * 2 ^ r := by rw [← Nat.pow_add, Nat.sub_add_cancel hr.le]
  have wrapped : x / 2 ^ (n - r) < 2 ^ r := Nat.div_lt_of_lt_mul (split ▸ hx)
  have shifted : x * 2 ^ r % 2 ^ n = 2 ^ r * (x % 2 ^ (n - r)) := by rw [split, Nat.mul_mod_mul_right, Nat.mul_comm]
  rw [shifted, Nat.testBit_two_pow_mul_add _ wrapped]
  by_cases inside : j + r < n
  · have below : j < n - r := by omega
    rw [Nat.mod_eq_of_lt inside, if_neg (by omega), Nat.add_sub_cancel, Nat.testBit_mod_two_pow, decide_eq_true below, Bool.true_and]
  · have place : (j + r) % n = j + r - n := by rw [Nat.mod_eq_sub_mod (not_lt.1 inside), Nat.mod_eq_of_lt (by omega)]
    have back : j + r - n + (n - r) = j := by omega
    rw [place, if_pos (by omega), Nat.testBit_div_two_pow, back]

end Sys2Proof.Machine
end

section
/-!
PROOFS. The hypervector instructions that combine (R241).
-/

namespace Sys2Proof.Machine

/-! A team after an update, and an operation of the hypervector path as it is served. -/

theorem State.team?_modTeam {s : State} {k : TeamKey} {tm : Team} (h : s.team? k = some tm) {f : Team → Team}
    (hf : ∀ t, (f t).key = t.key) : (s.modTeam k f).team? k = some (f tm) := by
  have hk : tm.key = k := by simpa using List.find?_some h
  have keys : (fun t : Team => t.key == k) ∘ (fun t => if t.key == k then f t else t) = fun t => t.key == k := by
    funext t
    simp only [Function.comp_apply, apply_ite Team.key, hf, ite_self]
  simp only [State.team?, State.modTeam] at h ⊢
  rw [List.find?_map, keys, h, Option.map_some, if_pos (beq_iff_eq.2 hk)]

/-- Two updates of one team are one. -/
theorem State.modTeam_modTeam (s : State) (k : TeamKey) {f : Team → Team} (g : Team → Team) (hf : ∀ t, (f t).key = t.key) :
    (s.modTeam k f).modTeam k g = s.modTeam k (g ∘ f) := by
  simp only [State.modTeam, List.map_map]
  congr 1
  refine List.map_congr_left fun t _ => ?_
  by_cases ht : t.key = k <;> simp [ht, hf]

theorem exec_engineChunk_hyper {s : State} {c : Nat} {o : EngOp} (h : nextServed s c .hyper = some o) :
    exec (.engineChunk c .hyper) s = .next (hyperChunk s o) := by
  have unit : unitOf o.i = some .hyper := by
    have served := List.find?_some h
    simp only [Bool.and_eq_true, beq_iff_eq] at served
    obtain ⟨⟨-, unit⟩, -⟩ := served
    exact unit
  change execEngineChunk c .hyper s = _
  simp only [execEngineChunk, h]
  split
  case h_5 => rfl
  all_goals
    rename_i hi
    rw [hi] at unit
    cases unit

theorem chunkEnd_rest (s : State) (o : EngOp) (prog : Nat) (last : Bool) :
    chunkEnd s o prog last = { s with ops := (chunkEnd s o prog last).ops } := by cases last <;> rfl

theorem mem_modOp {s : State} {o : EngOp} (h : o ∈ s.ops) (f : EngOp → EngOp) : f o ∈ (s.modOp o.id f).ops :=
  List.mem_map.2 ⟨o, h, if_pos rfl⟩

theorem mem_rotate {s : State} {o : EngOp} (h : o ∈ s.ops) (id : Nat) : o ∈ (rotate s id).ops := by
  by_cases last : o.id = id <;> simp [rotate, h, last]

/-- An operation of the table whose last chunk ends is done when its last write time has passed. -/
theorem chunkEnd_done {s : State} {o : EngOp} (h : o ∈ s.ops) (prog : Nat) :
    ∃ o' ∈ (chunkEnd s o prog true).ops, o'.id = o.id ∧ o'.phase = .done (max o.lastTw s.now) := by
  have turned := mem_rotate (mem_modOp h fun o => { o with prog := prog, apt := [] }) o.id
  exact ⟨_, mem_modOp turned _, rfl, rfl⟩

/-- A hypervector operation whose effect is an update of its team is served. -/
theorem hyper_served {s : State} {c : Nat} {o : EngOp} {tm : Team} {f : Team → Team} (h : nextServed s c .hyper = some o)
    (ht : s.team? o.team = some tm) (he : hyperEffect s o = (s.modTeam o.team f, none)) (hf : ∀ t, (f t).key = t.key) :
    ∃ s', exec (.engineChunk c .hyper) s = .next s' ∧ Served s s' o (f tm) := by
  have chunk : hyperChunk s o = chunkEnd (s.modTeam o.team f) o 0 true := by rw [hyperChunk, he]
  have listed : o ∈ (s.modTeam o.team f).ops := List.mem_of_find?_eq_some h
  refine ⟨_, exec_engineChunk_hyper h, ?_⟩
  rw [chunk]
  exact ⟨State.team?_modTeam ht hf, chunkEnd_done listed 0, chunkEnd_rest ..⟩

/-! Hypervectors and counters, read and written whole. -/

theorem hvBytes_eq {s : State} {k : TeamKey} {tm : Team} (h : s.team? k = some tm) (n : Nat) :
    hvBytes s k n = memRange tm.hv (1024 * n) 1024 := by simp only [hvBytes, h]

theorem counterBytes_eq {s : State} {k : TeamKey} {tm : Team} (h : s.team? k = some tm) (m : Nat) :
    counterBytes s k m = memRange tm.mc (8192 * m) 8192 := by simp only [counterBytes, h]

theorem length_memRange {m : Mem} (h : Memory.wf m = true) (a n : Nat) : (memRange m a n).length = n := by simp [memRange_eq h]

theorem bitAt_hypervector {tm : Team} (h : Memory.wf tm.hv = true) (n : Nat) {j : Nat} (hj : j < 8192) :
    bitAt (memRange tm.hv (1024 * n) 1024) j = hvBit tm n j := bitAt_memRange h _ hj

theorem bitsOfBytes_hypervector {tm : Team} (h : Memory.wf tm.hv = true) (n : Nat) :
    bitsOfBytes (memRange tm.hv (1024 * n) 1024) = (List.range 8192).map (hvBit tm n) := by
  rw [bitsOfBytes_eq, length_memRange h]
  exact List.map_congr_left fun j hj => bitAt_hypervector h n (List.mem_range.1 hj)

section
variable {s : State} {c : Nat} {o : EngOp} {tm : Team} {f : FH}

/-- An operation that sets hypervector d is served: d has the new bits, every other hypervector its own. -/
theorem hyper_sets_hypervector {d : Nat} {bs : List Byte} (h : nextServed s c .hyper = some o) (ht : s.team? o.team = some tm)
    (hw : Memory.wf tm.hv = true) (he : hyperEffect s o = (setHv s o.team d bs, none)) (hl : bs.length = 1024) :
    ∃ s' tm', exec (.engineChunk c .hyper) s = .next s' ∧ Served s s' o tm' ∧
      (tm' = { tm with hv := tm'.hv } ∧ ∀ n j, n ≠ d → j < 8192 → hvBit tm' n j = hvBit tm n j) ∧
      ∀ j, j < 8192 → hvBit tm' d j = bitAt bs j := by
  obtain ⟨s', hs, served⟩ := hyper_served h ht he fun _ => rfl
  refine ⟨s', _, hs, served, ⟨rfl, fun n j hn hj => ?others⟩, fun j hj => ?same⟩
  case others =>
    have outside : ¬ (1024 * d ≤ 1024 * n + j / 8 ∧ 1024 * n + j / 8 < 1024 * d + 1024) := by omega
    simp only [hvBit, memRead_memSplice hw, hl, if_neg outside]
  case same =>
    have inside : 1024 * d ≤ 1024 * d + j / 8 ∧ 1024 * d + j / 8 < 1024 * d + 1024 := by omega
    simp only [hvBit, memRead_memSplice hw, hl, if_pos inside, Nat.add_sub_cancel_left, bitAt]

/-! hbind, hperm and hmaj. -/

theorem hyperEffect_hbind (hi : o.i = .hbind f) (ht : s.team? o.team = some tm) :
    hyperEffect s o = (setHv s o.team f.d.toNat (List.zipWith (· ^^^ ·) (memRange tm.hv (1024 * f.a.toNat) 1024)
      (memRange tm.hv (1024 * f.b.toNat) 1024)), none) := by
  simp only [hyperEffect, hi, hvBytes_eq ht]

theorem hyperEffect_hperm (hi : o.i = .hperm f) (ht : s.team? o.team = some tm) :
    hyperEffect s o = (setHv s o.team f.d.toNat (rotated (memRange tm.hv (1024 * f.a.toNat) 1024) f.rot.toNat), none) := by
  simp only [hyperEffect, hi, hvBytes_eq ht]

theorem hyperEffect_hmaj (hi : o.i = .hmaj f) (ht : s.team? o.team = some tm) :
    hyperEffect s o = (setHv s o.team f.d.toNat (bytesOfBits 1024 (majority (memRange tm.mc (8192 * f.mc.toNat) 8192)
      (bitsOfBytes (memRange tm.hv (1024 * f.tb.toNat) 1024)))), none) := by
  simp only [hyperEffect, hi, hvBytes_eq ht, counterBytes_eq ht]

/-- The bit of a run that a rotation of all its n bits puts at (j + r) mod n. -/
theorem testBit_rotate_leNat {bs : List Byte} {n r j : Nat} (hn : 8 * bs.length = n) (hr : r < n) (hj : j < n) :
    (leNat bs * 2 ^ r % 2 ^ n + leNat bs / 2 ^ (n - r)).testBit ((j + r) % n) = bitAt bs j := by
  subst hn
  rw [testBit_rotate hr (leNat_lt bs) hj, testBit_leNat]

theorem bitAt_rotated {bs : List Byte} {r j : Nat} (hl : bs.length = 1024) (hr : r < 8192) (hj : j < 8192) :
    bitAt (rotated bs r) ((j + r) % 8192) = bitAt bs j := by
  have inside : (j + r) % 8192 < 8 * 1024 := Nat.mod_lt _ (by omega)
  rw [rotated, bitAt_leBytes _ inside]
  exact testBit_rotate_leNat (by omega) hr hj

theorem majority_eq (hv : Memory.wf tm.hv = true) (hc : Memory.wf tm.mc = true) (m n : Nat) :
    majority (memRange tm.mc (8192 * m) 8192) (bitsOfBytes (memRange tm.hv (1024 * n) 1024)) =
      (List.range 8192).map fun j => if hvCounter tm m j = 0 then hvBit tm n j else decide (0 < hvCounter tm m j) := by
  rw [bitsOfBytes_hypervector hv, memRange_eq hc, majority, List.zipWith_map, List.zipWith_self]
  rfl

/-- The majority of counter j: its sign, and where it is zero the bit that breaks the tie. -/
theorem bitAt_majority (hv : Memory.wf tm.hv = true) (hc : Memory.wf tm.mc = true) (m n : Nat) {j : Nat} (hj : j < 8192) :
    bitAt (bytesOfBits 1024 (majority (memRange tm.mc (8192 * m) 8192) (bitsOfBytes (memRange tm.hv (1024 * n) 1024)))) j =
      if 0 < hvCounter tm m j then true else if hvCounter tm m j < 0 then false else hvBit tm n j := by
  rw [bitAt_bytesOfBits _ hj, majority_eq hv hc, getD_map_range _ hj]
  obtain neg | zero | pos := lt_trichotomy (hvCounter tm m j) 0
  · rw [if_neg neg.ne, if_neg neg.not_gt, if_pos neg, decide_eq_false neg.not_gt]
  · simp [zero]
  · rw [if_neg pos.ne', if_pos pos, decide_eq_true pos]

/-! hbun. -/

/-- Counter j of m with bit j of hypervector a bundled into it, before the clamp. -/
def bundleSum (tm : Team) (m a j : Nat) : Int := hvCounter tm m j + (if hvBit tm a j then 1 else -1)

/-- Some counter leaves the range. -/
def bundleSaturates (tm : Team) (m a : Nat) : Bool :=
  (List.range 8192).any fun j => bundleSum tm m a j < -127 || 127 < bundleSum tm m a j

theorem bundleSaturates_iff {m a : Nat} :
    bundleSaturates tm m a = true ↔ ∃ j, j < 8192 ∧ (bundleSum tm m a j < -127 ∨ 127 < bundleSum tm m a j) := by
  simp [bundleSaturates]

/-- The bundled counters as bytes. -/
def bundledBytes (tm : Team) (m a : Nat) : List Byte :=
  (List.range 8192).map fun j => BitVec.ofInt 8 (max (-127) (min 127 (bundleSum tm m a j)))

theorem bundled_eq (hv : Memory.wf tm.hv = true) (hc : Memory.wf tm.mc = true) (m a : Nat) :
    bundled (memRange tm.mc (8192 * m) 8192) (bitsOfBytes (memRange tm.hv (1024 * a) 1024)) =
      (bundledBytes tm m a, bundleSaturates tm m a) := by
  rw [bitsOfBytes_hypervector hv, memRange_eq hc, bundled, List.zipWith_map, List.zipWith_self, List.map_map, List.any_map]
  rfl

/-- A counter in range stands in its byte as it is. -/
theorem toInt_clamp (x : Int) : (BitVec.ofInt 8 (max (-127) (min 127 x))).toInt = max (-127) (min 127 x) :=
  BitVec.toInt_ofInt_eq_self (by decide) (by omega) (by omega)

/-- A team with counters m replaced, and MSAT bit m set where one of them saturated. -/
def setBundle (m : Nat) (bs : List Byte) (saturated : Bool) (t : Team) : Team :=
  { t with mc := memSplice t.mc (8192 * m) bs, msat := if saturated then t.msat ||| BitVec.ofNat 4 (2 ^ m) else t.msat }

theorem setBundle_key (m : Nat) (bs : List Byte) (saturated : Bool) (t : Team) : (setBundle m bs saturated t).key = t.key := rfl

theorem setBundle_rest (m : Nat) (bs : List Byte) (saturated : Bool) (t : Team) : setBundle m bs saturated t =
    { t with mc := (setBundle m bs saturated t).mc, msat := (setBundle m bs saturated t).msat } := rfl

theorem hyperEffect_hbun (hi : o.i = .hbun f) (ht : s.team? o.team = some tm) (hv : Memory.wf tm.hv = true)
    (hc : Memory.wf tm.mc = true) : hyperEffect s o =
      (s.modTeam o.team (setBundle f.mc.toNat (bundledBytes tm f.mc.toNat f.a.toNat) (bundleSaturates tm f.mc.toNat f.a.toNat)), none) := by
  simp only [hyperEffect, hi, hvBytes_eq ht, counterBytes_eq ht, bundled_eq hv hc]
  cases bundleSaturates tm f.mc.toNat f.a.toNat with
  | false => rfl
  | true => exact congrArg (·, none) (State.modTeam_modTeam s o.team _ fun _ => rfl)

theorem hvCounter_setBundle_same (hc : Memory.wf tm.mc = true) (m a : Nat) (sat : Bool) {j : Nat} (hj : j < 8192) :
    hvCounter (setBundle m (bundledBytes tm m a) sat tm) m j = max (-127) (min 127 (bundleSum tm m a j)) := by
  have inside : 8192 * m ≤ 8192 * m + j ∧ 8192 * m + j < 8192 * m + (bundledBytes tm m a).length := by simp [bundledBytes, hj]
  have byte : (bundledBytes tm m a).getD j 0 = BitVec.ofInt 8 (max (-127) (min 127 (bundleSum tm m a j))) := getD_map_range _ hj _
  rw [hvCounter, setBundle, memRead_memSplice hc, if_pos inside, Nat.add_sub_cancel_left, byte, toInt_clamp]

theorem hvCounter_setBundle_other (hc : Memory.wf tm.mc = true) {m n : Nat} (a : Nat) (sat : Bool) {j : Nat} (hn : n ≠ m)
    (hj : j < 8192) : hvCounter (setBundle m (bundledBytes tm m a) sat tm) n j = hvCounter tm n j := by
  have outside : ¬ (8192 * m ≤ 8192 * n + j ∧ 8192 * n + j < 8192 * m + (bundledBytes tm m a).length) := by
    simp only [bundledBytes, List.length_map, List.length_range]
    omega
  simp only [hvCounter, setBundle, memRead_memSplice hc, if_neg outside]

/-- MSAT bit m is set where a counter saturated, and every MSAT bit stands otherwise. -/
theorem msat_setBundle {m : Nat} (hm : m < 4) (bs : List Byte) (sat : Bool) (n : Nat) :
    (setBundle m bs sat tm).msat.getLsbD n = (tm.msat.getLsbD n || sat && decide (n = m)) := by
  have bit : (BitVec.ofNat 4 (2 ^ m)).getLsbD n = decide (n = m) := by
    rw [BitVec.getLsbD_ofNat, Nat.testBit_two_pow, Bool.and_eq_decide]
    grind
  cases sat with
  | false => simp [setBundle]
  | true => simp only [setBundle, if_true, BitVec.getLsbD_or, bit, Bool.true_and]

end

/-- Settles O39: the bits and counters are read out as functions of the position, and the splice that writes them touches no others. -/
theorem combiningHypervectors : Obligations.CombiningHypervectors := by
  intro s c o tm f h ht hv hc
  refine ⟨fun hi => ?hbind, fun hi => ?hperm, fun hi => ?hmaj, fun hi => ?hbun, fun m j _ _ low => ?least⟩
  case hbind =>
    obtain ⟨s', tm', hs, served, others, bits⟩ := hyper_sets_hypervector h ht hv (hyperEffect_hbind hi ht) (by simp [length_memRange hv])
    refine ⟨s', tm', hs, served, others, fun j hj => ?_⟩
    rw [bits j hj, bitAt_zipWith_xor (by simp only [length_memRange hv]), bitAt_hypervector hv _ hj, bitAt_hypervector hv _ hj]
  case hperm =>
    obtain ⟨s', tm', hs, served, others, bits⟩ := hyper_sets_hypervector h ht hv (hyperEffect_hperm hi ht) (length_leBytes ..)
    refine ⟨s', tm', hs, served, others, fun j hj => ?_⟩
    have inside : (j + f.rot.toNat) % 8192 < 8192 := Nat.mod_lt _ (by omega)
    rw [bits _ inside, bitAt_rotated (length_memRange hv ..) f.rot.isLt hj, bitAt_hypervector hv _ hj]
  case hmaj =>
    obtain ⟨s', tm', hs, served, others, bits⟩ := hyper_sets_hypervector h ht hv (hyperEffect_hmaj hi ht) (length_bytesOfBits ..)
    refine ⟨s', tm', hs, served, others, fun j hj => ?_⟩
    rw [bits j hj, bitAt_majority hv hc _ _ hj]
  case hbun =>
    obtain ⟨s', hs, served⟩ := hyper_served h ht (hyperEffect_hbun hi ht hv hc) (setBundle_key _ _ _)
    refine ⟨s', _, hs, served, ⟨setBundle_rest .., fun n j hn hj => ?others, fun b hb => ?bits⟩, fun j hj => ?same, ?saturation⟩
    case others => exact hvCounter_setBundle_other hc _ _ hn hj
    case bits => rw [msat_setBundle f.mc.isLt, decide_eq_false hb, Bool.and_false, Bool.or_false]
    case same => exact hvCounter_setBundle_same hc _ _ _ hj
    case saturation => simp only [msat_setBundle f.mc.isLt, decide_true, Bool.and_true, Bool.or_eq_true, bundleSaturates_iff, bundleSum]
  case least =>
    rw [hvCounter, low]
    rfl

end Sys2Proof.Machine
end

section
/-!
PROOFS. The bank an image is written to, and its SEQ (R390).
-/

namespace Sys2Proof.Machine

/-! What decides where an image goes: the banks, and whether a set was admitted when the supply was lost. -/

/-- The banks of the package, and whether an image is to be written. -/
def State.imaging (s : State) : Vector Bank 2 × Bool := (s.banks, s.armed)

/-- What every step of a fold leaves alone, the fold leaves alone. -/
theorem foldl_keeps {α β γ : Type} (g : α → γ) {f : α → β → α} (h : ∀ a b, g (f a b) = g a) (l : List β) (a : α) :
    g (l.foldl f a) = g a :=
  (List.foldl_hom g (g₂ := fun c _ => c) fun a b => (h a b).symm).symm.trans (List.foldl_fixed _)

theorem bookGroup_imaging (s : State) (d pc g : Nat) : (bookGroup s d pc g).imaging = s.imaging := by
  unfold bookGroup
  simp only
  split <;> rfl

theorem bookCorrection_imaging (s : State) (sector : Nat) (bad : List (Nat × Byte)) :
    (bookCorrection s sector bad).imaging = s.imaging :=
  foldl_keeps State.imaging (fun s _ => bookGroup_imaging s ..) _ _

theorem poisonSector_imaging (s : State) (sector : Nat) : (poisonSector s sector).imaging = s.imaging := by
  unfold poisonSector
  split <;> rfl

theorem pokeBytes_imaging (s : State) (a : Nat) (bs : List Byte) : (s.pokeBytes a bs).imaging = s.imaging := rfl

/-- Reading a sector through its decoder touches no bank. -/
theorem decodeSector_imaging (s : State) (sector : Nat) : (decodeSector s sector).imaging = s.imaging := by
  unfold decodeSector
  split
  · rfl
  · simp only
    split
    · split
      · rfl
      · exact bookCorrection_imaging ..
    · split
      · exact poisonSector_imaging s sector
      · rw [pokeBytes_imaging]
        rfl

theorem applyVersion_imaging (s : State) (v : Version) : (applyVersion s v).imaging = s.imaging :=
  foldl_keeps State.imaging decodeSector_imaging _ s

theorem settleLoop_imaging (n : Nat) (s : State) : (settleLoop n s).imaging = s.imaging := by
  induction n generalizing s with
  | zero => rfl
  | succ n ih =>
    unfold settleLoop
    split
    · split
      · rw [ih, applyVersion_imaging]
        rfl
      · rfl
    · rfl

/-- Freezing the homes touches no bank (R379). -/
theorem freeze_imaging (s : State) : (freeze s).imaging = s.imaging := by
  have decoded := foldl_keeps State.imaging fun s (b : Nat × List (Nat × Byte)) => decodeSector_imaging s b.1
  exact (decoded _ _).trans (settleLoop_imaging ..)

theorem freeze_banks (s : State) : (freeze s).banks = s.banks := congrArg Prod.fst (freeze_imaging s)

theorem freeze_armed (s : State) : (freeze s).armed = s.armed := congrArg Prod.snd (freeze_imaging s)

/-! The choice of the bank. -/

theorem State.bank_congr {s t : State} (h : s.banks = t.banks) : s.bank = t.bank := by
  funext n
  rw [State.bank, State.bank, h]

theorem saveBank_congr {s t : State} (h : s.banks = t.banks) : saveBank s = saveBank t := by
  unfold saveBank saveBarred
  rw [State.bank_congr h]

theorem nextSeq_congr {s t : State} (h : s.banks = t.banks) : nextSeq s = nextSeq t := by
  unfold nextSeq
  rw [State.bank_congr h]

theorem Bank.isSealed_iff (b : Bank) :
    b.isSealed = true ↔ b.ver = 1 ∧ b.nitem ≤ 4096 ∧ b.sealseq = b.seq ∧ b.sealcrc = crc32c b.sealed := by
  simp only [Bank.isSealed, Bool.and_eq_true, beq_iff_eq, decide_eq_true_eq, and_assoc]

section
variable {s : State}

/-- With bank 0 bad an image goes to bank 1, unless that is bad too or holds a sealed image (R391). -/
theorem saveBank_of_first_bad (h0 : (s.bank 0).bad = true) :
    saveBank s = if (s.bank 1).bad || (s.bank 1).isSealed then none else some 1 := by
  cases h1 : (s.bank 1).bad <;> simp [saveBank, saveBarred, h0, h1]

/-- With only bank 1 bad an image goes to bank 0, unless that holds a sealed image (R391). -/
theorem saveBank_of_second_bad (h0 : (s.bank 0).bad = false) (h1 : (s.bank 1).bad = true) :
    saveBank s = if (s.bank 0).isSealed then none else some 0 := by
  simp [saveBank, saveBarred, h0, h1]

/-- With neither bank bad, the seals and the sequence numbers choose (R390). -/
theorem saveBank_of_good (h0 : (s.bank 0).bad = false) (h1 : (s.bank 1).bad = false) :
    saveBank s = some (if (s.bank 0).isSealed && (s.bank 1).isSealed then (if (s.bank 0).seq < (s.bank 1).seq then 0 else 1)
      else if (s.bank 0).isSealed then 1 else 0) := by
  simp only [saveBank, saveBarred, h0, h1, Bool.false_and, Bool.or_self, Bool.false_eq_true, if_false, apply_ite some]

theorem saveBank_of_first_unsealed (h0 : (s.bank 0).bad = false) (h1 : (s.bank 1).bad = false) (u0 : (s.bank 0).isSealed = false) :
    saveBank s = some 0 := by simp [saveBank_of_good h0 h1, u0]

theorem saveBank_of_first_sealed (h0 : (s.bank 0).bad = false) (h1 : (s.bank 1).bad = false) (s0 : (s.bank 0).isSealed = true)
    (u1 : (s.bank 1).isSealed = false) : saveBank s = some 1 := by simp [saveBank_of_good h0 h1, s0, u1]

theorem saveBank_of_both_sealed (h0 : (s.bank 0).bad = false) (h1 : (s.bank 1).bad = false) (s0 : (s.bank 0).isSealed = true)
    (s1 : (s.bank 1).isSealed = true) : saveBank s = some (if (s.bank 0).seq < (s.bank 1).seq then 0 else 1) := by
  simp [saveBank_of_good h0 h1, s0, s1]

/-- The bank an image goes to is one of the two, and not a bad one (R391). -/
theorem saveBank_usable {n : Nat} (h : saveBank s = some n) : n < 2 ∧ (s.bank n).bad = false := by
  cases h0 : (s.bank 0).bad with
  | true =>
    rw [saveBank_of_first_bad h0, Option.ite_none_left_eq_some, Option.some_inj, Bool.or_eq_true, not_or, Bool.not_eq_true] at h
    obtain ⟨⟨h1, -⟩, rfl⟩ := h
    exact ⟨by omega, h1⟩
  | false =>
    cases h1 : (s.bank 1).bad with
    | true =>
      rw [saveBank_of_second_bad h0 h1, Option.ite_none_left_eq_some, Option.some_inj] at h
      obtain ⟨-, rfl⟩ := h
      exact ⟨by omega, h0⟩
    | false =>
      rw [saveBank_of_good h0 h1] at h
      have either : n = 0 ∨ n = 1 := by grind
      obtain rfl | rfl := either
      · exact ⟨by omega, h0⟩
      · exact ⟨by omega, h1⟩

end

/-! The sequence number of the next image. -/

/-- The SEQ of a sealed image, 0 where a bank holds none. -/
def Bank.sealedSeq (b : Bank) : Nat := if b.isSealed then b.seq else 0

theorem Bank.sealedSeq_of_sealed {b : Bank} (h : b.isSealed = true) : b.sealedSeq = b.seq := if_pos h

theorem Bank.sealedSeq_of_unsealed {b : Bank} (h : b.isSealed = false) : b.sealedSeq = 0 := by rw [Bank.sealedSeq, h, if_neg nofun]

theorem nextSeq_eq (s : State) : nextSeq s = max (s.bank 0).sealedSeq (s.bank 1).sealedSeq + 1 := rfl

theorem sealedSeq_lt_nextSeq (s : State) {n : Nat} (h : n < 2) : (s.bank n).sealedSeq < nextSeq s := by
  rw [nextSeq_eq, Nat.lt_succ_iff]
  obtain rfl | rfl : n = 0 ∨ n = 1 := by omega
  · exact le_max_left ..
  · exact le_max_right ..

theorem nextSeq_attained (s : State) : ∃ n, n < 2 ∧ nextSeq s = (s.bank n).sealedSeq + 1 := by
  rw [nextSeq_eq]
  rcases max_choice (s.bank 0).sealedSeq (s.bank 1).sealedSeq with first | second
  · exact ⟨0, by omega, by rw [first]⟩
  · exact ⟨1, by omega, by rw [second]⟩

/-- Where some bank is sealed, the next image's SEQ is one more than a sealed bank's. -/
theorem nextSeq_of_sealed {s : State} {n : Nat} (hn : n < 2) (h : (s.bank n).isSealed = true) :
    ∃ m, m < 2 ∧ (s.bank m).isSealed = true ∧ nextSeq s = (s.bank m).seq + 1 := by
  obtain ⟨m, hm, attained⟩ := nextSeq_attained s
  cases hs : (s.bank m).isSealed with
  | true => exact ⟨m, hm, hs, by rw [attained, Bank.sealedSeq_of_sealed hs]⟩
  | false =>
    -- The highest is 0, so the sealed bank's own SEQ is 0 and as high.
    rw [Bank.sealedSeq_of_unsealed hs] at attained
    have below := sealedSeq_lt_nextSeq s hn
    rw [Bank.sealedSeq_of_sealed h] at below
    exact ⟨n, hn, h, by omega⟩

/-! The image as it is written. -/

/-- VER and SEQ of a bank's header. -/
def Bank.heading (b : Bank) : Nat × Nat := (b.ver, b.seq)

theorem saveItem_heading (s : State) (n : Nat) (b : Bank) (p : MustSet × MustItem) (doff limit : Nat) :
    (saveItem s n b p doff limit).heading = b.heading :=
  foldl_keeps Bank.heading (f := saveChunk s n p.2 doff) (fun _ _ => rfl) _ b

theorem saveItems_heading (s : State) (n limit doff : Nat) (l : List (MustSet × MustItem)) (b : Bank) :
    (saveItems s n limit doff l b).heading = b.heading := by
  induction l generalizing doff b with
  | nil => rfl
  | cons p rest ih => exact (ih ..).trans (saveItem_heading ..)

/-- An image goes to its bank alone, under VER 1 and the next SEQ (R389, R390). -/
theorem saveImage_bank (s : State) {n : Nat} (h : n < 2) (tdet tc : Nat) :
    ((saveImage s n tdet tc).bank n).heading = (1, nextSeq s) ∧ ∀ m, m ≠ n → (saveImage s n tdet tc).bank m = s.bank m := by
  constructor
  · simp only [saveImage, State.putBank, State.bank, vget_vset_same _ _ _ _ h, saveItems_heading]
    rfl
  · intro m hm
    exact vget_vset_other _ _ _ hm.symm

/-- At Tc, with nothing under way, an armed package writes its image to the bank chosen (R379, R389). -/
theorem exec_holdupFreeze_saves {s : State} {tdet n : Nat} (hp : s.power = .stopping tdet) (late : tdet + 20000 ≤ s.now)
    (quiet : onTheWay s = false) (armed : s.armed = true) (hn : saveBank s = some n) :
    exec .holdupFreeze s = .next { saveImage (freeze s) n tdet (tdet + 20000) with power := .saving tdet (tdet + 20000) } := by
  have due : ¬ (decide (s.now < tdet + 20000) || onTheWay s) = true := by simp [quiet, late]
  have bank : saveBank (freeze s) = some n := (saveBank_congr (freeze_banks s)).trans hn
  have still : (freeze s).armed = true := (freeze_armed s).trans armed
  change execHoldupFreeze s = _
  simp only [execHoldupFreeze, hp, due, bank, still, if_true]
  rfl

/-- Settles O60: the choice goes by the seals, the marks and the sequence numbers of the two banks, and freezing the homes changes none. -/
theorem imageBanks : Obligations.ImageBanks := by
  refine ⟨Bank.isSealed_iff, fun s => ⟨fun n => saveBank_usable, fun h0 h1 => ?choice, fun n hn hs => ?above, fun u0 u1 => ?first,
    fun n => nextSeq_of_sealed⟩, fun s tdet n hp late quiet armed hn => ?written⟩
  case choice =>
    refine ⟨fun u0 _ => saveBank_of_first_unsealed h0 h1 u0, saveBank_of_first_sealed h0 h1,
      fun u0 _ => saveBank_of_first_unsealed h0 h1 u0, fun s0 s1 => ⟨fun lt => ?_, fun gt => ?_⟩⟩
    · rw [saveBank_of_both_sealed h0 h1 s0 s1, if_pos lt]
    · rw [saveBank_of_both_sealed h0 h1 s0 s1, if_neg gt.asymm]
  case above =>
    rw [← Bank.sealedSeq_of_sealed hs]
    exact sealedSeq_lt_nextSeq s hn
  case first => rw [nextSeq_eq, Bank.sealedSeq_of_unsealed u0, Bank.sealedSeq_of_unsealed u1, Nat.max_self]
  case written =>
    obtain ⟨usable, -⟩ := saveBank_usable hn
    obtain ⟨heading, others⟩ := saveImage_bank (freeze s) usable tdet (tdet + 20000)
    rw [nextSeq_congr (freeze_banks s)] at heading
    rw [State.bank_congr (freeze_banks s)] at others
    exact ⟨_, exec_holdupFreeze_saves hp late quiet armed hn, congrArg Prod.fst heading, congrArg Prod.snd heading, others⟩

end Sys2Proof.Machine
end
